-- ==== Sys2Proof/Word.lean ====
section
/-! DEFINITION. Word.lean: the word types of Karelm (00 R3, R6) and their plainest arithmetic. -/

namespace Sys2Proof

/-- One byte. -/
abbrev Byte := BitVec 8
/-- One lane of a vector register (01 R31). -/
abbrev Word := BitVec 32
/-- A register pair read as one value (00 R6). -/
abbrev DWord := BitVec 64
/-- A set of lanes: bit i is lane i. -/
abbrev Mask := BitVec 32
/-- A program counter: line address with the slot in bits [2:0] (02 R45). -/
abbrev PC := BitVec 64
/-- An instruction slot (02 R45). -/
abbrev Slot96 := BitVec 96
/-- A stamp count (16 R351). Counts are compared and added; log 8. -/
abbrev Stamp := Nat

/-- Lane `i` is in the set. -/
abbrev Mask.has (m : Mask) (i : Nat) : Bool := m.getLsbD i

/-- The lanes of a set in ascending order. -/
def lanesOf (m : Mask) : List Nat := (List.range 32).filter fun i => m.getLsbD i

/-- The set of the lanes for which `p` holds. -/
def maskOf (p : Nat → Bool) : Mask :=
  BitVec.ofNat 32 ((List.range 32).foldl (fun a i => if p i then a + 2 ^ i else a) 0)

/-- The lowest lane of a set. -/
def lowLane (m : Mask) : Option Nat := (List.range 32).find? fun i => m.getLsbD i

/-- The set of the lanes below `n`. -/
def firstLanes (n : Nat) : Mask := BitVec.ofNat 32 (2 ^ min n 32 - 1)

/-- The low word of a pair's value. -/
def lo32 (d : DWord) : Word := d.extractLsb' 0 32
/-- The high word of a pair's value. -/
def hi32 (d : DWord) : Word := d.extractLsb' 32 32
/-- The pair's value of a low and a high word (00 R6). -/
def pair64 (lo hi : Word) : DWord := hi ++ lo

/-- Bits [hi:lo] of a natural number. -/
def bitsOf (n lo len : Nat) : Nat := n / 2 ^ lo % 2 ^ len

/-- `a` rounded up to a multiple of `m`. -/
def roundUp (a m : Nat) : Nat := (a + m - 1) / m * m

/-- `ceil (a / m)`. -/
def ceilDiv (a m : Nat) : Nat := (a + m - 1) / m

end Sys2Proof
end

