-- ==== Sys2Proof/Config.lean ====
section
/-! DEFINITION. Config.lean: what the spec leaves open or fixes in manufacture, as constants without a body: nothing can be
proved of their values (logs 7 and 9). -/

namespace Sys2Proof.Config

/-- The bits a special function returns within the bound of Table 5-5 (05 R137), by function number, type number and operand
bits. Used only where the value lies within the bound (log 7). -/
opaque specialBits : Nat → Nat → Nat → Nat

/-- Values the spec leaves open, each applied to a counter of the state or to an address: the stamp st.stamp writes for a store
that receives none (log 17), and the bytes of a C page past the end of its chunk (log 14). -/
opaque freeStamp : Nat → DWord
opaque pastChunk : Nat → Byte

/-- How many of the newest writes a load misses of those that 08 R212 lets it miss (log 3): taken modulo their number plus one. -/
opaque staleLoads : Nat → Nat

/-- The history reserve that firmware sets aside at boot, in GiB (13 R315): taken within 1 to 12 (log 38). -/
opaque historyReserve : Nat

/-- The first and second fused key hashes, as big-endian numbers (20 R424, log 9). -/
opaque fusedRsaHash : Nat
opaque fusedSlhHash : Nat
/-- The identity keys' public halves as numbers, and their signatures of a message (20 R426, log 9). -/
opaque identityRsaKey : Nat
opaque identitySlhKey : Nat
opaque identityRsaSign : List Byte → Nat
opaque identitySlhSign : List Byte → Nat

end Sys2Proof.Config
end

