-- ==== Sys2Proof/Syntax.lean ====
section
/-! DEFINITION. Syntax.lean: the five instruction formats (02 R50 to R63), the code tables they name, and Instr:
one constructor for every row of spec/opcode_table.json. The first 157 rows are instructions of the 96-bit word; the
others are the steps of the package's other agents, of its firmware and of the world outside it. -/

namespace Sys2Proof

/-- Operand types, TYPE codes of Table 2-3 (02 R54). -/
inductive Ty where
  | none | i8 | i16 | i32 | i64 | n8 | n16 | n32 | n64 | f16 | bf16 | f32 | f64 | bp | reserved
  deriving DecidableEq, Repr

/-- Table 2-3. -/
def Ty.ofCode : Nat → Ty
  | 0 => .none | 1 => .i8 | 2 => .i16 | 3 => .i32 | 4 => .i64 | 5 => .n8 | 6 => .n16 | 7 => .n32 | 8 => .n64
  | 9 => .f16 | 10 => .bf16 | 11 => .f32 | 12 => .f64 | 13 => .bp | _ => .reserved

/-- Width in bits (03 Table 3-1, Table 3-2); 32 for no type (a move of one register). -/
def Ty.width : Ty → Nat
  | .i8 | .n8 => 8
  | .i16 | .n16 | .f16 | .bf16 => 16
  | .i64 | .n64 | .f64 => 64
  | _ => 32

/-- The signed integer types (03 R73). -/
def Ty.signed : Ty → Bool
  | .i8 | .i16 | .i32 | .i64 => true
  | _ => false

/-- An integer type. -/
def Ty.isInt : Ty → Bool
  | .i8 | .i16 | .i32 | .i64 | .n8 | .n16 | .n32 | .n64 => true
  | _ => false

/-- A floating-point type. -/
def Ty.isFloat : Ty → Bool
  | .f16 | .bf16 | .f32 | .f64 => true
  | _ => false

/-- The type occupies a register pair (00 R6, 03 R73, R76). -/
def Ty.wide (t : Ty) : Bool := t.width == 64

/-- Rounding modes, Table 2-4 (02 R55). -/
inductive Rnd where
  | rne | rtz | rup | rdn | rna | reserved
  deriving DecidableEq, Repr

/-- Table 2-4. -/
def Rnd.ofCode : Nat → Rnd
  | 0 => .rne | 1 => .rtz | 2 => .rup | 3 => .rdn | 4 => .rna | _ => .reserved

/-- Route modes, Table 1-8 (01 R41), read from a route byte (02 R53). -/
inductive Route where
  | none | rot (k : Nat) | bc (k : Nat) | bfly (k : Nat) | ix (k : Nat) | reserved
  deriving DecidableEq, Repr

/-- 02 R53: mode in [7:5], parameter in [4:0]. -/
def Route.ofByte (b : Byte) : Route :=
  let k := b.toNat % 32
  match b.toNat / 32 with
  | 0 => .none | 1 => .rot k | 2 => .bc k | 3 => .bfly k | 4 => .ix k | _ => .reserved

/-- Load-addressable spaces (08 Table 8-2). -/
inductive Space where
  | sh | co | ds | gl | sp | reserved
  deriving DecidableEq, Repr

/-- SPACE codes of Table 2-7. -/
def Space.ofCode : Nat → Space
  | 0 => .sh | 1 => .co | 2 => .ds | 3 => .gl | 4 => .sp | _ => .reserved

/-- Memory orders (02 Table 2-7). -/
inductive MOrd where
  | rlx | acq | rel | ar
  deriving DecidableEq, Repr

/-- ORD codes. -/
def MOrd.ofCode : Nat → MOrd
  | 0 => .rlx | 1 => .acq | 2 => .rel | _ => .ar

/-- The order releases (08 R211). -/
def MOrd.releases : MOrd → Bool
  | .rel | .ar => true
  | _ => false

/-- Scopes (08 Table 8-3). -/
inductive Scope where
  | thr | wrp | wg | clu | die | dev | sys | reserved
  deriving DecidableEq, Repr

/-- SCOPE codes. -/
def Scope.ofCode : Nat → Scope
  | 0 => .thr | 1 => .wrp | 2 => .wg | 3 => .clu | 4 => .die | 5 => .dev | 6 => .sys | _ => .reserved

/-- The scope is .dev or .sys: performed at the home slice (16 R355). -/
def Scope.wide : Scope → Bool
  | .dev | .sys => true
  | _ => false

/-- Format V (02 Table 2-2), without its opcode. -/
structure FormV where
  pred : BitVec 3 := 0
  pneg : Bool := false
  dst  : BitVec 8 := 0
  sa   : BitVec 8 := 0
  rta  : BitVec 8 := 0
  sb   : BitVec 8 := 0
  rtb  : BitVec 8 := 0
  sc   : BitVec 8 := 0
  rtc  : BitVec 8 := 0
  lu   : BitVec 3 := 0
  ty   : BitVec 4 := 0
  rnd  : BitVec 3 := 0
  sat  : Bool := false
  fill : BitVec 3 := 0
  ops  : BitVec 12 := 0
  deriving DecidableEq, Repr

/-- Format I (02 Table 2-5), without its opcode. -/
structure FormI where
  pred : BitVec 3 := 0
  pneg : Bool := false
  dst  : BitVec 8 := 0
  sa   : BitVec 8 := 0
  rta  : BitVec 8 := 0
  ops  : BitVec 16 := 0
  lu   : Bool := false
  ty   : BitVec 4 := 0
  rnd  : BitVec 3 := 0
  sat  : Bool := false
  fill : Bool := false
  imm  : BitVec 32 := 0
  deriving DecidableEq, Repr

/-- Format M (02 Table 2-7), without its opcode. -/
structure FormM where
  pred  : BitVec 3 := 0
  pneg  : Bool := false
  dat   : BitVec 8 := 0
  adr   : BitVec 8 := 0
  ludat : Bool := false
  luadr : Bool := false
  space : BitVec 3 := 0
  scope : BitVec 3 := 0
  ord   : BitVec 2 := 0
  width : BitVec 3 := 0
  sx    : Bool := false
  hint  : BitVec 3 := 0
  lux   : Bool := false
  aux   : BitVec 8 := 0
  home  : BitVec 4 := 0
  atop  : BitVec 4 := 0
  offs  : BitVec 32 := 0
  deriving DecidableEq, Repr

/-- Format B (02 Table 2-9), without its opcode. -/
structure FormB where
  pred  : BitVec 3 := 0
  pneg  : Bool := false
  lnk   : BitVec 8 := 0
  tslot : BitVec 3 := 0
  jslot : BitVec 3 := 0
  lulnk : Bool := false
  rsv   : BitVec 3 := 0
  joff  : BitVec 32 := 0
  toff  : BitVec 32 := 0
  deriving DecidableEq, Repr

/-- Format X (02 Table 2-10), without its opcode. -/
structure FormX where
  pred : BitVec 3 := 0
  pneg : Bool := false
  dst  : BitVec 8 := 0
  xa   : BitVec 8 := 0
  xb   : BitVec 8 := 0
  xc   : BitVec 8 := 0
  xd   : BitVec 8 := 0
  xe   : BitVec 8 := 0
  cnt  : BitVec 8 := 0
  lu   : BitVec 5 := 0
  ops  : BitVec 21 := 0
  deriving DecidableEq, Repr

/-- What an access is, as the fault record of Table 13-6 names it (13 R311). -/
inductive AccessKind where
  | load | store | fetch | copyRead | copyWrite | station
  deriving DecidableEq, Repr

/-- The scopes of a firmware invalidation (13 R313). -/
inductive InvalScope where
  | asid (a : Nat)
  | range (a : Nat) (first last : Nat)
  | globalPage (va : Nat)
  | all
  deriving DecidableEq, Repr

/-- Registers whose write has no behaviour of its own (00 R7): the matrix error record of a core (Table 7-10), a bit of
the host-access mask (20 R413), the region table's address (14 R321). -/
inductive PlainReg where
  | matrixError (die core : Nat)
  | hostAccess (node : Nat)
  | regionTable
  deriving DecidableEq, Repr

/-- A mailbox packet (20 Table 20-1). -/
structure Packet where
  op      : Nat := 0
  rsv     : Nat := 0
  tag     : Nat := 0
  region  : Nat := 0
  len     : Nat := 0
  addr    : DWord := 0
  arg0    : DWord := 0
  arg1    : Word := 0
  version : Nat := 1
  status  : Nat := 0
  payload : List Byte := []
  deriving DecidableEq, Repr

/-- A peer package's request on a fabric port (20 R418): a read of `len` bytes, or a write of `data`. -/
structure FabricRequest where
  port  : Nat
  write : Bool
  pa    : Nat
  len   : Nat
  data  : List Byte
  deriving DecidableEq, Repr

/-- One constructor per row of spec/opcode_table.json. -/
inductive Instr where
  | nop (f : FormV)
  | bra (f : FormB)
  | brx (f : FormB)
  | call (f : FormB)
  | ret (f : FormB)
  | exit_ (f : FormV)
  | yield (f : FormV)
  | sleep (f : FormI)
  | trap (f : FormI)
  | poll (f : FormV)
  | fold (f : FormV)
  | peer (f : FormV)
  | pcomb (f : FormV)
  | iadd (f : FormV)
  | iaddI (f : FormI)
  | isub (f : FormV)
  | isubI (f : FormI)
  | imul (f : FormV)
  | imulI (f : FormI)
  | imulh (f : FormV)
  | imulhI (f : FormI)
  | imad (f : FormV)
  | imadw (f : FormV)
  | idiv (f : FormV)
  | idivI (f : FormI)
  | irem (f : FormV)
  | iremI (f : FormI)
  | imin (f : FormV)
  | iminI (f : FormI)
  | imax (f : FormV)
  | imaxI (f : FormI)
  | iabs (f : FormV)
  | ineg (f : FormV)
  | icmp (f : FormV)
  | icmpI (f : FormI)
  | sel (f : FormV)
  | selI (f : FormI)
  | mov (f : FormV)
  | movi (f : FormI)
  | lea (f : FormI)
  | and_ (f : FormV)
  | andI (f : FormI)
  | or_ (f : FormV)
  | orI (f : FormI)
  | xor_ (f : FormV)
  | xorI (f : FormI)
  | andn (f : FormV)
  | andnI (f : FormI)
  | orn (f : FormV)
  | ornI (f : FormI)
  | shl (f : FormV)
  | shlI (f : FormI)
  | shr (f : FormV)
  | shrI (f : FormI)
  | sar (f : FormV)
  | sarI (f : FormI)
  | rol (f : FormV)
  | rolI (f : FormI)
  | ror (f : FormV)
  | rorI (f : FormI)
  | popc (f : FormV)
  | clz (f : FormV)
  | ctz (f : FormV)
  | brev (f : FormV)
  | bfe (f : FormV)
  | bfeI (f : FormI)
  | bfi (f : FormV)
  | bfiI (f : FormI)
  | prmb (f : FormV)
  | prmbI (f : FormI)
  | fadd (f : FormV)
  | faddI (f : FormI)
  | fsub (f : FormV)
  | fsubI (f : FormI)
  | fmul (f : FormV)
  | fmulI (f : FormI)
  | ffma (f : FormV)
  | fmin (f : FormV)
  | fminI (f : FormI)
  | fmax (f : FormV)
  | fmaxI (f : FormI)
  | fminn (f : FormV)
  | fminnI (f : FormI)
  | fmaxn (f : FormV)
  | fmaxnI (f : FormI)
  | fabs (f : FormV)
  | fneg (f : FormV)
  | fcmp (f : FormV)
  | fcmpI (f : FormI)
  | fclass (f : FormV)
  | fcvt (f : FormV)
  | icvt (f : FormV)
  | fcvti (f : FormV)
  | frcp (f : FormV)
  | frsq (f : FormV)
  | fsqrt (f : FormV)
  | fdiv (f : FormV)
  | fex2 (f : FormV)
  | flg2 (f : FormV)
  | fsin (f : FormV)
  | fcos (f : FormV)
  | ftanh (f : FormV)
  | quant (f : FormV)
  | deq (f : FormV)
  | plsplit (f : FormV)
  | pljoin (f : FormV)
  | mma (f : FormX)
  | mloop (f : FormX)
  | mldf (f : FormX)
  | mstf (f : FormX)
  | mfmt (f : FormX)
  | ld (f : FormM)
  | st (f : FormM)
  | prefetch (f : FormM)
  | cctl (f : FormM)
  | atom (f : FormM)
  | atomf (f : FormM)
  | red (f : FormM)
  | fence (f : FormM)
  | waitval (f : FormM)
  | cpy (f : FormX)
  | cpy2d (f : FormX)
  | publish (f : FormX)
  | abinit (f : FormX)
  | abexp (f : FormX)
  | abarv (f : FormX)
  | abwait (f : FormX)
  | abtest (f : FormX)
  | tkwait (f : FormX)
  | tktest (f : FormX)
  | tkcancel (f : FormX)
  | tkget (f : FormX)
  | tkset (f : FormX)
  | board (f : FormX)
  | alight (f : FormX)
  | catchTile (f : FormX)
  | replace (f : FormX)
  | lineq (f : FormX)
  | bar (f : FormV)
  | barc (f : FormV)
  | bard (f : FormV)
  | pbar (f : FormV)
  | launch (f : FormX)
  | trigger (f : FormV)
  | waitdep (f : FormV)
  | step_ (f : FormV)
  | segq (f : FormX)
  | ldAsof (f : FormM)
  | stStamp (f : FormM)
  | stamp (f : FormV)
  | hnow (f : FormV)
  | hfloor (f : FormM)
  | htrim (f : FormX)
  | sread (f : FormI)
  | swrite (f : FormI)
  | tret (f : FormV)
  | bkpt (f : FormV)
  | evThreadRecordShip (die : Nat) (core : Nat) (tid : Nat)
  | evWarpFormation (die : Nat) (core : Nat)
  | evMatrixSliceStart (die : Nat) (core : Nat) (sched : Nat)
  | evMloopStep (wid : Nat)
  | evSchedulerIssue (die : Nat) (core : Nat) (sched : Nat)
  | evGlWritePerformed (acc : Nat) (lane : Nat)
  | evAccessReply (acc : Nat)
  | evAsofReply (acc : Nat)
  | evWaitvalWake (wid : Nat) (entry : Nat)
  | evWaitvalLimit (wid : Nat) (entry : Nat)
  | evWaitvalReread (wid : Nat) (entry : Nat) (lane : Nat)
  | evSleepExpiry (wid : Nat) (entry : Nat)
  | evCopyEngineStart (op : Nat)
  | evCopySectorDelivery (op : Nat) (sector : Nat)
  | evCopyEnd (op : Nat)
  | evPublishSwap (wid : Nat) (entry : Nat)
  | evTicketResolve (wid : Nat) (reg : Nat)
  | evAbwaitWake (wid : Nat) (entry : Nat)
  | evPbarRelease (launch : Nat) (inst : Nat)
  | evWaitdepRelease (wid : Nat) (entry : Nat)
  | evSlotAdvance
  | evStationRequest (op : Nat)
  | evStationSourceRead (op : Nat)
  | evBoardPayloadWrite (op : Nat)
  | evReplaceSwap (op : Nat)
  | evCatchDelivery (op : Nat)
  | evAlightRemoval (op : Nat)
  | evReboard (slot : Nat)
  | evStationBridge (die : Nat)
  | evRegionCoachRemoval (node : Nat)
  | evQueuePacketTake (node : Nat) (queue : Nat)
  | evDeviceLaunchRead (seq : Nat)
  | evDeal (launch : Nat)
  | evLaunchCompletion (launch : Nat)
  | evStepBoundary (launch : Nat)
  | evPreemptionHint (launch : Nat) (lower : Nat)
  | evPreemptionRequest (launches : List Nat)
  | evSaveComplete (wg : Nat)
  | evRestore (wg : Nat) (die : Nat) (core : Nat)
  | evTranslationWalk (die : Nat) (asid : Nat) (va : DWord) (kind : AccessKind)
  | evFaultServiceComplete (asid : Nat) (va : DWord) (served : Bool)
  | evFirmwareDecision (wid : Nat) (entry : Nat) (key : PC) (resume : Bool)
  | evInvalidation (scope : InvalScope)
  | evRegionUpdate (node : Nat)
  | evRegionAllocation (node : Nat) (die : Nat) (units : Nat)
  | evHistoryOwner (asid : Nat) (va : DWord) (node : Nat)
  | evRootRegisterWrite (asid : Nat) (value : DWord)
  | evSampleRingWrite (die : Nat) (value : DWord)
  | evFabricWindowWrite (window : Nat) (value : BitVec 128)
  | evSvnRaise (value : Nat)
  | evDieStateWrite (die : Nat) (state : Nat)
  | evLoseCommand (die : Nat)
  | evRegisterWrite (reg : PlainReg) (value : DWord)
  | evDieFatalError (die : Nat) (why : Nat)
  | evDieLost (die : Nat) (pathServes : Bool)
  | evMempathFail (die : Nat)
  | evPageMove (asid : Nat) (va : DWord) (dest : Option Nat)
  | evDieOffline (die : Nat)
  | evStationTick
  | evFrontierGather
  | evFrontierArrival (die : Nat) (core : Nat)
  | evFloorInEffect (index : Nat)
  | evSubnetPowerUp (die : Nat) (subnet : Nat)
  | evSubnetPowerDown (die : Nat) (subnet : Nat)
  | evSample (die : Nat) (core : Nat) (sched : Nat)
  | evSampleDrain (die : Nat) (cluster : Nat)
  | evClusterPowerGate (die : Nat) (cluster : Nat)
  | evThermalEmergencyGate (die : Nat) (cluster : Nat)
  | evClusterUngate (die : Nat) (cluster : Nat)
  | evWrite (p : Packet)
  | evRead (p : Packet)
  | evSubmit (p : Packet)
  | evReadc (p : Packet)
  | evReadcMatch (tag : Nat)
  | evReadcTimeout (tag : Nat)
  | evGrant (p : Packet)
  | evNegotiate (p : Packet)
  | evBoot (p : Packet)
  | evBootVerify
  | evAttest (p : Packet)
  | evWindowAccessReply (acc : Nat) (lane : Nat) (data : BitVec 128)
  | evWindowTimeout (acc : Nat) (lane : Nat)
  | evFabricPortDown (port : Nat)
  | evFrontDieReset
  | evFabricRemoteRequest (r : FabricRequest)
  | evOperatingPointChange (millivolts : Nat)
  | evFirmwareAlight (slot : Nat)
  deriving DecidableEq, Repr

/-- The opcode, bits [9:0] (02 Table 2-11); none for a step that is no instruction of the word. -/
def Instr.opcode : Instr → Option Nat
  | .nop _ => some 0x000
  | .bra _ => some 0x001
  | .brx _ => some 0x002
  | .call _ => some 0x003
  | .ret _ => some 0x004
  | .exit_ _ => some 0x005
  | .yield _ => some 0x006
  | .sleep _ => some 0x007
  | .trap _ => some 0x008
  | .poll _ => some 0x040
  | .fold _ => some 0x041
  | .peer _ => some 0x042
  | .pcomb _ => some 0x043
  | .iadd _ => some 0x080
  | .iaddI _ => some 0x0A0
  | .isub _ => some 0x081
  | .isubI _ => some 0x0A1
  | .imul _ => some 0x082
  | .imulI _ => some 0x0A2
  | .imulh _ => some 0x083
  | .imulhI _ => some 0x0A3
  | .imad _ => some 0x084
  | .imadw _ => some 0x085
  | .idiv _ => some 0x086
  | .idivI _ => some 0x0A6
  | .irem _ => some 0x087
  | .iremI _ => some 0x0A7
  | .imin _ => some 0x088
  | .iminI _ => some 0x0A8
  | .imax _ => some 0x089
  | .imaxI _ => some 0x0A9
  | .iabs _ => some 0x08A
  | .ineg _ => some 0x08B
  | .icmp _ => some 0x08C
  | .icmpI _ => some 0x0AC
  | .sel _ => some 0x08D
  | .selI _ => some 0x0AD
  | .mov _ => some 0x08E
  | .movi _ => some 0x0AE
  | .lea _ => some 0x0AF
  | .and_ _ => some 0x0C0
  | .andI _ => some 0x0E0
  | .or_ _ => some 0x0C1
  | .orI _ => some 0x0E1
  | .xor_ _ => some 0x0C2
  | .xorI _ => some 0x0E2
  | .andn _ => some 0x0C3
  | .andnI _ => some 0x0E3
  | .orn _ => some 0x0C4
  | .ornI _ => some 0x0E4
  | .shl _ => some 0x0C5
  | .shlI _ => some 0x0E5
  | .shr _ => some 0x0C6
  | .shrI _ => some 0x0E6
  | .sar _ => some 0x0C7
  | .sarI _ => some 0x0E7
  | .rol _ => some 0x0C8
  | .rolI _ => some 0x0E8
  | .ror _ => some 0x0C9
  | .rorI _ => some 0x0E9
  | .popc _ => some 0x0CA
  | .clz _ => some 0x0CB
  | .ctz _ => some 0x0CC
  | .brev _ => some 0x0CD
  | .bfe _ => some 0x0CE
  | .bfeI _ => some 0x0EE
  | .bfi _ => some 0x0CF
  | .bfiI _ => some 0x0EF
  | .prmb _ => some 0x0D0
  | .prmbI _ => some 0x0F0
  | .fadd _ => some 0x100
  | .faddI _ => some 0x120
  | .fsub _ => some 0x101
  | .fsubI _ => some 0x121
  | .fmul _ => some 0x102
  | .fmulI _ => some 0x122
  | .ffma _ => some 0x103
  | .fmin _ => some 0x104
  | .fminI _ => some 0x124
  | .fmax _ => some 0x105
  | .fmaxI _ => some 0x125
  | .fminn _ => some 0x106
  | .fminnI _ => some 0x126
  | .fmaxn _ => some 0x107
  | .fmaxnI _ => some 0x127
  | .fabs _ => some 0x108
  | .fneg _ => some 0x109
  | .fcmp _ => some 0x10A
  | .fcmpI _ => some 0x12A
  | .fclass _ => some 0x10B
  | .fcvt _ => some 0x140
  | .icvt _ => some 0x141
  | .fcvti _ => some 0x142
  | .frcp _ => some 0x143
  | .frsq _ => some 0x144
  | .fsqrt _ => some 0x145
  | .fdiv _ => some 0x146
  | .fex2 _ => some 0x147
  | .flg2 _ => some 0x148
  | .fsin _ => some 0x149
  | .fcos _ => some 0x14A
  | .ftanh _ => some 0x14B
  | .quant _ => some 0x180
  | .deq _ => some 0x181
  | .plsplit _ => some 0x182
  | .pljoin _ => some 0x183
  | .mma _ => some 0x1C0
  | .mloop _ => some 0x1C1
  | .mldf _ => some 0x1C2
  | .mstf _ => some 0x1C3
  | .mfmt _ => some 0x1C4
  | .ld _ => some 0x200
  | .st _ => some 0x201
  | .prefetch _ => some 0x202
  | .cctl _ => some 0x203
  | .atom _ => some 0x240
  | .atomf _ => some 0x241
  | .red _ => some 0x242
  | .fence _ => some 0x243
  | .waitval _ => some 0x244
  | .cpy _ => some 0x280
  | .cpy2d _ => some 0x281
  | .publish _ => some 0x282
  | .abinit _ => some 0x283
  | .abexp _ => some 0x284
  | .abarv _ => some 0x285
  | .abwait _ => some 0x286
  | .abtest _ => some 0x287
  | .tkwait _ => some 0x288
  | .tktest _ => some 0x289
  | .tkcancel _ => some 0x28A
  | .tkget _ => some 0x28B
  | .tkset _ => some 0x28C
  | .board _ => some 0x2C0
  | .alight _ => some 0x2C1
  | .catchTile _ => some 0x2C2
  | .replace _ => some 0x2C3
  | .lineq _ => some 0x2C4
  | .bar _ => some 0x300
  | .barc _ => some 0x301
  | .bard _ => some 0x302
  | .pbar _ => some 0x303
  | .launch _ => some 0x304
  | .trigger _ => some 0x305
  | .waitdep _ => some 0x306
  | .step_ _ => some 0x307
  | .segq _ => some 0x308
  | .ldAsof _ => some 0x340
  | .stStamp _ => some 0x341
  | .stamp _ => some 0x342
  | .hnow _ => some 0x343
  | .hfloor _ => some 0x344
  | .htrim _ => some 0x345
  | .sread _ => some 0x380
  | .swrite _ => some 0x381
  | .tret _ => some 0x382
  | .bkpt _ => some 0x383
  | .evThreadRecordShip _ _ _ => none
  | .evWarpFormation _ _ => none
  | .evMatrixSliceStart _ _ _ => none
  | .evMloopStep _ => none
  | .evSchedulerIssue _ _ _ => none
  | .evGlWritePerformed _ _ => none
  | .evAccessReply _ => none
  | .evAsofReply _ => none
  | .evWaitvalWake _ _ => none
  | .evWaitvalLimit _ _ => none
  | .evWaitvalReread _ _ _ => none
  | .evSleepExpiry _ _ => none
  | .evCopyEngineStart _ => none
  | .evCopySectorDelivery _ _ => none
  | .evCopyEnd _ => none
  | .evPublishSwap _ _ => none
  | .evTicketResolve _ _ => none
  | .evAbwaitWake _ _ => none
  | .evPbarRelease _ _ => none
  | .evWaitdepRelease _ _ => none
  | .evSlotAdvance => none
  | .evStationRequest _ => none
  | .evStationSourceRead _ => none
  | .evBoardPayloadWrite _ => none
  | .evReplaceSwap _ => none
  | .evCatchDelivery _ => none
  | .evAlightRemoval _ => none
  | .evReboard _ => none
  | .evStationBridge _ => none
  | .evRegionCoachRemoval _ => none
  | .evQueuePacketTake _ _ => none
  | .evDeviceLaunchRead _ => none
  | .evDeal _ => none
  | .evLaunchCompletion _ => none
  | .evStepBoundary _ => none
  | .evPreemptionHint _ _ => none
  | .evPreemptionRequest _ => none
  | .evSaveComplete _ => none
  | .evRestore _ _ _ => none
  | .evTranslationWalk _ _ _ _ => none
  | .evFaultServiceComplete _ _ _ => none
  | .evFirmwareDecision _ _ _ _ => none
  | .evInvalidation _ => none
  | .evRegionUpdate _ => none
  | .evRegionAllocation _ _ _ => none
  | .evHistoryOwner _ _ _ => none
  | .evRootRegisterWrite _ _ => none
  | .evSampleRingWrite _ _ => none
  | .evFabricWindowWrite _ _ => none
  | .evSvnRaise _ => none
  | .evDieStateWrite _ _ => none
  | .evLoseCommand _ => none
  | .evRegisterWrite _ _ => none
  | .evDieFatalError _ _ => none
  | .evDieLost _ _ => none
  | .evMempathFail _ => none
  | .evPageMove _ _ _ => none
  | .evDieOffline _ => none
  | .evStationTick => none
  | .evFrontierGather => none
  | .evFrontierArrival _ _ => none
  | .evFloorInEffect _ => none
  | .evSubnetPowerUp _ _ => none
  | .evSubnetPowerDown _ _ => none
  | .evSample _ _ _ => none
  | .evSampleDrain _ _ => none
  | .evClusterPowerGate _ _ => none
  | .evThermalEmergencyGate _ _ => none
  | .evClusterUngate _ _ => none
  | .evWrite _ => none
  | .evRead _ => none
  | .evSubmit _ => none
  | .evReadc _ => none
  | .evReadcMatch _ => none
  | .evReadcTimeout _ => none
  | .evGrant _ => none
  | .evNegotiate _ => none
  | .evBoot _ => none
  | .evBootVerify => none
  | .evAttest _ => none
  | .evWindowAccessReply _ _ _ => none
  | .evWindowTimeout _ _ => none
  | .evFabricPortDown _ => none
  | .evFrontDieReset => none
  | .evFabricRemoteRequest _ => none
  | .evOperatingPointChange _ => none
  | .evFirmwareAlight _ => none

/-- The guard's predicate number and negation (02 R50), of an instruction of the word. -/
def Instr.guard : Instr → Nat × Bool
  | .nop f => (f.pred.toNat, f.pneg)
  | .bra f => (f.pred.toNat, f.pneg)
  | .brx f => (f.pred.toNat, f.pneg)
  | .call f => (f.pred.toNat, f.pneg)
  | .ret f => (f.pred.toNat, f.pneg)
  | .exit_ f => (f.pred.toNat, f.pneg)
  | .yield f => (f.pred.toNat, f.pneg)
  | .sleep f => (f.pred.toNat, f.pneg)
  | .trap f => (f.pred.toNat, f.pneg)
  | .poll f => (f.pred.toNat, f.pneg)
  | .fold f => (f.pred.toNat, f.pneg)
  | .peer f => (f.pred.toNat, f.pneg)
  | .pcomb f => (f.pred.toNat, f.pneg)
  | .iadd f => (f.pred.toNat, f.pneg)
  | .iaddI f => (f.pred.toNat, f.pneg)
  | .isub f => (f.pred.toNat, f.pneg)
  | .isubI f => (f.pred.toNat, f.pneg)
  | .imul f => (f.pred.toNat, f.pneg)
  | .imulI f => (f.pred.toNat, f.pneg)
  | .imulh f => (f.pred.toNat, f.pneg)
  | .imulhI f => (f.pred.toNat, f.pneg)
  | .imad f => (f.pred.toNat, f.pneg)
  | .imadw f => (f.pred.toNat, f.pneg)
  | .idiv f => (f.pred.toNat, f.pneg)
  | .idivI f => (f.pred.toNat, f.pneg)
  | .irem f => (f.pred.toNat, f.pneg)
  | .iremI f => (f.pred.toNat, f.pneg)
  | .imin f => (f.pred.toNat, f.pneg)
  | .iminI f => (f.pred.toNat, f.pneg)
  | .imax f => (f.pred.toNat, f.pneg)
  | .imaxI f => (f.pred.toNat, f.pneg)
  | .iabs f => (f.pred.toNat, f.pneg)
  | .ineg f => (f.pred.toNat, f.pneg)
  | .icmp f => (f.pred.toNat, f.pneg)
  | .icmpI f => (f.pred.toNat, f.pneg)
  | .sel f => (f.pred.toNat, f.pneg)
  | .selI f => (f.pred.toNat, f.pneg)
  | .mov f => (f.pred.toNat, f.pneg)
  | .movi f => (f.pred.toNat, f.pneg)
  | .lea f => (f.pred.toNat, f.pneg)
  | .and_ f => (f.pred.toNat, f.pneg)
  | .andI f => (f.pred.toNat, f.pneg)
  | .or_ f => (f.pred.toNat, f.pneg)
  | .orI f => (f.pred.toNat, f.pneg)
  | .xor_ f => (f.pred.toNat, f.pneg)
  | .xorI f => (f.pred.toNat, f.pneg)
  | .andn f => (f.pred.toNat, f.pneg)
  | .andnI f => (f.pred.toNat, f.pneg)
  | .orn f => (f.pred.toNat, f.pneg)
  | .ornI f => (f.pred.toNat, f.pneg)
  | .shl f => (f.pred.toNat, f.pneg)
  | .shlI f => (f.pred.toNat, f.pneg)
  | .shr f => (f.pred.toNat, f.pneg)
  | .shrI f => (f.pred.toNat, f.pneg)
  | .sar f => (f.pred.toNat, f.pneg)
  | .sarI f => (f.pred.toNat, f.pneg)
  | .rol f => (f.pred.toNat, f.pneg)
  | .rolI f => (f.pred.toNat, f.pneg)
  | .ror f => (f.pred.toNat, f.pneg)
  | .rorI f => (f.pred.toNat, f.pneg)
  | .popc f => (f.pred.toNat, f.pneg)
  | .clz f => (f.pred.toNat, f.pneg)
  | .ctz f => (f.pred.toNat, f.pneg)
  | .brev f => (f.pred.toNat, f.pneg)
  | .bfe f => (f.pred.toNat, f.pneg)
  | .bfeI f => (f.pred.toNat, f.pneg)
  | .bfi f => (f.pred.toNat, f.pneg)
  | .bfiI f => (f.pred.toNat, f.pneg)
  | .prmb f => (f.pred.toNat, f.pneg)
  | .prmbI f => (f.pred.toNat, f.pneg)
  | .fadd f => (f.pred.toNat, f.pneg)
  | .faddI f => (f.pred.toNat, f.pneg)
  | .fsub f => (f.pred.toNat, f.pneg)
  | .fsubI f => (f.pred.toNat, f.pneg)
  | .fmul f => (f.pred.toNat, f.pneg)
  | .fmulI f => (f.pred.toNat, f.pneg)
  | .ffma f => (f.pred.toNat, f.pneg)
  | .fmin f => (f.pred.toNat, f.pneg)
  | .fminI f => (f.pred.toNat, f.pneg)
  | .fmax f => (f.pred.toNat, f.pneg)
  | .fmaxI f => (f.pred.toNat, f.pneg)
  | .fminn f => (f.pred.toNat, f.pneg)
  | .fminnI f => (f.pred.toNat, f.pneg)
  | .fmaxn f => (f.pred.toNat, f.pneg)
  | .fmaxnI f => (f.pred.toNat, f.pneg)
  | .fabs f => (f.pred.toNat, f.pneg)
  | .fneg f => (f.pred.toNat, f.pneg)
  | .fcmp f => (f.pred.toNat, f.pneg)
  | .fcmpI f => (f.pred.toNat, f.pneg)
  | .fclass f => (f.pred.toNat, f.pneg)
  | .fcvt f => (f.pred.toNat, f.pneg)
  | .icvt f => (f.pred.toNat, f.pneg)
  | .fcvti f => (f.pred.toNat, f.pneg)
  | .frcp f => (f.pred.toNat, f.pneg)
  | .frsq f => (f.pred.toNat, f.pneg)
  | .fsqrt f => (f.pred.toNat, f.pneg)
  | .fdiv f => (f.pred.toNat, f.pneg)
  | .fex2 f => (f.pred.toNat, f.pneg)
  | .flg2 f => (f.pred.toNat, f.pneg)
  | .fsin f => (f.pred.toNat, f.pneg)
  | .fcos f => (f.pred.toNat, f.pneg)
  | .ftanh f => (f.pred.toNat, f.pneg)
  | .quant f => (f.pred.toNat, f.pneg)
  | .deq f => (f.pred.toNat, f.pneg)
  | .plsplit f => (f.pred.toNat, f.pneg)
  | .pljoin f => (f.pred.toNat, f.pneg)
  | .mma f => (f.pred.toNat, f.pneg)
  | .mloop f => (f.pred.toNat, f.pneg)
  | .mldf f => (f.pred.toNat, f.pneg)
  | .mstf f => (f.pred.toNat, f.pneg)
  | .mfmt f => (f.pred.toNat, f.pneg)
  | .ld f => (f.pred.toNat, f.pneg)
  | .st f => (f.pred.toNat, f.pneg)
  | .prefetch f => (f.pred.toNat, f.pneg)
  | .cctl f => (f.pred.toNat, f.pneg)
  | .atom f => (f.pred.toNat, f.pneg)
  | .atomf f => (f.pred.toNat, f.pneg)
  | .red f => (f.pred.toNat, f.pneg)
  | .fence f => (f.pred.toNat, f.pneg)
  | .waitval f => (f.pred.toNat, f.pneg)
  | .cpy f => (f.pred.toNat, f.pneg)
  | .cpy2d f => (f.pred.toNat, f.pneg)
  | .publish f => (f.pred.toNat, f.pneg)
  | .abinit f => (f.pred.toNat, f.pneg)
  | .abexp f => (f.pred.toNat, f.pneg)
  | .abarv f => (f.pred.toNat, f.pneg)
  | .abwait f => (f.pred.toNat, f.pneg)
  | .abtest f => (f.pred.toNat, f.pneg)
  | .tkwait f => (f.pred.toNat, f.pneg)
  | .tktest f => (f.pred.toNat, f.pneg)
  | .tkcancel f => (f.pred.toNat, f.pneg)
  | .tkget f => (f.pred.toNat, f.pneg)
  | .tkset f => (f.pred.toNat, f.pneg)
  | .board f => (f.pred.toNat, f.pneg)
  | .alight f => (f.pred.toNat, f.pneg)
  | .catchTile f => (f.pred.toNat, f.pneg)
  | .replace f => (f.pred.toNat, f.pneg)
  | .lineq f => (f.pred.toNat, f.pneg)
  | .bar f => (f.pred.toNat, f.pneg)
  | .barc f => (f.pred.toNat, f.pneg)
  | .bard f => (f.pred.toNat, f.pneg)
  | .pbar f => (f.pred.toNat, f.pneg)
  | .launch f => (f.pred.toNat, f.pneg)
  | .trigger f => (f.pred.toNat, f.pneg)
  | .waitdep f => (f.pred.toNat, f.pneg)
  | .step_ f => (f.pred.toNat, f.pneg)
  | .segq f => (f.pred.toNat, f.pneg)
  | .ldAsof f => (f.pred.toNat, f.pneg)
  | .stStamp f => (f.pred.toNat, f.pneg)
  | .stamp f => (f.pred.toNat, f.pneg)
  | .hnow f => (f.pred.toNat, f.pneg)
  | .hfloor f => (f.pred.toNat, f.pneg)
  | .htrim f => (f.pred.toNat, f.pneg)
  | .sread f => (f.pred.toNat, f.pneg)
  | .swrite f => (f.pred.toNat, f.pneg)
  | .tret f => (f.pred.toNat, f.pneg)
  | .bkpt f => (f.pred.toNat, f.pneg)
  | .evThreadRecordShip _ _ _ => (0, false)
  | .evWarpFormation _ _ => (0, false)
  | .evMatrixSliceStart _ _ _ => (0, false)
  | .evMloopStep _ => (0, false)
  | .evSchedulerIssue _ _ _ => (0, false)
  | .evGlWritePerformed _ _ => (0, false)
  | .evAccessReply _ => (0, false)
  | .evAsofReply _ => (0, false)
  | .evWaitvalWake _ _ => (0, false)
  | .evWaitvalLimit _ _ => (0, false)
  | .evWaitvalReread _ _ _ => (0, false)
  | .evSleepExpiry _ _ => (0, false)
  | .evCopyEngineStart _ => (0, false)
  | .evCopySectorDelivery _ _ => (0, false)
  | .evCopyEnd _ => (0, false)
  | .evPublishSwap _ _ => (0, false)
  | .evTicketResolve _ _ => (0, false)
  | .evAbwaitWake _ _ => (0, false)
  | .evPbarRelease _ _ => (0, false)
  | .evWaitdepRelease _ _ => (0, false)
  | .evSlotAdvance => (0, false)
  | .evStationRequest _ => (0, false)
  | .evStationSourceRead _ => (0, false)
  | .evBoardPayloadWrite _ => (0, false)
  | .evReplaceSwap _ => (0, false)
  | .evCatchDelivery _ => (0, false)
  | .evAlightRemoval _ => (0, false)
  | .evReboard _ => (0, false)
  | .evStationBridge _ => (0, false)
  | .evRegionCoachRemoval _ => (0, false)
  | .evQueuePacketTake _ _ => (0, false)
  | .evDeviceLaunchRead _ => (0, false)
  | .evDeal _ => (0, false)
  | .evLaunchCompletion _ => (0, false)
  | .evStepBoundary _ => (0, false)
  | .evPreemptionHint _ _ => (0, false)
  | .evPreemptionRequest _ => (0, false)
  | .evSaveComplete _ => (0, false)
  | .evRestore _ _ _ => (0, false)
  | .evTranslationWalk _ _ _ _ => (0, false)
  | .evFaultServiceComplete _ _ _ => (0, false)
  | .evFirmwareDecision _ _ _ _ => (0, false)
  | .evInvalidation _ => (0, false)
  | .evRegionUpdate _ => (0, false)
  | .evRegionAllocation _ _ _ => (0, false)
  | .evHistoryOwner _ _ _ => (0, false)
  | .evRootRegisterWrite _ _ => (0, false)
  | .evSampleRingWrite _ _ => (0, false)
  | .evFabricWindowWrite _ _ => (0, false)
  | .evSvnRaise _ => (0, false)
  | .evDieStateWrite _ _ => (0, false)
  | .evLoseCommand _ => (0, false)
  | .evRegisterWrite _ _ => (0, false)
  | .evDieFatalError _ _ => (0, false)
  | .evDieLost _ _ => (0, false)
  | .evMempathFail _ => (0, false)
  | .evPageMove _ _ _ => (0, false)
  | .evDieOffline _ => (0, false)
  | .evStationTick => (0, false)
  | .evFrontierGather => (0, false)
  | .evFrontierArrival _ _ => (0, false)
  | .evFloorInEffect _ => (0, false)
  | .evSubnetPowerUp _ _ => (0, false)
  | .evSubnetPowerDown _ _ => (0, false)
  | .evSample _ _ _ => (0, false)
  | .evSampleDrain _ _ => (0, false)
  | .evClusterPowerGate _ _ => (0, false)
  | .evThermalEmergencyGate _ _ => (0, false)
  | .evClusterUngate _ _ => (0, false)
  | .evWrite _ => (0, false)
  | .evRead _ => (0, false)
  | .evSubmit _ => (0, false)
  | .evReadc _ => (0, false)
  | .evReadcMatch _ => (0, false)
  | .evReadcTimeout _ => (0, false)
  | .evGrant _ => (0, false)
  | .evNegotiate _ => (0, false)
  | .evBoot _ => (0, false)
  | .evBootVerify => (0, false)
  | .evAttest _ => (0, false)
  | .evWindowAccessReply _ _ _ => (0, false)
  | .evWindowTimeout _ _ => (0, false)
  | .evFabricPortDown _ => (0, false)
  | .evFrontDieReset => (0, false)
  | .evFabricRemoteRequest _ => (0, false)
  | .evOperatingPointChange _ => (0, false)
  | .evFirmwareAlight _ => (0, false)

end Sys2Proof
end

