-- ==== Sys2Proof/Machine/Warp.lean ====
section
/-! DEFINITION. Machine/Warp.lean: the state of one warp as plain data: vector registers with their shape tags, predicates,
tickets, the split table with its sidings, the trap state, range entries and the mloop record (01, 06, 07, 09). -/

namespace Sys2Proof.Machine

/-- A vector register with its shape tag (01 R31, Table 1-5): U one value, A base and stride, G 32 values, D nothing. -/
inductive VReg where
  | u (v : Word)
  | a (base stride : Word)
  | g (lanes : List Word)
  | d
  deriving DecidableEq, Repr

/-- Split-table entry states (01 Table 1-2). -/
inductive SplitState where
  | free | run | block | jwait | cwait | held
  deriving DecidableEq, Repr

/-- An arrival at a collective (01 R26; 04 R102, R103): its member mask, whether that is the set of living lanes, the effective
lanes, those of them that contribute and the values they brought, the instruction, and the cycle of the arrival. -/
structure Collective where
  m       : Mask
  all     : Bool
  eff     : Mask
  contrib : Mask
  vals    : List DWord
  i       : Instr
  since   : Nat
  deriving DecidableEq, Repr

/-- What a siding group waits for (01 R16; Table 6-8). A collective carries its member mask and the instruction it issued; the
consist, die and package barriers carry the instance and the destination predicate; a wait for firmware its cause and address; a
yield group's lanes are ready. -/
inductive GroupKind where
  | none
  | yielded
  | fusion
  | collective (c : Collective)
  | bar (n : Nat)
  | barc (n pd : Nat)
  | bard (n pd : Nat)
  | pbar (n pd : Nat)
  | firmware (cause : Nat) (va : DWord)
  deriving DecidableEq, Repr

/-- A siding group (01 R15). `clock` is its warp's stamp clock at its arrival at a barrier (16 R354). -/
structure Group where
  key     : PC
  lanes   : Mask
  arrived : Bool
  kind    : GroupKind
  clock   : Stamp := 0
  deriving DecidableEq, Repr

/-- One lane of a waitval (08 R227): its address, the key it stands for, with its leaf for .gl, and the last value
read. -/
structure ValueLane where
  lane      : Nat
  va        : DWord := 0
  addr      : Nat
  expected  : Word
  last      : Word
  pte       : DWord := 0
  satisfied : Bool
  deriving DecidableEq, Repr

/-- A waitval in progress (08 R227): `limit` is the cycle of the first read that ends it, `closing` says that the reads that end
it are on their way through a window; `marks` are the registers its last-use marks name. -/
structure ValueWait where
  dat     : Nat
  gl      : Bool
  scope   : Scope
  acq     : Bool
  cmp     : Nat
  limit   : Option Nat
  eff     : Mask
  lanes   : List ValueLane
  marks   : List Nat
  closing : Bool := false
  deriving DecidableEq, Repr

/-- A thread's place at the moment of an access or a fence, with the scope that it names (08 R209). `thread` names the thread of
the package: it stays the same when the thread travels. -/
structure Party where
  thread : Nat
  warp   : Nat
  wg     : Nat
  die    : Nat
  core   : Nat
  scope  : Scope
  deriving DecidableEq, Repr

/-- What lies before a point in happens-before (08 R211; 22 R435): for each agent (a thread, an operation of an engine or
station, the mailbox, the front die), in rising order, the number below which everything that it issued lies before (log 3). -/
abbrev Past := List (Nat × Nat)

/-- A release side (08 R211) or a place in the total order of 08 R214: whose it is, what lies before it, and a stamp that all of
that lies below (16 R358). -/
structure Sync where
  who   : Party
  stamp : Stamp
  past  : Past := []
  deriving DecidableEq, Repr

/-- A thread's place in happens-before (08 R211; log 3): what lies before its next access besides its own; the release sides
whose values it has read, for its acquire fences; and for each scope of a release fence that it has passed, what lay before the
last one. -/
structure Sight where
  past   : Past := []
  heard  : List Sync := []
  fenced : List (Scope × Past) := []
  deriving DecidableEq, Repr

/-- A lane whose trigger waits (14 R336): the access counter at its trigger, and what lay before it. -/
structure TrigWait where
  lane : Nat
  at_  : Nat
  past : Past := []
  deriving DecidableEq, Repr

/-- Why an entry is in BLOCK. A wait that writes at its return carries what it writes: destination, effective lanes, last-use
marks; a wait for a phase also the release sides of the flip once there has been one (01 R16, R39; 06 R164, R167, R170
(`halted`: the launch is halted for a save); 08 R227; 09 R239, R252; 14 R337; 16 R375). -/
inductive Wait where
  | none
  | ticket (n : Nat) (eff : Mask)
  | value (w : ValueWait)
  | phase (key addr space : Nat) (phase : Bool) (eff : Mask) (marks : List Nat) (seen : Option (List Sync))
  | sleep (deadline : Nat)
  | pageFault (asid : Nat) (va : DWord)
  | publish (dst : Nat) (tks : List Nat) (eff : Mask)
  | deps (pd : Nat) (eff : Mask)
  | trim (floor dst : Nat) (eff : Mask) (marks : List Nat)
  | trapBusy
  | halted
  deriving DecidableEq, Repr

/-- A split-table entry (01 Table 1-2). `lastIssue` and `readySince` order the scheduler's choice (06 R155). -/
structure Entry where
  st         : SplitState := .free
  pc         : PC := 0
  mask       : Mask := 0
  j          : Option PC := none
  jout       : Option PC := none
  siding     : List Group := []
  fault      : BitVec 128 := 0
  wait       : Wait := .none
  lastIssue  : Nat := 0
  readySince : Nat := 0
  deriving DecidableEq, Repr

/-- The trap state of a warp (06 R164). -/
structure TrapState where
  busy  : Bool := false
  entry : Nat := 0
  cause : Nat := 0
  tpc   : PC := 0
  tval  : DWord := 0
  lanes : Mask := 0
  deriving DecidableEq, Repr

/-- A format block as read (07 R179): A and B descriptors and scale addresses. -/
structure Format where
  da : Nat
  sa : Nat
  db : Nat
  sb : Nat
  deriving DecidableEq, Repr

/-- The state record of a running mloop (07 R192, R195, Table 7-9): the instruction, its PC, the contributing lanes S, the format
block, the increments, the step to run next and n; `resumed` says the warp has been restored and that step has not run yet
(R195). -/
structure MloopState where
  pc      : PC
  i       : Instr
  lanes   : Mask
  block   : Format
  ainc    : Word
  binc    : Word
  next    : Nat
  total   : Nat
  resumed : Bool := false
  deriving DecidableEq, Repr

/-- A range entry of the range scoreboard (09 R245): an in-flight copy's source and destination, inclusive bounds in the
byte addresses of the space. -/
structure RangeEntry where
  op    : Nat
  space : Space
  write : Bool
  first : Nat
  last  : Nat
  deriving DecidableEq, Repr

/-- One warp (01 R13, R14). `uid` is the model's own key. `trigWait` holds the lanes whose trigger waits. `tids` are the thread
ids of its lanes (11 Table 11-6, R283), `sights` their places in happens-before, by lane, and
`endPasts` what the ends written into its ticket registers bring along (08 R211; 09 R254; log 3). -/
structure Warp where
  uid       : Nat
  wg        : Nat
  launch    : Nat
  die       : Nat
  core      : Nat
  slot      : Nat
  index     : Nat
  nreg      : Nat
  regs      : List VReg
  preds     : List Mask
  tickets   : List DWord
  clock     : Stamp
  ssp       : Word
  entries   : List Entry
  trap      : TrapState
  living    : Mask
  ranges    : List RangeEntry := []
  mloop     : Option MloopState := none
  triggered : Mask := 0
  trigWait  : List TrigWait := []
  sights    : List (Nat × Sight) := []
  formed    : Bool := false
  endPasts  : List (Nat × Past) := []
  tids      : List Word := []
  badRegs   : List (Nat × Nat) := []
  deriving DecidableEq, Repr

/-- The warp's scheduler (06 R152). -/
def Warp.sched (w : Warp) : Nat := w.slot / 16

end Sys2Proof.Machine
end

