-- ==== Sys2Proof/Machine/Launch.lean ====
section
/-! DEFINITION. Machine/Launch.lean: regions, launches, workgroups, saved workgroups and the records of travelling threads as
plain data (11, 14, 06 R168 to R174), and the operations of copy engines and stations (09, 18). -/

namespace Sys2Proof.Machine

/-- A place in one of the spaces a copy, catch or barrier names, resolved at issue: a key of the memory model, or a virtual
address of an address space. -/
inductive Place where
  | key (k : Nat)
  | virt (asid : Nat) (va : DWord)
  deriving DecidableEq, Repr

/-- Modes of a copy (09 Table 9-1). -/
inductive CopyMode where
  | plain | z | x | q (t : Ty) | rows (n len : Nat) (dstride sstride : Nat)
  deriving DecidableEq, Repr

/-- A shadow page of a `.shd` copy (09 R237): the virtual page, its size, the old and the new physical page. -/
structure ShadowPage where
  va   : DWord
  size : Nat
  old  : Nat
  new  : Nat
  clen : Nat := 0
  deriving DecidableEq, Repr

/-- A copy held by an engine (09). `writes` holds the bytes its mode computed at the start; `pending` are the destination
sectors still to be delivered; `stall` is the page whose fault service it waits for; `ending` is the state it will end in
once nothing is pending (2 FAILED, 3 CANCELLED); `fold` is the exponent of R244; `past` is what lies before its reads and writes
in happens-before (R234). -/
structure Copy where
  id       : Nat
  die      : Nat
  unit     : Nat
  seq      : Nat
  warp     : Nat
  wg       : Nat
  launch   : Nat
  node     : Nat
  asid     : Nat
  lanes    : Mask
  reg      : Option Nat
  dspace   : Space
  sspace   : Space
  dst      : Place
  src      : Place
  srcEnd   : Nat
  count    : Nat
  mode     : CopyMode
  shd      : Bool
  barrier  : Option Nat
  bspace   : Space := .sh
  scale    : DWord := 0
  clock    : Stamp := 0
  started  : Bool := false
  stall    : Option (Nat × DWord) := none
  writes   : List Byte := []
  pending  : List Nat := []
  shadows  : List ShadowPage := []
  fold     : Nat := 0
  past     : Past := []
  ending   : Nat := 0
  reason   : Nat := 0
  detail   : Nat := 0
  cancel   : Bool := false
  endStamp : Stamp := 0
  deriving DecidableEq, Repr

/-- Circle-line operations (18). -/
inductive LineOp where
  | board | alight | catchTile | replace
  deriving DecidableEq, Repr

/-- Stages of a circle-line operation: reissued and waiting for its station to have room (18 R383, R392), waiting for R383,
waiting for its source, waiting for a passage. -/
inductive LineStage where
  | held | waiting | reading | ready
  deriving DecidableEq, Repr

/-- An unfinished operation of a station (18 R383 to R389). `coach` is the identity of the coach it found or reserved; `reached`
orders the requests by the moment they reached the directory; `arrived` counts the slot steps when its request arrived, or its
source was read; `stall` is the page whose fault service its source read waits for; `past` is what lies before its reads and
writes in happens-before (R383). -/
structure StationOp where
  id       : Nat
  op       : LineOp
  die      : Nat
  seq      : Nat
  warp     : Nat
  wg       : Nat
  launch   : Nat
  node     : Nat
  asid     : Nat
  lanes    : Mask
  reg      : Option Nat
  name     : Nat
  place    : Place
  space    : Space
  core     : Nat
  barrier  : Option Nat
  bspace   : Space := .sh
  min      : Option Nat
  clock    : Stamp
  stage    : LineStage
  slot     : Nat
  payload  : List Byte
  arrived  : Nat
  srcStamp : Stamp
  coach    : Nat := 0
  reached  : Nat := 0
  stall    : Option (Nat × DWord) := none
  past     : Past := []
  deriving DecidableEq, Repr

/-- A region control block as installed (14 R322, Table 14-1). -/
structure Region where
  node    : Nat
  parent  : Nat
  asid    : Nat
  ovr     : Nat
  st      : Nat
  cshare  : Nat
  priv    : Bool
  policy  : Nat
  prio    : Nat
  cores   : List Nat
  dsbytes : List Nat
  coaches : Nat
  shadow  : Nat
  hshare  : Nat
  hwindow : Nat
  qtable  : DWord
  excl    : List Nat
  deriving DecidableEq, Repr

/-- A launch packet (14 Table 14-6). -/
structure LaunchPacket where
  version   : Nat := 0
  flags     : Nat := 0
  threads   : Nat := 0
  entry     : PC := 0
  gx        : Nat := 0
  gy        : Nat := 0
  gz        : Nat := 0
  regs      : Nat := 0
  consist   : Nat := 0
  diemask   : Nat := 0
  shared    : Nat := 0
  spill     : Nat := 0
  diestore  : Nat := 0
  mindie    : Nat := 0
  maxdie    : Nat := 0
  rsv2e     : Nat := 0
  prod      : List Nat := []
  timetable : DWord := 0
  segmap    : DWord := 0
  args      : DWord := 0
  trapEntry : PC := 0
  complete  : DWord := 0
  rsv78     : Nat := 0
  deriving DecidableEq, Repr

def LaunchPacket.resident (p : LaunchPacket) : Bool := p.flags.testBit 0
def LaunchPacket.idempotent (p : LaunchPacket) : Bool := p.flags.testBit 1
def LaunchPacket.travel (p : LaunchPacket) : Bool := p.flags.testBit 2
def LaunchPacket.earlyStart (p : LaunchPacket) : Bool := p.flags.testBit 3
def LaunchPacket.deadCheck (p : LaunchPacket) : Bool := p.flags.testBit 4
/-- Workgroups of the grid (14 Table 14-6, GRID). -/
def LaunchPacket.grid (p : LaunchPacket) : Nat := p.gx * p.gy * p.gz

/-- A timetable variant (14 Table 14-12). -/
structure Variant where
  entry  : PC
  cls    : Nat
  regs   : Nat
  shared : Nat
  spill  : Nat
  deriving DecidableEq, Repr

/-- A thread record of travelling-thread mode (11 R280, Table 11-6). `entered` is the cycle in which it entered a queue; `sight`
is the thread's place in happens-before (11 R287; log 3). -/
structure ThreadRecord where
  nextPc  : PC
  clock   : Stamp
  shipped : DWord
  tid     : Word
  preds   : Byte
  regs    : List Word
  entered : Nat
  sight   : Sight := {}
  deriving DecidableEq, Repr

/-- A segment of a travel launch's map with its overflow area (11 R276, R281). -/
structure Segment where
  start    : PC
  length   : Nat
  replicas : List Nat
  qdepth   : Nat
  limit    : Nat
  ocap     : Nat
  ooff     : Nat
  overflow : List ThreadRecord := []
  deriving DecidableEq, Repr

/-- A line of a pinned segment as a replica core, numbered die × 36 + core, has loaded it (11 R278). -/
structure CodeLine where
  core : Nat
  line : Nat
  bits : Nat
  deriving DecidableEq, Repr

/-- A departed lane in a core's departure stage (11 R279): the record as it stands, and the warp and lane whose earlier
accesses it waits for; `cycle` is the cycle of its departure (12 R292). -/
structure Departure where
  launch : Nat
  die    : Nat
  core   : Nat
  warp   : Nat
  lane   : Nat
  seg    : Nat
  record : ThreadRecord
  cycle  : Nat := 0
  deriving DecidableEq, Repr

/-- The arrival queue of a replica core (11 R281). -/
structure ArrivalQueue where
  launch  : Nat
  logical : Nat
  die     : Nat
  core    : Nat
  seg     : Nat
  records : List ThreadRecord
  deriving DecidableEq, Repr

/-- The save block of a replica core of a pre-empted travel launch (11 R289): the logical core and its bytes. -/
structure CoreBlock where
  logical : Nat
  bytes   : List Byte
  deriving DecidableEq, Repr

/-- A resident workgroup (06 R151, 11 R264). `members` of a consist share its number. `done` says its threads have all exited
(11 R266); it stays while its consist lives. `sharedBytes` is its shared size (08 R204). `exited` are the schedulers and
register counts of its warps that have exited: they stay charged until it retires (06 R151). -/
structure Workgroup where
  uid         : Nat
  launch      : Nat
  index       : Nat
  consist     : Nat
  member      : Nat
  die         : Nat
  core        : Nat
  logical     : Nat
  nwarps      : Nat
  threads     : Nat
  nreg        : Nat
  sharedBytes : Nat
  spaceClock  : Stamp := 0
  formed      : Bool := false
  killed      : Bool := false
  done        : Bool := false
  stepped     : Bool := false
  trigClock   : Stamp := 0
  exited      : List (Nat × Nat) := []
  deriving DecidableEq, Repr

/-- An engine record of a saved warp (06 R173; 09 Table 9-9; 18 Table 18-6): the copy or catch to reissue. -/
inductive EngineRecord where
  | copy (c : Copy)
  | catchTile (o : StationOp)
  deriving DecidableEq, Repr

/-- A saved workgroup (06 R172): its warps, their spill images, its engine records, firmware's decisions that arrived after the
save (06 R170: `fatal`, that a fault it waited for is), and the bytes of its save area, `area`. Its shared image stays under its
key. One to be started again from entry (06 R171) has no warps and no area. -/
structure SavedWg where
  wg        : Workgroup
  warps     : List Warp
  spill     : List (List (Nat × Byte))
  engines   : List EngineRecord := []
  restart   : Bool := false
  version   : Nat := 1
  decisions : List (Nat × Nat × PC × Bool) := []
  area      : List Byte := []
  fatal     : Bool := false
  deriving DecidableEq, Repr

/-- The state of a launch at the distributor: its packet not read yet, waiting for its placement, placed, or ended. -/
inductive LaunchPhase where
  | reading | waiting | running | ended
  deriving DecidableEq, Repr

/-- A launch held by the distributor (14). `id` is R326's. `issuer` is a device launch's warp, access counter and lanes;
`carried` the clock it carries; `past` what lies before its threads, `endPast` before its completion and `trigPast` before its
triggers and exits in happens-before (14 R333 to R337, R342; 20 R414; log 3); `starved` the cycle since which it has placed
nothing, `turn` the number of its last turn; `status` the status word of Table 14-8 and `stampEnd` the completion stamp once it
has ended. Pending workgroups never placed are those from `nextWg` on; saved ones stand in `saved` (14 R338). `halted` says a
save is under way, whose engine records are `records` (06 R168, R173). `suspended` says that a travel launch has been pre-empted
and its queues and stages wait in the save blocks `blocks` for the restore (11 R289). -/
structure Launch where
  id        : Nat
  node      : Nat
  source    : Nat
  seq       : Nat
  packet    : LaunchPacket := {}
  phase     : LaunchPhase := .waiting
  address   : DWord := 0
  timetable : List Variant := []
  sizeAddr  : DWord := 0
  segments  : List Segment := []
  code      : List CodeLine := []
  dies      : List Nat := []
  entry     : PC := 0
  regs      : Nat := 0
  shared    : Nat := 0
  spill     : Nat := 0
  step      : Nat := 0
  stepped   : Bool := false
  placed    : Bool := false
  nextWg    : Nat := 0
  total     : Nat := 0
  dealt     : Bool := false
  roomy     : List (Nat × Nat) := []
  saved     : List SavedWg := []
  stamp     : Stamp := 0
  endStamp  : Stamp := 0
  trigClock : Stamp := 0
  killedWgs : Nat := 0
  cause     : Nat := 0
  killed    : Bool := false
  cancelled : Bool := false
  failReason : Nat := 0
  failField : Nat := 0
  diesLost  : Nat := 0
  dieLost   : Bool := false
  bardBroken : List Nat := []
  pbarBroken : Bool := false
  barcBroken : List Nat := []
  pbarReady : List Nat := []
  starved   : Nat := 0
  hinted    : Bool := false
  turn      : Nat := 0
  halted    : Bool := false
  suspended : Bool := false
  blocks    : List CoreBlock := []
  records   : List EngineRecord := []
  issuer    : Option (Nat × Nat × Mask) := none
  carried   : Stamp := 0
  past      : Past := []
  endPast   : Past := []
  trigPast  : Past := []
  status    : Option Nat := none
  stampEnd  : Stamp := 0
  deriving DecidableEq, Repr

/-- A device launch that still waits for the accesses of its issuing warp (14 R335). -/
def Launch.issuedBy (l : Launch) (uid : Nat) : Bool :=
  l.phase == .reading && (match l.issuer with
    | some (w, _, _) => w == uid
    | none => false)

end Sys2Proof.Machine
end

