-- ==== Sys2Proof/Machine/State.lean ====
section
/-! DEFINITION. Machine/State.lean: the whole state of the package as plain data, and its value after reset. Memory keys: a
physical address of homes 0 to 7 is its own key; die store, coach payloads and the shared memory of a workgroup have keys
above the 52-bit physical space (log 1). -/

namespace Sys2Proof.Machine

/-- No step of this machine stops with a fault: every trap, failure and lost die of the spec is a next state. -/
inductive Fault where
  deriving DecidableEq, Repr

/-- Why a step has no meaning. -/
inductive Refusal where
  /-- Raised by an arm of exec whose instruction has no meaning yet. Safe: nothing is claimed of it. -/
  | notModelled (mnemonic : String)
  deriving DecidableEq, Repr

/-- What an access in flight to global memory does (08, 16). `atom` and `red` carry ATOP, `atomf` carries its type. Through a
window the front die writes (operation 0), as does a command of the mailbox, and a page moves (19 R405). -/
inductive AccOp where
  | load | store | atom (op : Nat) | atomf (op : Nat) (t : Ty) | red (op : Nat) | storeStamp | asof
  | waitRead (entry : Nat) | copyRead (op : Nat) | copyWrite (op : Nat) | frontWrite (op : Nat) | pageMove
  deriving DecidableEq, Repr

/-- The access only reads: a load, an as-of load, a waitval's or a copy's read through a window. -/
def AccOp.reads : AccOp → Bool
  | .load | .asof | .waitRead _ | .copyRead _ => true
  | _ => false

/-- One lane's part of an access in flight: `data` and `cmp` are its operands, `asof` the stamp of an as-of load; once `done`,
`old` is what was read, `stamp` what the reply returns and `number` the number a bank gave its write. `thread` is the lane's
thread, `rel` are the release sides of the lane's write, each by its scope and what lies before it, `syncs` those whose values
it read, and `past` is what lies before the access (08 R211). `sent` says that its request through a window has left. -/
structure LaneAcc where
  lane   : Nat
  thread : Nat := 0
  va     : DWord
  pa     : Nat
  pte    : DWord := 0
  data   : Nat := 0
  cmp    : Nat := 0
  asof   : Nat := 0
  done   : Bool := false
  bad    : Option Nat := none
  old    : Nat := 0
  stamp  : Stamp := 0
  number : Nat := 0
  rel    : List (Scope × Past) := []
  syncs  : List Sync := []
  past   : Past := []
  sent   : Bool := false
  deriving DecidableEq, Repr

/-- An access to global memory or a die store that has issued and has not been answered (08 R213; 06 R169; 13 R298). The
scoreboard holds its destination registers. `uniform` is the load's result tag under a full effective mask (08 R219). -/
structure Access where
  id      : Nat
  warp    : Nat
  launch  : Nat
  wg      : Nat := 0
  node    : Nat
  asid    : Nat
  die     : Nat
  core    : Nat
  pc      : PC
  op      : AccOp
  n       : Nat
  sx      : Bool
  ord     : MOrd
  scope   : Scope
  clock   : Stamp
  eff     : Mask
  full    : Bool
  uniform : Bool
  dst     : Nat
  dst2    : Nat
  lanes   : List LaneAcc
  since   : Nat := 0
  deriving DecidableEq, Repr

/-- A write that a slice or a bank has performed (08 R210), for the loads that may still miss it (08 R212; log 3): its first key
and length, the keys between that it left as they were, what its bytes held before (nothing, for a publish), the sector's stamp
before and its own, or the number its bank gave it where it carries no stamp; who wrote it, with the number of the instruction
or delivery that did, none for the hardware itself; the counter at which its acknowledgement reached the writer; the threads
that have read it; and the release sides it belongs to. -/
structure Written where
  lo    : Nat
  len   : Nat
  old   : List Byte
  was   : Stamp
  stamp : Stamp
  holes : List Nat := []
  who   : Option Party := none
  number : Nat := 0
  acked : Option Nat := none
  seen  : List Nat := []
  syncs : List Sync := []
  deriving DecidableEq, Repr

/-- How an engine or station operation, or a launch, ended (01 Table 1-6, 1-7; 09 R256). `past` is what its observation brings
along happens-before (09 R254; 18 R395; log 3). -/
structure EndRecord where
  kind   : Nat
  die    : Nat
  unit   : Nat
  seq    : Nat
  state  : Nat
  reason : Nat
  detail : Nat := 0
  stamp  : Stamp := 0
  past   : Past := []
  deriving DecidableEq, Repr

/-- A shadow kept after its copy ended DONE (09 R238, R239). -/
structure Shadow where
  copy  : Nat
  die   : Nat
  unit  : Nat
  seq   : Nat
  warp  : Nat
  wg    : Nat
  node  : Nat
  asid  : Nat
  reg   : Option Nat
  pages : List ShadowPage
  deriving DecidableEq, Repr

/-- A reboard whose source has been read (18 R393): the station's die, the bytes with their largest stamp, and the slot steps at
the read's completion. -/
structure Reboard where
  die   : Nat
  bytes : List Byte
  stamp : Stamp
  since : Nat
  deriving DecidableEq, Repr

/-- A slot of the line that is reserved or holds a coach (18 R380). `fresh` is its identity; `written` counts the slot steps
when its board wrote it; `past` is what lies before its version (18 R395); `boardDie` is the die that boarded it, `srcDie` and
`src` are the recorded source (18 R385, R389), `staged` a reboard on its way (18 R393). -/
structure Coach where
  slot     : Nat
  node     : Nat
  name     : Nat
  onLine   : Bool
  version  : Stamp
  poison   : Bool
  srcDie   : Nat
  src      : Place
  fresh    : Nat := 0
  written  : Nat := 0
  boardDie : Nat := 0
  staged   : Option Reboard := none
  past     : Past := []
  deriving DecidableEq, Repr

/-- A TLB entry (13 R311, R312). -/
structure TlbEntry where
  die    : Nat
  asid   : Nat
  vpage  : Nat
  level  : Nat
  pte    : DWord
  pteAt  : Nat
  deriving DecidableEq, Repr

/-- A version kept by a history engine (16 R360): the sector's key div 32, its bytes and its stamp. -/
structure Version where
  sector : Nat
  bytes  : List Byte
  stamp  : Stamp
  poison : Bool := false
  deriving DecidableEq, Repr

/-- Physical pages with history (16 R360): `count` pages of 4 KiB from `page`, the leaf that maps them, the owning region,
the base-version stamp, the stamp `given` to the sectors not written since the H bit took effect, and whether it is in effect. -/
structure HistPage where
  page  : Nat
  count : Nat
  asid  : Nat
  va    : DWord
  owner : Option Nat
  base  : Stamp
  live  : Bool
  given : Stamp := 0
  deriving DecidableEq, Repr

/-- A record of mapping history (16 R366): `old` is the leaf the publish replaced. -/
structure MapRecord where
  node  : Nat
  asid  : Nat
  va    : DWord
  size  : Nat
  old   : DWord
  stamp : Stamp
  deriving DecidableEq, Repr

/-- A raised floor on its way into effect (16 R363): a region's, or a stack's. -/
structure PendingFloor where
  region : Option Nat
  stack  : Nat
  value  : Stamp
  deriving DecidableEq, Repr

/-- One core (06, 11, 16). `sampNext` is what a write of sr.sampctl of this cycle leaves for the next (06 R162). For each
scheduler, `rotors` is the slot it samples next and `sampled` one more than the cycle of its
last sample. -/
structure Core where
  rotation : Nat := 0
  sampctl  : Word := 0
  sampNext : Option Word := none
  rotors   : List Nat := [0, 0, 0, 0]
  sampled  : List Nat := [0, 0, 0, 0]
  frontier : Stamp := 0
  matrixErr : DWord := 0
  deriving DecidableEq, Repr

/-- A cluster's sample buffer and power state (11 R273, R275). -/
structure Cluster where
  buffer : List DWord := []
  lost   : Nat := 0
  gated  : Bool := false
  kept   : Nat := 0
  deriving DecidableEq, Repr

/-- One copy engine of a die (09 R231, R256): the next sequence number; and the turn of Table 14-4: the region last served,
the sectors left to it, and the operation that moved the turn's last one. -/
structure Engine where
  seq    : Nat := 0
  served : Nat := 0
  left   : Nat := 0
  last   : Option Nat := none
  deriving DecidableEq, Repr

/-- One compute die (13, 19, 11, 18). `ringWidx` counts the records written since SIZE was; the field WIDX is that count mod
2^28 (11 R274). `fatal` is the kind of a fatal error after which the die is not lost yet (19 R399); `ppois` is PPOIS, and
`poisonedPages` are the 4 KiB pages poisoned by its evacuation (19 R398, R404). -/
structure Die where
  harvest  : BitVec 36
  st       : Nat := 0
  why      : Nat := 0
  mempath  : Bool := true
  fatal    : Nat := 0
  poisonedPages : List Nat := []
  ppois    : Nat := 0
  engines  : List Engine := [{}, {}, {}]
  station  : Nat := 0
  bridged  : Bool := false
  lossShift : Option Nat := none
  ringWidx : Nat := 0
  ringSize : Nat := 0
  ringBase : Nat := 0
  clusters : List Cluster := List.replicate 9 {}
  subnets  : Nat := 1
  corrected : Nat := 0
  deriving DecidableEq, Repr

/-- A die-store allocation (13 R295): a launch's, or a region's. -/
structure Alloc where
  die    : Nat
  launch : Option Nat
  node   : Nat
  base   : Nat
  size   : Nat
  spaceClock : Stamp := 0
  deriving DecidableEq, Repr

/-- A host window (20 R417, Table 20-3's ARG fields): base, size, and the grant's flags. -/
structure HostWindow where
  base    : Nat := 0
  size    : Nat := 0
  flags   : Nat := 0
  deriving DecidableEq, Repr

/-- The answer to a peer's request (20 R418): the port, the address, and the data read, an acknowledgement, or poison. -/
structure FabricReply where
  port   : Nat
  pa     : Nat
  data   : List Byte
  poison : Bool := false
  deriving DecidableEq, Repr

/-- A request that goes out through a fabric window to the peer package (20 R418, R421): the access and lane it serves, the
port, and an offset of the peer's physical address space. -/
structure FabricAsk where
  access : Nat
  lane   : Nat
  peer   : Nat
  port   : Nat
  write  : Bool
  pa     : Nat
  len    : Nat
  data   : List Byte
  deriving DecidableEq, Repr

/-- A queue the distributor serves since a SUBMIT (14 R327; 20 R414): `past` is what lies before the command. -/
structure Submitted where
  node  : Nat
  queue : Nat
  past  : Past := []
  deriving DecidableEq, Repr

/-- A parked READC (20 R416), `op` naming its reads through a window. -/
structure ParkedReadc where
  packet   : Packet
  deadline : Option Nat
  op       : Nat
  deriving DecidableEq, Repr

/-- A record sent to firmware or written to the error log (13 R311; 14 R338; 16 R364; 19 R409). -/
inductive LogRecord where
  | translation (r : BitVec 128)
  | hint (launch lower : Nat)
  | shortfall (r : BitVec 128)
  | poison (at_ region state : Nat)
  | droppedCompletion (launch : Nat)
  | windowTimeout (addr : Nat)
  | regionError (node : Nat)
  deriving DecidableEq, Repr

/-- The instruction at the issue stage: the split that issues it, its PC, and the second instruction of its pair.
At a pair's second, `marked` holds the registers the first makes D once the second has read them (02 R67). -/
structure Issue where
  warp   : Nat
  entry  : Nat
  pc     : PC
  instr  : Instr
  second : Option Instr
  marked : List Nat := []
  deriving DecidableEq, Repr

/-- An error that the environment brings about (02 R47; 08 R197; 13 R317; 18 R393): the next copy of a line fetched on a die
fails its parity; a sector, by its key over 32, has an error that its ECC corrects or does not; the payload in a slot has one it
does not. -/
inductive Upset where
  | line (die pa : Nat)
  | sector (sec : Nat) (fatal : Bool)
  | coach (slot : Nat)
  deriving DecidableEq, Repr

/-- The state of boot verification (20 R422, R424). -/
inductive BootState where
  | boot | verifying (p : Packet) | firmware
  deriving DecidableEq, Repr

/-- The whole machine. -/
structure State where
  -- time
  cycle      : Nat := 0
  tick       : Nat := 1
  millivolts : Nat := 500
  -- memory
  mem        : List (Nat × Byte) := []
  poisoned   : List Nat := []
  hreserve   : Nat := 3
  -- stamps and history
  sliceClock : List (Nat × Nat) := []
  opClock    : Stamp := 0
  stamps     : List (Nat × Nat) := []
  versions   : List Version := []
  histPages  : List HistPage := []
  mapHistory : List MapRecord := []
  stackFloor : List (Nat × Nat) := []
  regionFloor : List (Nat × Nat) := []
  floorsInEffect : List (Nat × Nat) := []
  pendingFloors : List PendingFloor := []
  frontierG  : Stamp := 0
  -- translation
  roots      : List (Nat × DWord) := []
  tlb        : List TlbEntry := []
  walks      : List (Nat × Nat × Nat) := []
  -- dies, cores, regions
  dies       : List Die
  cores      : List Core
  regionTable : DWord := 0
  regions    : List Region := []
  allocs     : List Alloc := []
  -- work
  launches   : List Launch := []
  wgs        : List Workgroup := []
  warps      : List Warp := []
  accesses   : List Access := []
  copies     : List Copy := []
  shadows    : List Shadow := []
  poolTaken  : List (Nat × Nat) := []
  ends       : List EndRecord := []
  resolving  : List (Nat × Nat) := []
  queues     : List ArrivalQueue := []
  submitted  : List Submitted := []
  stages     : List Departure := []
  devSeq     : Nat := 0
  rotation   : Nat := 0
  turns      : Nat := 0
  freed      : List (Nat × Nat) := []
  -- the circle line
  coaches    : List Coach := []
  lineOps    : List StationOp := []
  lineStart  : Nat := 0
  lineShift  : Nat := 0
  catches    : List (Nat × Nat) := []
  -- host, fabric, firmware
  hostMask   : List Nat := []
  windows    : List HostWindow := List.replicate 4 {}
  fabric     : List (BitVec 128) := List.replicate 4 0
  ports      : BitVec 8 := 0xFF
  backing    : List Nat := []
  boot       : BootState := .boot
  measurement : List Byte := List.replicate 48 0
  svn        : Nat := 0
  fusedSvn   : Nat := 0
  imageVersions : Nat := 0
  negotiated : List Nat := [1, 0, 0, 0]
  mailClock  : Stamp := 0
  mailPast   : Past := []
  parked     : List ParkedReadc := []
  mailOp     : Option (Packet × Nat) := none
  inbound    : List Packet := []
  outbound   : List Packet := []
  fabricOut  : List FabricReply := []
  fabricAsks : List FabricAsk := []
  log        : List LogRecord := []
  upsets     : List Upset := []
  -- the model's own fields: the writes of each sector that a load may miss and the places of 08 R214 (log 3), the events due next,
  -- the issue stage, the scheduler whose turn it is, counters
  written    : List (Nat × List Written) := []
  ordered    : List Sync := []
  agenda     : List Instr := []
  issue      : Option Issue := none
  turn       : Nat := 0
  fresh      : Nat := 1
  free       : Nat := 0
  lastIssued : List (Nat × Nat × Nat × Nat) := []
  deriving DecidableEq, Repr

/-- The machine right after a power-on: the boot state of 20 R422, every register at the value the spec states for reset or
at the value logs 6 and 10 name, nothing listed in memory. -/
def State.reset : State where
  dies := List.replicate 8 { harvest := BitVec.allOnes 36 }
  cores := List.replicate 288 {}

end Sys2Proof.Machine
end

