-- ==== Sys2Proof/Machine/Ops.lean ====
section
/-! DEFINITION. Machine/Ops.lean: named operations over memory, tables and records: the one memory list and its canonical
form, keys of the spaces, lookups, region budgets, stamps and history (08, 13, 14, 16). -/

namespace Sys2Proof.Machine

/-! ### Memory -/

/-- What an address that is not listed reads as (log 1). -/
def Memory.blank : Byte := 0

/-- The canonical form: addresses strictly rising, no entry equal to an unlisted address's byte. -/
def Memory.wf : List (Nat × Byte) → Bool
  | [] => true
  | [(_, v)] => v != Memory.blank
  | (a, v) :: (b, w) :: r => a < b && v != Memory.blank && Memory.wf ((b, w) :: r)

/-- The byte at a key. -/
def Memory.get : List (Nat × Byte) → Nat → Byte
  | [], _ => Memory.blank
  | (b, w) :: r, a => if a = b then w else Memory.get r a

/-- One byte written, the canonical form kept. -/
def Memory.set : List (Nat × Byte) → Nat → Byte → List (Nat × Byte)
  | [], a, v => if v = Memory.blank then [] else [(a, v)]
  | (b, w) :: r, a, v =>
    if a < b then (if v = Memory.blank then (b, w) :: r else (a, v) :: (b, w) :: r)
    else if a = b then (if v = Memory.blank then r else (a, v) :: r)
    else (b, w) :: Memory.set r a v

/-- Bytes written from a key upward. -/
def Memory.setAll (m : List (Nat × Byte)) (a : Nat) : List Byte → List (Nat × Byte)
  | [] => m
  | v :: r => Memory.setAll (Memory.set m a v) (a + 1) r

/-- The keys [lo, hi) made blank. -/
def Memory.wipe (m : List (Nat × Byte)) (lo hi : Nat) : List (Nat × Byte) :=
  m.filter fun c => c.1 < lo || hi ≤ c.1

/-- `n` bytes from a key. -/
def Memory.bytes (m : List (Nat × Byte)) (a n : Nat) : List Byte := (List.range n).map fun i => Memory.get m (a + i)

/-- A little-endian number (00 R6). -/
def leNat : List Byte → Nat
  | [] => 0
  | b :: r => b.toNat + 256 * leNat r

/-- The `n` little-endian bytes of a number. -/
def leBytes : Nat → Nat → List Byte
  | 0, _ => []
  | n + 1, v => BitVec.ofNat 8 v :: leBytes n (v / 256)

/-- The `n` big-endian bytes of a number. -/
def beBytes (n v : Nat) : List Byte := (leBytes n v).reverse

/-- Key of byte `a` of die d's store (13 R294; log 1). -/
def dieStoreKey (d a : Nat) : Nat := 2 ^ 52 + d * 2 ^ 26 + a % 2 ^ 26
/-- Key of byte `o` of the coach payload in a slot (18 R380; log 1). -/
def coachKey (slot o : Nat) : Nat := 2 ^ 56 + slot * 4096 + o
/-- Key of byte `o` of a workgroup's shared memory (08 R204; log 1). -/
def sharedKey (wg o : Nat) : Nat := 2 ^ 60 + wg * 2 ^ 20 + o
/-- The physical address of an offset of a home (13 R314). -/
def homeKey (h o : Nat) : Nat := h * 2 ^ 48 + o

/-- The memory with the bytes written from a key, poison cleared where a whole 32-byte sector is written (08 R197). -/
def State.write (s : State) (k : Nat) (bs : List Byte) : State :=
  let n := bs.length
  { s with mem := Memory.setAll s.mem k bs,
           poisoned := s.poisoned.filter fun q => !(k ≤ q * 32 && q * 32 + 32 ≤ k + n) }

/-- `n` bytes read from a key. -/
def State.read (s : State) (k n : Nat) : List Byte := Memory.bytes s.mem k n
/-- `n` bytes read from a key as a number. -/
def State.readNat (s : State) (k n : Nat) : Nat := leNat (s.read k n)

/-- A byte of [k, k+n) lies in a poisoned sector (08 R197): that sector's address. -/
def State.poisonAt (s : State) (k n : Nat) : Option Nat :=
  ((List.range ((k + n - 1) / 32 - k / 32 + 1)).map (· + k / 32)).find? (s.poisoned.contains ·) |>.map (· * 32)

/-- Keys [lo, hi) made blank, free of poison and of the writes a load may miss. -/
def State.wipe (s : State) (lo hi : Nat) : State :=
  { s with mem := Memory.wipe s.mem lo hi, poisoned := s.poisoned.filter (fun q => q * 32 + 32 ≤ lo || hi ≤ q * 32),
           written := s.written.filter fun p => p.1 * 32 + 32 ≤ lo || hi ≤ p.1 * 32 }

/-- A sector that the lanes of one store write whole is no longer poisoned (08 R197). -/
def State.coverSectors (s : State) (ks : List Nat) : State :=
  { s with poisoned := s.poisoned.filter fun q => !(List.range 32).all fun b => ks.contains (32 * q + b) }

/-- A key of the spaces other than .gl: its bytes stand outside the physical addresses (log 1). -/
def isKey (k : Nat) : Bool := 2 ^ 52 ≤ k

/-- The number a place starts at: a key, or a virtual address. -/
def Place.start : Place → Nat
  | .key k => k
  | .virt _ va => va.toNat

/-! ### Tables -/

/-- The value under a key, or a default. -/
def tget {α : Type} (l : List (Nat × α)) (k : Nat) (d : α) : α :=
  match l.find? (fun p => p.1 == k) with
  | some p => p.2
  | none => d

/-- The value under a key set, keys rising. -/
def tset {α : Type} : List (Nat × α) → Nat → α → List (Nat × α)
  | [], k, v => [(k, v)]
  | (j, w) :: r, k, v => if k < j then (k, v) :: (j, w) :: r else if k = j then (k, v) :: r else (j, w) :: tset r k v

/-- The element at an index changed. -/
def modAt {α : Type} (l : List α) (i : Nat) (f : α → α) : List α :=
  l.zipIdx.map fun p => if p.2 = i then f p.1 else p.1

/-- A die. A number past the last die names none and reads as one with no enabled core. -/
def State.die (s : State) (d : Nat) : Die := s.dies.getD d { harvest := 0, st := 3, mempath := false }
def State.modDie (s : State) (d : Nat) (f : Die → Die) : State := { s with dies := modAt s.dies d f }
def State.core (s : State) (d c : Nat) : Core := s.cores.getD (d * 36 + c) {}
def State.modCore (s : State) (d c : Nat) (f : Core → Core) : State := { s with cores := modAt s.cores (d * 36 + c) f }

def State.warp? (s : State) (uid : Nat) : Option Warp := s.warps.find? fun w => w.uid == uid
def State.wg? (s : State) (uid : Nat) : Option Workgroup := s.wgs.find? fun g => g.uid == uid
def State.launch? (s : State) (id : Nat) : Option Launch := s.launches.find? fun l => l.id == id
def State.region? (s : State) (n : Nat) : Option Region := s.regions.find? fun r => r.node == n
def State.access? (s : State) (id : Nat) : Option Access := s.accesses.find? fun a => a.id == id
def State.copy? (s : State) (id : Nat) : Option Copy := s.copies.find? fun c => c.id == id
def State.lineOp? (s : State) (id : Nat) : Option StationOp := s.lineOps.find? fun o => o.id == id

/-- A warp replaced by its new state. -/
def State.putWarp (s : State) (w : Warp) : State := { s with warps := s.warps.map fun v => if v.uid = w.uid then w else v }
def State.putWg (s : State) (g : Workgroup) : State := { s with wgs := s.wgs.map fun h => if h.uid = g.uid then g else h }
def State.putLaunch (s : State) (l : Launch) : State :=
  { s with launches := s.launches.map fun m => if m.id = l.id then l else m }
def State.putAccess (s : State) (a : Access) : State :=
  { s with accesses := s.accesses.map fun b => if b.id = a.id then a else b }
def State.putCopy (s : State) (c : Copy) : State := { s with copies := s.copies.map fun b => if b.id = c.id then c else b }
def State.putLineOp (s : State) (o : StationOp) : State :=
  { s with lineOps := s.lineOps.map fun b => if b.id = o.id then o else b }
def State.modWarp (s : State) (uid : Nat) (f : Warp → Warp) : State :=
  { s with warps := s.warps.map fun v => if v.uid = uid then f v else v }
def State.modWg (s : State) (uid : Nat) (f : Workgroup → Workgroup) : State :=
  { s with wgs := s.wgs.map fun v => if v.uid = uid then f v else v }
def State.modLaunch (s : State) (id : Nat) (f : Launch → Launch) : State :=
  { s with launches := s.launches.map fun v => if v.id = id then f v else v }

/-- A fresh number of the model's own. -/
def State.tick1 (s : State) : State := { s with fresh := s.fresh + 1 }

/-- A log record appended (13 R311; 14 R338; 16 R364; 19 R409). -/
def State.logged (s : State) (r : LogRecord) : State := { s with log := s.log ++ [r] }

/-! ### Registers of a warp -/

end Sys2Proof.Machine

namespace Sys2Proof

/-- Registers of a datum of `n` bytes from `r` (02 R60). -/
def dataRegs (r n : Nat) : List Nat := (List.range (max 1 (n / 4))).map (r + ·)

end Sys2Proof

namespace Sys2Proof.Machine

/-- The registers of a destination. -/
def dstRegs (n : Nat) (wide : Bool) : List Nat := if wide then [n, n + 1] else [n]

/-- The registers an access in flight will write. -/
def Access.holds (a : Access) : List Nat :=
  match a.op with
  | .load | .atom _ | .atomf _ _ | .asof => dataRegs a.dst a.n
  | .storeStamp => dstRegs a.dst2 true
  | _ => []

/-- A register's tag and values; one past the declared count reads as dead. -/
def Warp.reg (w : Warp) (n : Nat) : VReg := w.regs.getD n .d

/-- Lane `i` of a register (01 R31, R32). -/
def VReg.lane (r : VReg) (i : Nat) : Word :=
  match r with
  | .u v => v
  | .a b st => b + BitVec.ofNat 32 i * st
  | .g vs => vs.getD i 0
  | .d => 0

/-- Lane `i` of register `n`. -/
def Warp.lane (w : Warp) (n i : Nat) : Word := (w.reg n).lane i
/-- Lane `i` of the pair at `n` (00 R6). -/
def Warp.pair (w : Warp) (n i : Nat) : DWord := pair64 (w.lane n i) (w.lane (n + 1) i)

/-- The format block at register `f`, as a lane holds it (07 R179). -/
def Warp.format (w : Warp) (f lane : Nat) : Format :=
  ⟨(w.lane f lane).toNat, (w.lane (f + 1) lane).toNat, (w.lane (f + 2) lane).toNat, (w.lane (f + 3) lane).toNat⟩

/-- A register that is D counts as U (01 R33). -/
def VReg.countsU : VReg → Bool
  | .u _ | .d => true
  | _ => false
def VReg.isDead : VReg → Bool
  | .d => true
  | _ => false

/-- Lane `i` of predicate `n`; p0 reads 1 (01 R36). -/
def Warp.pred (w : Warp) (n i : Nat) : Bool := if n = 0 then true else (w.preds.getD (n - 1) 0).getLsbD i
/-- Predicate `n` as a mask. -/
def Warp.predMask (w : Warp) (n : Nat) : Mask := if n = 0 then BitVec.allOnes 32 else w.preds.getD (n - 1) 0

/-- The lanes of `m` of predicate `n` take the bits of `v`; writes to p0 are discarded (01 R36). -/
def Warp.setPred (w : Warp) (n : Nat) (m v : Mask) : Warp :=
  if n = 0 then w else { w with preds := modAt w.preds (n - 1) fun old => (old &&& ~~~m) ||| (v &&& m) }

/-- Register `n` written under an effective mask: the new tag under a full one, G otherwise, nothing under an empty one
(01 R34). A lane written holds no uncorrectable error (07 R196). -/
def Warp.setReg (w : Warp) (n : Nat) (eff : Mask) (full : Bool) (v : VReg) : Warp :=
  if eff = 0 then w
  else
    let old := w.reg n
    let r : VReg := if full then v
      else .g ((List.range 32).map fun i => if eff.getLsbD i then v.lane i else old.lane i)
    { w with regs := w.regs.set n r, badRegs := w.badRegs.filter fun b => !(b.1 == n && eff.getLsbD b.2) }

/-- A register written lane by lane with tag G. -/
def Warp.setLanes (w : Warp) (n : Nat) (eff : Mask) (f : Nat → Word) : Warp :=
  if eff = 0 then w
  else w.setReg n eff false (.g ((List.range 32).map f))

/-- Registers made D by last-use marks: under a full effective mask, unless the instruction writes them (01 R35). -/
def Warp.kill (w : Warp) (full : Bool) (marked written : List Nat) : Warp :=
  if full then
    { w with regs := w.regs.zipIdx.map fun p => if marked.contains p.2 && !written.contains p.2 then .d else p.1 }
  else w

/-- Ticket register `n` (01 R37). -/
def Warp.ticket (w : Warp) (n : Nat) : DWord := w.tickets.getD n 0
def Warp.setTicket (w : Warp) (n : Nat) (v : DWord) : Warp :=
  { w with tickets := w.tickets.set n v, endPasts := w.endPasts.filter fun p => p.1 != n }

/-- A ticket's value from its fields (01 Table 1-6). -/
def ticketVal (st reason kind die unit seq : Nat) : DWord :=
  BitVec.ofNat 64 (st % 4 * 2 ^ 62 + reason % 64 * 2 ^ 56 + kind % 16 * 2 ^ 52 + die % 16 * 2 ^ 48 + unit % 256 * 2 ^ 40
    + seq % 2 ^ 40)
def tkState (t : DWord) : Nat := bitsOf t.toNat 62 2
def tkReason (t : DWord) : Nat := bitsOf t.toNat 56 6
def tkKind (t : DWord) : Nat := bitsOf t.toNat 52 4
def tkDie (t : DWord) : Nat := bitsOf t.toNat 48 4
def tkUnit (t : DWord) : Nat := bitsOf t.toNat 40 8
def tkSeq (t : DWord) : Nat := bitsOf t.toNat 0 40

/-- The stamp clock merged with a stamp (01 R40). -/
def Warp.merge (w : Warp) (st : Stamp) : Warp := { w with clock := max w.clock st }

/-! ### What lies before -/

/-- An agent's acts below a number come to lie before a point. -/
def pastAdd : Past → Nat → Nat → Past
  | [], a, n => [(a, n)]
  | (b, m) :: r, a, n => if a < b then (a, n) :: (b, m) :: r else if a = b then (b, max m n) :: r else (b, m) :: pastAdd r a n
/-- What lies before either of two points. -/
def joinPast (p q : Past) : Past := q.foldl (fun p x => pastAdd p x.1 x.2) p
/-- An agent's act of a number lies before a point. -/
def inPast (p : Past) (a n : Nat) : Bool := n < tget p a 0

/-- The number of a lane's thread in the package: its launch, and its id there (11 Table 11-6). -/
def Warp.thread (w : Warp) (lane : Nat) : Nat := w.launch * 2 ^ 32 + (w.tids.getD lane 0).toNat

/-- A lane's place in happens-before. -/
def Warp.sight (w : Warp) (i : Nat) : Sight := tget w.sights i {}
def Warp.setSight (w : Warp) (i : Nat) (x : Sight) : Warp := { w with sights := tset w.sights i x }
/-- What lies before what a lane does next: what has come to it along edges, and its own acts below the number `n` (08 R211). -/
def Warp.pastAt (w : Warp) (i n : Nat) : Past := pastAdd (w.sight i).past (w.thread i) n
/-- The same for what several lanes bring about together. -/
def Warp.pastOf (w : Warp) (m : Mask) (n : Nat) : Past := (lanesOf m).foldl (fun p i => joinPast p (w.pastAt i n)) []
/-- What comes along an edge of happens-before to a lane (08 R211; 22 Table 22-1). -/
def Warp.look (w : Warp) (i : Nat) (p : Past) : Warp :=
  if p.isEmpty then w else w.setSight i { w.sight i with past := joinPast (w.sight i).past p }
/-- The same to several lanes. -/
def Warp.lookAll (w : Warp) (m : Mask) (p : Past) : Warp := (lanesOf m).foldl (fun w i => w.look i p) w

/-- Lanes see that a ticket has left PENDING: an acquire of what its operation's end brings (09 R254; 18 R395), from the
register, or from the unit's end record. An idle ticket brings nothing (22 R436). -/
def Warp.sawEnd (w : Warp) (m : Mask) (n : Nat) (r : Option EndRecord) : Warp :=
  w.lookAll m (joinPast (tget w.endPasts n []) ((r.map (·.past)).getD []))

/-- Lanes pass a release fence of a scope; `n` is the fence's number (08 R211). -/
def Warp.passFence (w : Warp) (sc : Scope) (m : Mask) (n : Nat) : Warp :=
  (lanesOf m).foldl (fun w i => w.setSight i { w.sight i with
    fenced := (sc, w.pastAt i n) :: (w.sight i).fenced.filter fun p => p.1 != sc }) w
/-- The release sides that a lane's write with number `n` is: at its own scope where the order releases, and at its fences',
before which lies what lay before the fence (08 R211). -/
def Warp.relScopes (w : Warp) (i n : Nat) (own : Option Scope) : List (Scope × Past) :=
  own.toList.map (·, w.pastAt i n) ++ (w.sight i).fenced

/-- The scope of one side contains the other's thread (08 Table 8-3). A cluster has 4 physical cores (11 R263). -/
def Party.covers (p q : Party) : Bool :=
  match p.scope with
  | .thr => p.thread == q.thread
  | .wrp => p.warp == q.warp
  | .wg => p.wg == q.wg
  | .clu => p.die == q.die && p.core / 4 == q.core / 4
  | .die => p.die == q.die
  | .dev | .sys => true
  | .reserved => false
/-- Two accesses agree (08 R209). -/
def Party.agrees (p q : Party) : Bool := p.thread == q.thread || (p.covers q && q.covers p)
/-- A release side synchronises with an acquire side that has read its value, or comes after it in the total order (08 R211,
R214). -/
def Sync.reaches (y : Sync) (p : Party) : Bool := y.who.agrees p

/-- A thread of a warp at a scope. -/
def Warp.party (w : Warp) (lane : Nat) (sc : Scope) : Party :=
  { thread := w.thread lane, warp := w.uid, wg := w.wg, die := w.die, core := w.core, scope := sc }

/-- An operation of an engine or station, the mailbox engine, and the front die as agents: no thread's number is as large. An
operation acts at .dev, the other two at .sys (08 Table 8-3; 09 R235; 14 R330, R342; 20 R414). -/
def engineAgent (op : Nat) : Nat := 2 ^ 130 + op
def mailAgent : Nat := 2 ^ 129 + 1
def engineParty (op : Nat) : Party := { thread := engineAgent op, warp := 0, wg := 0, die := 8, core := 0, scope := .dev }
def mailParty : Party := { thread := mailAgent, warp := 0, wg := 0, die := 8, core := 0, scope := .sys }
def frontParty : Party := { thread := 2 ^ 129, warp := 0, wg := 0, die := 8, core := 0, scope := .sys }

/-- Release sides are kept for a later acquire fence; those of one party together. -/
def hearIn : List Sync → Sync → List Sync
  | [], y => [y]
  | z :: r, y =>
    if z.who = y.who then { z with stamp := max z.stamp y.stamp, past := joinPast z.past y.past } :: r else z :: hearIn r y
/-- Release sides that a write carries on with those of its own (08 R211). -/
def mergeSyncs (old new : List Sync) : List Sync := new.foldl hearIn old
/-- A lane has read the value of a release side. -/
def Warp.hear (w : Warp) (i : Nat) (y : Sync) : Warp := w.setSight i { w.sight i with heard := hearIn (w.sight i).heard y }
/-- A release side synchronises with an acquire side of a lane: its clock and what lies before it pass along the edge (08 R211;
16 R354, R358; log 3). -/
def Warp.acquireFrom (w : Warp) (i : Nat) (y : Sync) : Warp := (w.merge y.stamp).look i y.past
/-- Values of release sides read by a lane: an acquire joins those that reach it, and all are kept (08 R211). -/
def Warp.hearAll (w : Warp) (i : Nat) (acq : Bool) (p : Party) (ys : List Sync) : Warp :=
  ys.foldl (fun w y => if acq && y.reaches p then (w.hear i y).acquireFrom i y else w.hear i y) w
/-- An acquire fence of lanes at a scope: the release sides that each has heard and that reach it (08 R211, R226). -/
def Warp.acquire (w : Warp) (m : Mask) (sc : Scope) : Warp :=
  (lanesOf m).foldl (fun w i => ((w.sight i).heard.filter (·.reaches (w.party i sc))).foldl (fun w y => w.acquireFrom i y) w) w

/-- A split-table entry of a warp. -/
def Warp.entry (w : Warp) (e : Nat) : Entry := w.entries.getD e {}
def Warp.setEntry (w : Warp) (e : Nat) (x : Entry) : Warp := { w with entries := w.entries.set e x }

/-! ### Regions -/

/-- A node and its ancestors, nearest first (14 R321: at most 8 deep). -/
def State.chain (s : State) : Nat → Nat → List Region
  | 0, _ => []
  | k + 1, n => match s.region? n with
    | none => []
    | some r => r :: (if r.parent = 0xFFFF then [] else s.chain k r.parent)

/-- The nearest node whose OVR bit is set (14 R323). -/
def State.owner (s : State) (n bit : Nat) : Option Region := (s.chain 8 n).find? fun r => r.ovr.testBit bit

/-- Effective values (14 R323). -/
def State.effPrio (s : State) (n : Nat) : Nat :=
  ((s.chain 8 n).filter (·.ovr.testBit 6)).foldl (fun a r => min a r.prio) 7
def State.effExcl (s : State) (n d : Nat) : Nat :=
  ((s.chain 8 n).filter (·.ovr.testBit 9)).foldl (fun a r => a ||| r.excl.getD d 0) 0
def State.effAsid (s : State) (n : Nat) : Nat := ((s.owner n 10).map (·.asid)).getD 0
def State.effCshare (s : State) (n : Nat) : Nat := ((s.owner n 8).map (·.cshare)).getD 1
def State.effCores (s : State) (n d : Nat) : Nat := ((s.owner n 0).map (·.cores.getD d 0)).getD 0
def State.effDs (s : State) (n d : Nat) : Nat := ((s.owner n 1).map (·.dsbytes.getD d 0)).getD 0
def State.effCoaches (s : State) (n : Nat) : Nat := ((s.owner n 2).map (·.coaches)).getD 0
def State.effShadow (s : State) (n : Nat) : Nat := ((s.owner n 3).map (·.shadow)).getD 0
def State.effHshare (s : State) (n : Nat) : Nat := ((s.owner n 4).map (·.hshare)).getD 0
def State.effHwindow (s : State) (n : Nat) : Nat := ((s.owner n 5).map (·.hwindow)).getD 0

/-- `n` is `m` or a descendant of it. -/
def State.under (s : State) (n m : Nat) : Bool := (s.chain 8 n).any (·.node == m)

/-- A resource with `used` counted per node fits the budget of a node and of every ancestor (14 R324). -/
def State.fits (s : State) (n : Nat) (use budget : Nat → Nat) (more : Nat) : Bool :=
  (s.chain 8 n).all fun r => use r.node + more ≤ budget r.node

/-! ### Physical addresses and stamps -/

def homeOf (pa : Nat) : Nat := pa / 2 ^ 48
def offsetOf (pa : Nat) : Nat := pa % 2 ^ 48

/-- Bytes of the populated range of a home (13 R315). -/
def State.populated (s : State) : Nat := 2 * (48 - s.hreserve) * 2 ^ 30
/-- Where a die's spill frames begin (08 R203). -/
def State.frames (s : State) : Nat := s.populated - 144 * 2 ^ 20
/-- The key of the spill frame of a warp slot (08 R203). -/
def State.frameKey (s : State) (d p w : Nat) : Nat := homeKey d (s.frames + 2 ^ 16 * (64 * p + w))

/-- The slice that serves a physical address (13 R316). -/
def sliceOf (pa : Nat) : Nat :=
  let g := offsetOf pa / 256
  256 * homeOf pa + 128 * (g % 2) + g / 2 % 128
/-- The stack that holds it: 2d + s (16 Table 16-4). -/
def stackOf (pa : Nat) : Nat := 2 * homeOf pa + offsetOf pa / 256 % 2

/-- A slice's clock: at least the tick (16 R352). -/
def State.clockAt (s : State) (slice : Nat) : Stamp := max (tget s.sliceClock slice 0) s.tick
/-- The ordering point's clock. -/
def State.opClockNow (s : State) : Stamp := max s.opClock s.tick

/-- A stamp of the ordering point for a clock k (16 R352). -/
def State.orderStamp (s : State) (k : Stamp) : State × Stamp :=
  let c := max (max (s.opClockNow + 1) (k + 1)) s.tick
  ({ s with opClock := c }, c)

/-- A slice's clock raised to k; the read stamp (16 R355). -/
def State.readStamp (s : State) (pa : Nat) (k : Stamp) : State × Stamp :=
  let sl := sliceOf pa
  let c := max (s.clockAt sl) k
  ({ s with sliceClock := tset s.sliceClock sl c }, c)

/-- The history page of a physical address, if it is live (16 R360). -/
def State.histPage? (s : State) (pa : Nat) : Option HistPage :=
  s.histPages.find? fun p => p.page ≤ pa / 4096 && pa / 4096 < p.page + p.count && p.live

/-- The stamp of the current version of a sector (16 R354, R360). -/
def State.versionStamp (s : State) (pa : Nat) : Stamp := tget s.stamps (pa / 32) (((s.histPage? pa).map (·.given)).getD 0)

/-- Live floors (16 R361, R363). -/
def State.regionFloorOf (s : State) (n : Nat) : Stamp := tget s.regionFloor n 0
def State.stackFloorOf (s : State) (k : Nat) : Stamp := tget s.stackFloor k 0
/-- Floors in effect at the slices: a region n under key n, stack k under key 4096 + k (16 R363). -/
def State.floorInEffect (s : State) (key : Nat) : Stamp := tget s.floorsInEffect key 0

/-- The effective floor for region A at an address of a page owned by Q (16 R361). -/
def State.effFloor (s : State) (a q pa : Nat) : Stamp :=
  max (s.floorInEffect (4096 + stackOf pa)) (max (s.floorInEffect q) (s.floorInEffect a))

/-- A floor raised: live at once, in effect by a later step (16 R363). -/
def State.raiseRegionFloor (s : State) (n : Nat) (v : Stamp) : State :=
  if v ≤ s.regionFloorOf n then s
  else { s with regionFloor := tset s.regionFloor n v,
                pendingFloors := s.pendingFloors ++ [{ region := some n, stack := 0, value := v }] }
def State.raiseStackFloor (s : State) (k : Nat) (v : Stamp) : State :=
  if v ≤ s.stackFloorOf k then s
  else { s with stackFloor := tset s.stackFloor k v,
                pendingFloors := s.pendingFloors ++ [{ region := none, stack := k, value := v }] }

/-- The owner of a sector's page. -/
def State.sectorOwner (s : State) (sec : Nat) : Option Nat := (s.histPage? (sec * 32)).bind (·.owner)

/-- The stamp of the version that follows a kept one: the floor that frees it (16 R362). -/
def State.successor (s : State) (v : Version) : Stamp :=
  (s.versions.filter fun u => u.sector == v.sector && v.stamp < u.stamp).foldl (fun a u => min a u.stamp)
    (s.versionStamp (v.sector * 32))

/-- The least of a list of numbers. -/
def least : List Nat → Option Nat
  | [] => none
  | a :: r => match least r with
    | none => some a
    | some b => some (min a b)

/-- The record of a shortfall (16 Table 16-4). -/
def shortfallRecord (floor region stack kind short : Nat) : BitVec 128 :=
  BitVec.ofNat 128 (floor % 2 ^ 64 * 2 ^ 64 + region % 4096 * 2 ^ 52 + stack % 16 * 2 ^ 48 + kind % 2 * 2 ^ 47
    + min short (2 ^ 47 - 1))

/-- How far a floor stands above t - HWINDOW of a region, 0 where it does not (16 R364, Table 16-4). -/
def State.overWindow (s : State) (floor n : Nat) : Nat := floor + s.effHwindow n - s.tick

/-- A version that the live floors retain (16 R362): one they do not is about to be reclaimed, and its room is free. -/
def State.staysUnder (s : State) (v : Version) : Bool :=
  let floor := max (s.stackFloorOf (stackOf (v.sector * 32))) (((s.sectorOwner v.sector).map s.regionFloorOf).getD 0)
  floor < v.stamp || floor < s.successor v

/-- The previous version appended to the stack's reserve; a full share or reserve raises a floor to the smallest stamp that
frees a version, the appended one where there is no other; a floor so raised above t - HWINDOW is logged (16 R360, R364). `c` is
the stamp of the write. -/
def State.appendVersion (s : State) (sec c : Nat) : State :=
  match s.histPage? (sec * 32) with
  | none => s
  | some p => match p.owner with
    | none => s
    | some q =>
      let k := stackOf (sec * 32)
      let here := s.versions.filter fun v => stackOf (v.sector * 32) == k && s.staysUnder v
      let mine := here.filter fun v => s.sectorOwner v.sector == some q
      let reserve := s.hreserve * 2 ^ 30
      let share := s.effHshare q * reserve / 1024
      let v : Version := { sector := sec, bytes := s.read (sec * 32) 32, stamp := s.versionStamp (sec * 32),
                           poison := s.poisoned.contains sec }
      let s' := { s with versions := s.versions ++ [v] }
      if 40 * (mine.length + 1) > share then
        let f := (least (mine.map s.successor)).getD c
        let t := s'.raiseRegionFloor q f
        let short := s.overWindow f q
        if s.regionFloorOf q < f && short ≠ 0 then t.logged (.shortfall (shortfallRecord f q k 0 short)) else t
      else if 40 * (here.length + 1) > reserve then
        let f := (least (here.map s.successor)).getD c
        let t := s'.raiseStackFloor k f
        let short := (here.filterMap fun v => s.sectorOwner v.sector).foldl (fun a n => max a (s.overWindow f n)) (s.overWindow f q)
        if s.stackFloorOf k < f && short ≠ 0 then t.logged (.shortfall (shortfallRecord f q k 1 short)) else t
      else s'

/-- The writes performed in the sector of an address, newest first. -/
def State.writtenTo (s : State) (pa : Nat) : List Written := tget s.written (pa / 32) []

/-- A memory slice performs one write within a sector: the previous version is kept, the bytes replaced, the slice's clock
and the sector's stamp advance (16 R352, R360). -/
def State.performWrite (s : State) (pa : Nat) (bs : List Byte) (k : Stamp) : State × Stamp :=
  let sl := sliceOf pa
  let c := max (max (s.clockAt sl + 1) (k + 1)) s.tick
  let s : State := s.appendVersion (pa / 32) c
  let x : Written := { lo := pa, len := bs.length, old := s.read pa bs.length, was := s.versionStamp pa, stamp := c }
  ({ s.write pa bs with sliceClock := tset s.sliceClock sl c, stamps := tset s.stamps (pa / 32) c,
                        written := tset s.written (pa / 32) (x :: s.writtenTo pa) }, c)

/-- Writes of any length to homes 0 to 7, a sector at a time in ascending address; the largest stamp. -/
def State.performBytes (s : State) (k : Stamp) : Nat → Nat → List Byte → State × Stamp
  | 0, _, _ => (s, 0)
  | _ + 1, _, [] => (s, 0)
  | f + 1, pa, bs =>
    let n := 32 - pa % 32
    let (s1, c1) := s.performWrite pa (bs.take n) k
    let (s2, c2) := s1.performBytes k f (pa + n) (bs.drop n)
    (s2, max c1 c2)

/-- Writes as `performBytes`, each of which carries the acknowledgements of those before it (16 R353; 20 R414). -/
def State.performInTurn (s : State) (k : Stamp) : Nat → Nat → List Byte → State × Stamp
  | 0, _, _ => (s, k)
  | _ + 1, _, [] => (s, k)
  | f + 1, pa, bs =>
    let n := 32 - pa % 32
    let (t, c) := s.performWrite pa (bs.take n) k
    t.performInTurn (max k c) f (pa + n) (bs.drop n)

/-! ### What a load may miss -/

/-- Two lanes' bytes overlap. -/
def overlaps (a n b m : Nat) : Bool := a < b + m && b < a + n

/-- A write wrote the byte at a key. -/
def Written.wrote (x : Written) (k : Nat) : Bool := x.lo ≤ k && k < x.lo + x.len && !x.holes.contains k

/-- A write counts in the bytes of a load. -/
def Written.touches (x : Written) (lo n : Nat) : Bool := (List.range n).any fun i => x.wrote (lo + i)

/-- A thread that reads, with what lies before its read. -/
abbrev Reader := Party × Past

/-- A load may miss a write (08 R212, R216): neither its thread's own, nor before it in happens-before, nor read by its thread,
nor one that agrees with it and was acknowledged before it issued. A publish is not missed: what its page held before stands
elsewhere. -/
def Written.missable (x : Written) (p : Reader) (issued : Nat) : Bool :=
  !x.old.isEmpty && !x.seen.contains p.1.thread && match x.who with
    | none => true
    | some q => q.thread != p.1.thread && !inPast p.2 q.thread x.number && !(q.agrees p.1 && x.acked.any (· ≤ issued))

/-- The writes that a load of `n` bytes at `lo` may miss: none of .gl at .dev and .sys, which are performed at the slice (16
R355); otherwise the newest ones, up to the first that it may not miss (08 R210, R212). -/
def State.mayMiss (s : State) (p : Reader) (issued lo n : Nat) : List Written :=
  if p.1.scope.wide && !isKey lo then []
  else ((s.writtenTo lo).filter (·.touches lo n)).takeWhile (·.missable p issued)

/-- The writes that none of the threads that share one load has to see (08 R219). -/
def State.mayAllMiss (s : State) (ps : List Reader) (issued lo n : Nat) : List Written :=
  match ps with
  | [] => []
  | p :: r => (r.foldl (fun m q => min m (s.mayMiss q issued lo n).length)
      (s.mayMiss p issued lo n).length |> (s.mayMiss p issued lo n).take)

/-- The writes it misses: as many as a free value says (08 R212, R216; log 3). -/
def State.missed (s : State) (ps : List Reader) (issued lo n : Nat) : List Written :=
  match s.mayAllMiss ps issued lo n with
  | [] => []
  | ws => ws.take (Config.staleLoads s.free % (ws.length + 1))

/-- Bytes from `lo` as they stood before the writes, newest first. -/
def undo (lo : Nat) (bs : List Byte) (ws : List Written) : List Byte :=
  ws.foldl (fun bs x => bs.zipIdx.map fun p =>
    if x.lo ≤ lo + p.2 && lo + p.2 < x.lo + x.old.length then x.old.getD (lo + p.2 - x.lo) 0 else p.1) bs

/-- The writes whose values the bytes at some keys hold: of each the newest that wrote it. -/
def heldBy (ks : List Nat) : List Written → List Written
  | [] => []
  | x :: r => if ks.any x.wrote then x :: heldBy (ks.filter fun k => !x.wrote k) r else heldBy ks r

/-- The writes whose values a load returns that misses `ws`. -/
def State.returned (s : State) (lo n : Nat) (ws : List Written) : List Written :=
  heldBy ((List.range n).map (lo + ·)) (((s.writtenTo lo).filter (·.touches lo n)).drop ws.length)

/-- Threads have read the writes `xs` of a sector (08 R212). -/
def State.saw (s : State) (ts : List Nat) (lo : Nat) (xs : List Written) : State :=
  if xs.isEmpty then s
  else
    { s with written := tset s.written (lo / 32) ((s.writtenTo lo).map fun x =>
        if xs.any fun y => y.stamp == x.stamp then { x with seen := x.seen ++ ts.filter fun t => !x.seen.contains t } else x) }

/-- A read that the threads `ps` share (08 R212): from the bytes and stamp of the current version, the writes whose values it
returns, its bytes and its stamp, which is that of the version it reads (16 Table 16-2). -/
def State.loadFrom (s : State) (ps : List Reader) (issued lo : Nat) (bs : List Byte) (st : Stamp) :
    State × List Written × List Byte × Stamp :=
  let n := bs.length
  let ws := s.missed ps issued lo n
  let xs := s.returned lo n ws
  let t := s.saw (ps.map (·.1.thread)) lo xs
  let t : State := if (s.mayAllMiss ps issued lo n).isEmpty then t else { t with free := t.free + 1 }
  (t, xs, undo lo bs ws, match ws.getLast? with
    | some x => x.was
    | none => st)

/-- A read of a bank: its bytes, and the release sides whose values it returns (08 R210 to R212). -/
def State.bankRead (s : State) (ps : List Reader) (issued lo n : Nat) : State × List Byte × List Sync :=
  let (t, xs, bs, _) := s.loadFrom ps issued lo (s.read lo n) 0
  (t, bs, xs.flatMap (·.syncs))

/-- The release sides of which the bytes of [lo, lo + n) hold the values: an atomic carries them on (08 R211). -/
def State.carried (s : State) (lo n : Nat) : List Sync := (s.returned lo n []).flatMap (·.syncs)

/-- Who writes: the party, the number of what it does, the release sides the write belongs to, and whether its acknowledgement
comes with it. -/
structure Writer where
  who   : Option Party := none
  number : Nat := 0
  syncs : List Sync := []
  acked : Bool := false

/-- An engine's or station's operation as a writer: its delivery is acknowledged when it is performed (09 R235; 18 R387). -/
def State.engineWriter (s : State) (op : Nat) : Writer := { who := some (engineParty op), number := s.fresh, acked := true }

/-- A write that a bank has performed in a sector is numbered and kept (08 R210, R211): its bytes from `lo` but those at
`holes`. -/
def State.bankWrote (s : State) (p : Writer) (lo : Nat) (old : List Byte) (holes : List Nat) : State :=
  let x : Written := { lo := lo, len := old.length, holes := holes, old := old, was := 0, stamp := s.fresh, who := p.who,
                       number := p.number, acked := (if p.acked then some s.fresh else none), syncs := p.syncs }
  { s with written := tset s.written (lo / 32) (x :: s.writtenTo lo), fresh := s.fresh + 1 }

/-- The newest write of a sector is a copy's whose range entry its warp holds: the warp's accesses that overlap it come after it
(09 R245; 22 Table 22-1). -/
def State.seenBy (s : State) (uid op lo : Nat) : State :=
  match s.writtenTo lo, s.warp? uid with
  | x :: r, some w =>
    if w.ranges.any (·.op == op) then
      { s with written := tset s.written (lo / 32) ({ x with seen := (List.range 32).map w.thread } :: r) }
    else s
  | _, _ => s

/-- The newest write of a sector is a writer's; it left the bytes at `holes` as they were (08 R211). -/
def State.signed (s : State) (p : Writer) (lo : Nat) (holes : List Nat) : State :=
  match s.writtenTo lo with
  | [] => s
  | x :: r => { s with
      fresh := s.fresh + 1
      written := tset s.written (lo / 32)
        ({ x with who := p.who, number := p.number, acked := (if p.acked then some s.fresh else none), syncs := p.syncs,
                  holes := holes } :: r) }

/-- The newest writes of the sectors of [lo, lo + n) are a writer's. -/
def State.signedAll (s : State) (p : Writer) (lo n : Nat) : State :=
  ((List.range ((lo + n - 1) / 32 - lo / 32 + 1)).map fun i => 32 * (lo / 32 + i)).foldl (fun s k => s.signed p k []) s

/-- The write that took a stamp, or a number, has been acknowledged (08 R212). -/
def State.acknowledge (s : State) (lo st : Nat) : State :=
  if (s.writtenTo lo).any fun x => x.stamp == st then
    { s with written := tset s.written (lo / 32) ((s.writtenTo lo).map fun x =>
        if x.stamp = st then { x with acked := some s.fresh } else x) }
  else s

/-- What the bytes of [lo, lo + n) held before is no longer to be read: a page has come to stand there. -/
def State.forget (s : State) (lo n : Nat) : State :=
  { s with written := s.written.filter fun p => !(lo ≤ p.1 * 32 && p.1 * 32 < lo + n) }

/-- A page comes to stand at [lo, lo + n) by one release store of stamp `st` (09 R240). -/
def State.publishedAt (s : State) (lo n : Nat) (st : Stamp) (ys : List Sync) : State :=
  let x (i : Nat) : Written := { lo := lo + 32 * i, len := 32, old := [], was := st, stamp := st, number := s.fresh, syncs := ys }
  let t := s.forget lo n
  { t with written := (List.range (n / 32)).foldl (fun m i => tset m (lo / 32 + i) [x i]) t.written }

/-- A lane's place in the total order of fences and atomics with .ar (08 R214), with the instruction's number and stamp: the
earlier places that reach it synchronise with it. -/
def State.takePlaceOf (s : State) (w : Warp) (sc : Scope) (n : Nat) (st : Stamp) (i : Nat) : State × Warp :=
  let p := w.party i sc
  let v := (s.ordered.filter (·.reaches p)).foldl (fun (v : Warp) y => v.acquireFrom i y) w
  ({ s with ordered := hearIn s.ordered { who := p, stamp := st, past := v.pastAt i n } }, v)

/-- Lanes take their places in the total order, in ascending order, under one stamp of the ordering point (08 R200, R214; 16 Table
16-2). -/
def State.takePlaces (s : State) (w : Warp) (m : Mask) (sc : Scope) : State × Warp :=
  let (t, st) := s.orderStamp w.clock
  let (t, v) := (lanesOf m).foldl (fun (acc : State × Warp) i => acc.1.takePlaceOf acc.2 sc s.fresh st i) (t, w)
  ({ t with fresh := s.fresh + 1 }, v.merge st)

end Sys2Proof.Machine
end

