-- ==== Sys2Proof/Machine/Flags.lean ====
section
/-! DEFINITION. Machine/Flags.lean: exact integer arithmetic of the integer types and what a compare writes (03 R73, R74; 04
R109 to R120). Karelm has no flag register: compares write predicates. -/

namespace Sys2Proof

/-- A lane read as a type (03 R73): bits [w-1:0], signed or natural. -/
def Ty.read (t : Ty) (v : DWord) : Int :=
  let n := v.toNat % 2 ^ t.width
  if t.signed && n ≥ 2 ^ (t.width - 1) then (n : Int) - 2 ^ t.width else n

/-- The limits of a type (03 Table 3-1). -/
def Ty.lo (t : Ty) : Int := if t.signed then -(2 ^ (t.width - 1) : Int) else 0
def Ty.hi (t : Ty) : Int := if t.signed then (2 ^ (t.width - 1) : Int) - 1 else (2 ^ t.width : Int) - 1

/-- R11's sat. -/
def satInt (x lo hi : Int) : Int := if x < lo then lo else if hi < x then hi else x

/-- An exact integer wrapped to a type: x mod 2^w read as the type (03 R74). -/
def Ty.wrap (t : Ty) (x : Int) : Int :=
  let n := x % (2 ^ t.width : Int)
  if t.signed && n ≥ 2 ^ (t.width - 1) then n - 2 ^ t.width else n

/-- The lane value that holds an integer of a type: extended to 32 bits, or a pair (03 R73). -/
def Ty.hold (t : Ty) (x : Int) : DWord :=
  if t.width = 64 then BitVec.ofInt 64 x else (BitVec.ofInt 32 x).setWidth 64

/-- An exact result written under R74. -/
def Ty.result (t : Ty) (sat : Bool) (x : Int) : DWord := t.hold (if sat then satInt x t.lo t.hi else t.wrap x)

end Sys2Proof

namespace Sys2Proof.Machine

/-- Truncated quotient and remainder (04 R109). -/
def quotInt (a b : Int) : Int := Int.tdiv a b
def remInt (a b : Int) : Int := Int.tmod a b

/-- The condition codes of icmp (04 R112). -/
def cmpInt (code : Nat) (a b : Int) : Bool :=
  match code with
  | 0 => a = b | 1 => a ≠ b | 2 => a < b | 3 => a ≤ b | 4 => b < a | _ => b ≤ a

/-- Bits [pos+len'-1:pos] of a bit-field control (04 R119). -/
def fieldSpan (w ctl : Nat) : Nat × Nat :=
  let pos := ctl % 256; let len := ctl / 256 % 256
  (pos, if pos ≥ w then 0 else min len (w - pos))

/-- bfe (04 R119). -/
def bfeNat (t : Ty) (a ctl : Nat) : Int :=
  let (pos, len) := fieldSpan t.width ctl
  let f := a / 2 ^ pos % 2 ^ len
  if t.signed && len ≠ 0 && f ≥ 2 ^ (len - 1) then (f : Int) - 2 ^ len else f

/-- bfi (04 R119). -/
def bfiNat (t : Ty) (a old ctl : Nat) : Nat :=
  let (pos, len) := fieldSpan t.width ctl
  old % 2 ^ pos + (a % 2 ^ len) * 2 ^ pos + old / 2 ^ (pos + len) * 2 ^ (pos + len)

/-- One byte of prmb (04 R120). -/
def prmbByte (a sel m : Nat) : Nat :=
  let nib := sel / 2 ^ (4 * m) % 16
  let b := a / 2 ^ (8 * (nib % 4)) % 256
  if nib ≥ 8 then 0 else if nib ≥ 4 then (if b ≥ 128 then 255 else 0) else b

/-- prmb (04 R120). -/
def prmbNat (a sel : Nat) : Nat := (List.range 4).foldl (fun x m => x + prmbByte a sel m * 2 ^ (8 * m)) 0

/-- Set bits, zero bits above the highest, zero bits below the lowest, of a w-bit number (04 R118). -/
def popNat (w a : Nat) : Nat := ((List.range w).filter fun i => a.testBit i).length
def clzNat (w a : Nat) : Nat := ((List.range w).find? fun i => a.testBit (w - 1 - i)).getD w
def ctzNat (w a : Nat) : Nat := ((List.range w).find? fun i => a.testBit i).getD w
/-- The w bits reversed. -/
def brevNat (w a : Nat) : Nat := (List.range w).foldl (fun x i => if a.testBit (w - 1 - i) then x + 2 ^ i else x) 0

/-- Shifts and rotates (04 R117). -/
def shlNat (w a n : Nat) : Nat := if n ≥ w then 0 else a * 2 ^ n % 2 ^ w
def shrNat (w a n : Nat) : Nat := if n ≥ w then 0 else a / 2 ^ n
def sarNat (w a n : Nat) : Nat :=
  let s : Int := if a ≥ 2 ^ (w - 1) then (a : Int) - 2 ^ w else a
  ((s / 2 ^ (min n w)) % 2 ^ w).toNat
def rolNat (w a n : Nat) : Nat := let k := n % w; (a * 2 ^ k + a / 2 ^ (w - k)) % 2 ^ w
def rorNat (w a n : Nat) : Nat := let k := n % w; (a / 2 ^ k + a * 2 ^ (w - k)) % 2 ^ w

/-- The reductions of fold over the contributing values (04 R105); none where no lane contributes. -/
def foldInt (op : Nat) (t : Ty) (sat : Bool) (vals : List Int) : Option DWord :=
  match vals with
  | [] => none
  | a :: r =>
    let nat (x : Int) : Nat := (x % 2 ^ t.width).toNat
    let bit (f : Nat → Nat → Nat) : Int := t.wrap ((r.foldl (fun x y => f x (nat y)) (nat a) : Nat) : Int)
    some (t.result sat (match op with
      | 0 => r.foldl (· + ·) a
      | 1 => r.foldl min a
      | 2 => r.foldl max a
      | 3 => bit (· &&& ·)
      | 4 => bit (· ||| ·)
      | _ => bit (· ^^^ ·)))

end Sys2Proof.Machine
end

