-- ==== Sys2Proof/Machine/Encoding.lean ====
section
/-! DEFINITION. Machine/Encoding.lean: which encodings trap ILLEGAL_ENCODING (order 4 of Table 2-13, 02 R68), and the
instruction bit each reports (02 R447). The smallest bit of all broken rules is reported. -/

namespace Sys2Proof

/-- Bits [hi:lo] of the instruction word that lie in format X's OPS field. -/
def FormX.opsAt (f : FormX) (hi lo : Nat) : Nat := bitsOf f.ops.toNat (lo - 75) (hi - lo + 1)
/-- Bits [hi:lo] of the instruction word that lie in format V's OPS field. -/
def FormV.opsAt (f : FormV) (hi lo : Nat) : Nat := bitsOf f.ops.toNat (lo - 84) (hi - lo + 1)
/-- Bits [hi:lo] of format I's OPS field, named as the V twin's (02 R56: I bits [49:38] carry V bits [95:84]). -/
def FormI.opsAt (f : FormI) (hi lo : Nat) : Nat := bitsOf f.ops.toNat (lo - 84) (hi - lo + 1)

/-- TYPE of formats V and I. -/
def FormV.type (f : FormV) : Ty := Ty.ofCode f.ty.toNat
/-- TYPE of format I. -/
def FormI.type (f : FormI) : Ty := Ty.ofCode f.ty.toNat
/-- The source type of two-type instructions, OPS[87:84] (05 R124). -/
def FormV.stype (f : FormV) : Ty := Ty.ofCode (f.opsAt 87 84)

/-- The types "32/64" of Table 4-6. -/
def Ty.is3264 : Ty → Bool
  | .i32 | .n32 | .i64 | .n64 => true
  | _ => false
/-- The types f16, bf16 and f32. -/
def Ty.isF3 : Ty → Bool
  | .f16 | .bf16 | .f32 => true
  | _ => false
/-- The types of sel (04 R113). -/
def Ty.isSel : Ty → Bool
  | .i32 | .n32 | .f32 | .i64 | .n64 | .f64 => true
  | _ => false

end Sys2Proof

namespace Sys2Proof.Machine

/-- The position of the lowest set bit. -/
def lowBit (v : Nat) : Nat := ((List.range 128).find? fun i => v.testBit i).getD 0

/-- A field that must be zero: its lowest set bit (R447). -/
def mustZero (v lo : Nat) : Option Nat := if v = 0 then none else some (lo + lowBit v)

/-- A rule that reports bit `b` when broken. -/
def broken (bad : Bool) (b : Nat) : Option Nat := if bad then some b else none

/-- The smallest bit reported (R447). -/
def smallest : List (Option Nat) → Option Nat
  | [] => none
  | none :: r => smallest r
  | some b :: r => match smallest r with
    | none => some b
    | some c => some (min b c)

/-- What a register field names (02 R51, R60; 01 R30): nothing, a register, a pair, a quad, a base that is a multiple
of 8, a predicate or a ticket. -/
inductive Fld where
  | no | reg | pair | quad | oct | pred | ticket
  deriving DecidableEq, Repr

/-- The fault of a register field with its lowest bit at `lo`. -/
def Fld.fault (k : Fld) (v lo : Nat) : Option Nat :=
  match k with
  | .no => mustZero v lo
  | .reg => none
  | .pair => broken (v % 2 != 0) lo
  | .quad => broken (v % 4 != 0) lo
  | .oct => broken (v % 8 != 0) lo
  | .pred => mustZero (v / 8) (lo + 3)
  | .ticket => mustZero (v / 16) (lo + 4)

/-- A field that can carry a last-use mark: one that names vector registers. -/
def Fld.isVec : Fld → Bool
  | .reg | .pair | .quad | .oct => true
  | _ => false

/-- A pair when `w`, else one register. -/
def Fld.ofWide (w : Bool) : Fld := if w then .pair else .reg

/-- Route byte and fill bit of a source (02 R51, R53; 01 R41): `routed` sources accept modes 0 to 4, and a fill bit only
with a route. -/
def routeFault (routed : Bool) (rt : Byte) (fill : Bool) (rtLo fillBit : Nat) : List (Option Nat) :=
  if routed then
    [broken (rt.toNat / 32 > 4) rtLo, broken (rt.toNat / 32 == 0 && fill) fillBit]
  else [mustZero rt.toNat rtLo, broken fill fillBit]

/-- Unused bits of an immediate (02 R58, Table 2-6): the lowest bit that breaks the form. -/
def immFault (t : Ty) (imm : Word) : Option Nat :=
  match t with
  | .i8 | .i16 =>
    let w := t.width
    let want := if imm.getLsbD (w - 1) then 2 ^ (32 - w) - 1 else 0
    mustZero ((imm.toNat / 2 ^ w) ^^^ want) (64 + w)
  | .n8 | .n16 | .f16 | .bf16 => mustZero (imm.toNat / 2 ^ t.width) (64 + t.width)
  | _ => none

/-- How an instruction of format V uses its fields (02 R51 to R55). `ops` holds the OPS bits it defines; `ty` says that TYPE
holds a code it accepts, `noTy` that it takes no type. -/
structure VUse where
  dst : Fld := .no
  a   : Fld := .no
  ra  : Bool := false
  b   : Fld := .no
  rb  : Bool := false
  c   : Fld := .no
  rc  : Bool := false
  ty  : Bool := true
  noTy : Bool := false
  rnd : Bool := false
  sat : Bool := false
  ops : Nat := 0

/-- TYPE of an instruction that takes no type must be zero, and a reserved code is refused at the field's lowest bit (02 R54,
R447). -/
def noTypeFault (v lo : Nat) : Option Nat := if v ≥ 14 then some lo else mustZero v lo

/-- The faults of a format V instruction's common fields. -/
def vFaults (f : FormV) (u : VUse) : List (Option Nat) :=
  [u.dst.fault f.dst.toNat 14, u.a.fault f.sa.toNat 22, u.b.fault f.sb.toNat 38, u.c.fault f.sc.toNat 54,
   broken (f.lu.getLsbD 0 && !u.a.isVec) 70, broken (f.lu.getLsbD 1 && !u.b.isVec) 71,
   broken (f.lu.getLsbD 2 && !u.c.isVec) 72, if u.noTy then noTypeFault f.ty.toNat 73 else broken (!u.ty) 73,
   if u.rnd then broken (f.rnd.toNat > 4) 77 else if f.rnd.toNat > 4 then some 77 else mustZero f.rnd.toNat 77,
   broken (f.sat && !u.sat) 80, mustZero (f.ops.toNat &&& (0xFFF ^^^ u.ops)) 84]
  ++ routeFault u.ra f.rta (f.fill.getLsbD 0) 30 81
  ++ routeFault u.rb f.rtb (f.fill.getLsbD 1) 46 82
  ++ routeFault u.rc f.rtc (f.fill.getLsbD 2) 62 83

/-- How an instruction of format I uses its fields. `imm` is the type whose form the immediate must have. -/
structure IUse where
  dst : Fld := .no
  a   : Fld := .no
  ra  : Bool := false
  ty  : Bool := true
  noTy : Bool := false
  rnd : Bool := false
  sat : Bool := false
  ops : Nat := 0
  imm : Ty := .none

/-- The faults of a format I instruction's common fields (02 R56, R58). -/
def iFaults (f : FormI) (u : IUse) : List (Option Nat) :=
  [u.dst.fault f.dst.toNat 14, u.a.fault f.sa.toNat 22, mustZero (f.ops.toNat &&& (0xFFFF ^^^ u.ops)) 38,
   broken (f.lu && !u.a.isVec) 54, if u.noTy then noTypeFault f.ty.toNat 55 else broken (!u.ty) 55,
   if u.rnd then broken (f.rnd.toNat > 4) 59 else if f.rnd.toNat > 4 then some 59 else mustZero f.rnd.toNat 59,
   broken (f.sat && !u.sat) 62, immFault u.imm f.imm]
  ++ routeFault u.ra f.rta f.fill 30 63

/-- How an instruction of format X uses its fields (02 R63). -/
structure XUse where
  dst : Fld := .no
  a   : Fld := .no
  b   : Fld := .no
  c   : Fld := .no
  d   : Fld := .no
  e   : Fld := .no
  cnt : Bool := false
  ops : Nat := 0

/-- The faults of a format X instruction's common fields. `ops` is counted from bit 75. -/
def xFaults (f : FormX) (u : XUse) : List (Option Nat) :=
  [u.dst.fault f.dst.toNat 14, u.a.fault f.xa.toNat 22, u.b.fault f.xb.toNat 30, u.c.fault f.xc.toNat 38,
   u.d.fault f.xd.toNat 46, u.e.fault f.xe.toNat 54, if u.cnt then none else mustZero f.cnt.toNat 62,
   broken (f.lu.getLsbD 0 && !u.a.isVec) 70, broken (f.lu.getLsbD 1 && !u.b.isVec) 71,
   broken (f.lu.getLsbD 2 && !u.c.isVec) 72, broken (f.lu.getLsbD 3 && !u.d.isVec) 73,
   broken (f.lu.getLsbD 4 && !u.e.isVec) 74, mustZero (f.ops.toNat &&& (0x1FFFFF ^^^ u.ops)) 75]

/-- OPS bits [hi:lo] of format V as a mask of the field. -/
def vBits (hi lo : Nat) : Nat := (2 ^ (hi - lo + 1) - 1) * 2 ^ (lo - 84)
/-- OPS bits [hi:lo] of format X as a mask of the field. -/
def xBits (hi lo : Nat) : Nat := (2 ^ (hi - lo + 1) - 1) * 2 ^ (lo - 75)

/-- How an instruction of format M uses its fields (02 R59, Table 8-9, Table 16-5): the accepted codes. -/
structure MUse where
  dat    : Bool := false          -- DAT names data registers by WIDTH (R60)
  datPair : Bool := false         -- DAT names a pair (hfloor)
  datOne : Bool := false          -- DAT names one register (waitval)
  ludat  : Bool := false
  adr    : Bool := true
  aux    : Fld := .no
  lux    : Bool := false
  spaces : List Nat := []
  ords   : List Nat := [0]
  scopes : List Nat := [0]
  widths : List Nat := [0]
  sx     : Bool := false          -- SX may be set
  hints  : List Nat := [0]
  atops  : List Nat := [0]
  home   : Bool := false          -- HOME may be set for .gl
  offs   : Bool := true

/-- The fault of a code field that accepts the codes `ok`: a field that accepts only 0 must be zero, any other reports its
lowest bit (R447). A reserved code reports the lowest bit too. -/
def codeFault (ok : List Nat) (v lo reserved : Nat) : Option Nat :=
  if ok.contains v then none
  else if ok == [0] && v < reserved then mustZero v lo else some lo

/-- The faults of a format M instruction's fields. -/
def mFaults (f : FormM) (u : MUse) : List (Option Nat) :=
  let w := f.width.toNat
  let datF : Fld := if u.datPair then .pair else if u.datOne then .reg
    else if u.dat then (if w = 3 then .pair else if w = 4 then .quad else .reg) else .no
  let adrF : Fld := if u.adr then Fld.ofWide (f.space.toNat == 3) else .no
  [datF.fault f.dat.toNat 14, adrF.fault f.adr.toNat 22, broken (f.ludat && !u.ludat) 30,
   broken (f.luadr && !u.adr) 31, codeFault u.spaces f.space.toNat 32 5, codeFault u.scopes f.scope.toNat 35 7,
   codeFault u.ords f.ord.toNat 38 4, codeFault u.widths w 40 5, broken (f.sx && !u.sx) 43,
   codeFault u.hints f.hint.toNat 44 4, broken (f.lux && !u.lux) 47, u.aux.fault f.aux.toNat 48,
   if u.home then broken (1 ≤ f.home.toNat && f.home.toNat ≤ 7) 56
     else if 1 ≤ f.home.toNat && f.home.toNat ≤ 7 then some 56 else mustZero f.home.toNat 56,
   if u.home && f.space.toNat != 3 then mustZero f.home.toNat 56 else none,
   codeFault u.atops f.atop.toNat 60 9, if u.offs then none else mustZero f.offs.toNat 64]

/-- Format B (02 R61). `lnk` says the link pair is used, `lulnk` that it is read, `t` that the target fields are used. -/
def bFaults (f : FormB) (lnk lulnk t : Bool) : List (Option Nat) :=
  [(if lnk then Fld.pair else Fld.no).fault f.lnk.toNat 14, broken (f.lulnk && !lulnk) 28, mustZero f.rsv.toNat 29]
  ++ (if t then [] else [mustZero f.tslot.toNat 22, mustZero f.toff.toNat 64])

/-- Two data sources and a destination of TYPE (04 R109). -/
def v2 (f : FormV) (ty sat rnd : Bool) (ops : Nat := 0) : List (Option Nat) :=
  let k := Fld.ofWide f.type.wide
  vFaults f { dst := k, a := k, ra := true, b := k, rb := true, ty := ty, sat := sat, rnd := rnd, ops := ops }
/-- One data source and a destination of TYPE. -/
def v1 (f : FormV) (ty sat rnd : Bool) : List (Option Nat) :=
  let k := Fld.ofWide f.type.wide
  vFaults f { dst := k, a := k, ra := true, ty := ty, sat := sat, rnd := rnd }
/-- The I twin of a two-source form (02 R57). -/
def i2 (f : FormI) (ty sat rnd : Bool) (ops : Nat := 0) : List (Option Nat) :=
  let k := Fld.ofWide f.type.wide
  iFaults f { dst := k, a := k, ra := true, ty := ty, sat := sat, rnd := rnd, ops := ops, imm := f.type }

/-- A shift, bit-field or selector form with register control (04 R108): the control operand is one register. -/
def vCtl (f : FormV) (ty : Bool) : List (Option Nat) :=
  let k := Fld.ofWide f.type.wide
  vFaults f { dst := k, a := k, ra := true, b := .reg, rb := true, ty := ty }
/-- Its I twin; `strict` forms require IMM[31:16] = 0 (04 R119, R120). -/
def iCtl (f : FormI) (ty strict : Bool) : List (Option Nat) :=
  let k := Fld.ofWide f.type.wide
  iFaults f { dst := k, a := k, ra := true, ty := ty }
  ++ [if strict then mustZero (f.imm.toNat / 2 ^ 16) 80 else none]
/-- popc, clz, ctz (04 R118): one destination register whatever the type. -/
def vCount (f : FormV) : List (Option Nat) :=
  vFaults f { dst := .reg, a := Fld.ofWide f.type.wide, ra := true, ty := f.type.is3264 }

/-- Register sets [a, a+n) and [b, b+m) meet. -/
def meets (a n b m : Nat) : Bool := a < b + m && b < a + n

/-- Registers of a matrix operand A or B (07 Table 7-1): `p` is the plane count less 1. -/
def fragRegs (shape p : Nat) : Nat := if shape = 2 then 4 * (p + 1) else 16

/-- Plane code of an operand, its lowest bit at `lo`: it must be zero but for shape 2 (07 R182, R188), whose codes are 1 to 7: a
rule that relates the code 0 to SHAPE at bit 75 (log 16). -/
def planeCode (shape p lo : Nat) : Option Nat := if shape = 2 then broken (p == 0) 75 else mustZero p lo

/-- mma and mloop (07 R182). `loop` is mloop, whose fragments are written, not read. -/
def mmaFaults (f : FormX) (loop : Bool) : List (Option Nat) :=
  let shape := f.opsAt 76 75; let pa := f.opsAt 79 77; let pb := f.opsAt 82 80; let all := f.opsAt 95 95 == 1
  let d := f.dst.toNat; let na := fragRegs shape pa; let nb := fragRegs shape pb
  xFaults f { dst := .oct, a := .quad, b := .quad, c := if loop then .quad else .oct, d := .quad,
              e := if all then .no else .reg, cnt := loop,
              ops := xBits 95 95 + xBits 82 75 + (if loop then xBits 84 83 else 0) }
  ++ [broken (shape == 3) 75, planeCode shape pa 77, planeCode shape pb 80,
      broken (loop && (f.lu.getLsbD 0)) 70, broken (loop && f.lu.getLsbD 1) 71,
      broken (loop && f.opsAt 84 83 == 3) 83, broken (loop && (f.cnt.toNat < 1 || f.cnt.toNat > 64)) 62,
      broken (!loop && shape != 3 && f.xc.toNat != d && meets d 32 f.xc.toNat 32) 14,
      broken (loop && shape != 3 && meets d 32 f.xc.toNat 4) 14,
      broken (shape != 3 && (meets d 32 f.xa.toNat na || meets d 32 f.xb.toNat nb || meets d 32 f.xd.toNat 4
              || (!all && meets d 32 f.xe.toNat 1))) 14]

/-- Registers of a line image (07 Table 7-7). KIND 2 is .c. -/
def lineRegs (shape kind p : Nat) : Nat := if kind = 2 then 32 else fragRegs shape p

/-- mldf and mstf (07 R182, R188). -/
def mfragFaults (f : FormX) (store : Bool) : List (Option Nat) :=
  let shape := f.opsAt 76 75; let p := f.opsAt 79 77; let kind := f.opsAt 81 80; let all := f.opsAt 95 95 == 1
  let base : Fld := if kind = 2 then .oct else .quad
  let n := lineRegs shape kind p
  xFaults f { dst := if store then .no else base, a := .reg, b := if store then base else .no,
              e := if all then .no else .reg, cnt := true, ops := xBits 95 95 + xBits 84 83 + xBits 81 75 }
  ++ [broken (shape == 3) 75, broken (kind == 3) 80, broken (f.opsAt 84 83 == 3) 83,
      if kind = 2 then mustZero p 77 else planeCode shape p 77,
      if kind = 2 then mustZero f.cnt.toNat 62 else none,
      broken (!store && shape != 3 && kind != 3 && (meets f.dst.toNat n f.xa.toNat 1 || (!all && meets f.dst.toNat n f.xe.toNat 1))) 14]

/-- One operand of mfmt (07 R181): `bp` says it is bit-plane, `fLo` is its format code's lowest bit. Its plane, block-length and
axis fields, with their lowest bits, must be zero where it is not; where it is, its plane code is not 0 (log 16). -/
def mfmtOperand (bp : Bool) (fLo p pLo l lLo x xLo : Nat) : List (Option Nat) :=
  broken (l == 3) lLo :: if bp then [broken (p == 0) fLo] else [mustZero p pLo, mustZero l lLo, mustZero x xLo]

/-- A barrier instruction of class 0xA (09 Table 9-7): space code 3 traps. -/
def abFaults (f : FormX) (dst b : Fld) (ops : Nat := 0) : List (Option Nat) :=
  xFaults f { dst := dst, a := .reg, b := b, ops := xBits 95 94 + ops } ++ [broken (f.opsAt 95 94 == 3) 94]

/-- cpy and cpy2d (09 Table 9-1). -/
def cpyFaults (f : FormX) (two : Bool) : List (Option Nat) :=
  let ds := f.opsAt 95 93; let ss := f.opsAt 92 90; let mode := f.opsAt 89 87
  let q := !two && mode == 3
  xFaults f { dst := .ticket, a := Fld.ofWide (ds == 3), b := Fld.ofWide (ss == 3), c := .reg,
              d := if ds = 3 then .no else .reg, e := if two || q then .pair else .no,
              ops := xBits 95 90 + xBits 86 84 + (if two then 0 else xBits 89 87 + (if q then xBits 83 80 else 0)) }
  ++ [broken (ds > 3) 93, broken (ss > 3) 90, broken (!two && mode > 3) 87,
      broken (f.opsAt 86 86 == 1 && ds != 3) 86, broken (f.opsAt 85 84 == 3) 84,
      if ds = 3 then mustZero (f.opsAt 85 84) 84 else none,
      broken (q && !(Ty.ofCode (f.opsAt 83 80)).isF3) 80]

/-- board and replace (18 Table 18-2). -/
def boardFaults (f : FormX) : List (Option Nat) :=
  xFaults f { dst := .ticket, a := Fld.ofWide (f.opsAt 95 95 == 0), b := .reg, ops := xBits 95 95 }

/-- Numbers, widths and indexing of the special registers (06 Table 6-4): (64-bit, indexed). -/
def srInfo : Nat → Option (Bool × Bool)
  | 0x010 => some (true, true) | 0x011 => some (false, true)
  | 0x018 => some (false, false) | 0x019 => some (true, false) | 0x01A => some (true, false)
  | 0x01B => some (true, false) | 0x020 => some (false, false) | 0x030 => some (false, false)
  | n => if n ≤ 0x00E then some (false, false) else none

/-- sr.ssp and sr.sampctl may be written (06 Table 6-4). -/
def srWritable (n : Nat) : Bool := n == 0x020 || n == 0x030

/-- TYPE is that of the register; with an unknown number it is one of the two there are (06 R161). -/
def srType (n : Nat) (t : Ty) : Bool := match srInfo n with
  | some (w, _) => t == (if w then Ty.n64 else Ty.none)
  | none => t == Ty.n64 || t == Ty.none

/-- sread (06 R161). -/
def sreadFaults (f : FormI) : List (Option Nat) :=
  let n := f.imm.toNat % 4096
  let w := (srInfo n).elim false (·.1); let ix := (srInfo n).elim false (·.2)
  let opsIx := f.ops.toNat % 2 == 1
  iFaults f { dst := Fld.ofWide (w || f.type == .n64), a := if opsIx then .reg else .no, ops := 1,
              ty := srType n f.type }
  ++ [mustZero (f.imm.toNat / 4096) 76, broken (srInfo n).isNone 64, broken ((srInfo n).isSome && opsIx != ix) 38]

/-- swrite (06 R162). A write to a read-only register traps. -/
def swriteFaults (f : FormI) : List (Option Nat) :=
  let n := f.imm.toNat % 4096
  iFaults f { a := Fld.ofWide (f.type == .n64), ty := srType n f.type }
  ++ [mustZero (f.imm.toNat / 4096) 76, broken (!srWritable n) 64]

/-- ORD acquire or release at scope .thr (08 R218, R228; 16 Table 16-5). -/
def thrOrder (f : FormM) : Option Nat := broken (f.ord.toNat != 0 && f.scope.toNat == 0) 35

/-- SX must be zero at widths of 32 bits and more (08 R218). -/
def sxWidth (f : FormM) : Option Nat := broken (f.sx && f.width.toNat ≥ 2) 43

/-- Spill accesses need ORD 0 and SCOPE 0 (08 R202). -/
def spillOrder (f : FormM) : List (Option Nat) :=
  if f.space.toNat = 4 then [mustZero f.scope.toNat 35, mustZero f.ord.toNat 38] else []

/-- SX of atom and red: set for a signed .min or .max only (08 R223). -/
def sxAtop (f : FormM) : Option Nat := broken (f.sx && !(f.atop.toNat == 2 || f.atop.toNat == 3)) 43

/-- fold (04 R105): op codes 6 and 7 trap, and SAT goes with .add only. -/
def collMask (f : FormV) : VUse → VUse := fun u =>
  { u with c := if f.opsAt 95 95 = 1 then .no else .reg, ops := u.ops + vBits 95 95 }

/-- Every rule of an instruction's encoding, each with the bit it reports when broken. -/
def encodingFaults : Instr → List (Option Nat)
  | .nop f => vFaults f { noTy := true }
  | .bra f => bFaults f false false true
  | .brx f => bFaults f true true false
  | .call f => bFaults f true false true
  | .ret f => bFaults f true true false
  | .exit_ f => vFaults f { noTy := true }
  | .yield f => vFaults f { noTy := true }
  | .sleep f => iFaults f { noTy := true } ++ [mustZero (f.imm.toNat / 2 ^ 24) 88]
  | .trap f => iFaults f { noTy := true }
  | .poll f => vFaults f (collMask f
      { dst := if f.opsAt 85 84 = 2 then .reg else .pred, a := .pred, noTy := true, ops := vBits 86 84 })
  | .fold f => vFaults f (collMask f
      { dst := .reg, a := .reg, ra := true, ty := f.type == .i32 || f.type == .n32, sat := true, ops := vBits 86 84 })
      ++ [broken (f.opsAt 86 84 > 5) 84, broken (f.sat && f.opsAt 86 84 != 0) 80]
  | .peer f => vFaults f (collMask f
      { dst := .reg, a := Fld.ofWide (f.type == .n64), ra := true, ty := f.type == .n32 || f.type == .n64,
        ops := vBits 84 84 })
  | .pcomb f => vFaults f { dst := .pred, a := .pred, b := .pred, c := .pred, noTy := true, ops := vBits 91 84 }
  | .iadd f | .isub f | .imul f | .idiv f => v2 f f.type.isInt true false
  | .iaddI f | .isubI f | .imulI f | .idivI f => i2 f f.type.isInt true false
  | .imulh f | .irem f | .imin f | .imax f => v2 f f.type.isInt false false
  | .imulhI f | .iremI f | .iminI f | .imaxI f => i2 f f.type.isInt false false
  | .imad f => let k := Fld.ofWide f.type.wide
      vFaults f { dst := k, a := k, ra := true, b := k, rb := true, c := k, rc := true, ty := f.type.isInt, sat := true }
  | .imadw f => vFaults f { dst := .pair, a := .reg, ra := true, b := .reg, rb := true, c := .pair, rc := true,
                            ty := f.type == .i32 || f.type == .n32, sat := true }
  | .iabs f => v1 f f.type.signed true false
  | .ineg f => v1 f f.type.isInt true false
  | .icmp f => let k := Fld.ofWide f.type.wide
      vFaults f { dst := .pred, a := k, ra := true, b := k, rb := true, ty := f.type.isInt, ops := vBits 86 84 }
      ++ [broken (f.opsAt 86 84 > 5) 84]
  | .icmpI f => iFaults f { dst := .pred, a := Fld.ofWide f.type.wide, ra := true, ty := f.type.isInt,
                            ops := vBits 86 84, imm := f.type } ++ [broken (f.opsAt 86 84 > 5) 38]
  | .sel f => v2 f f.type.isSel false false (vBits 87 84)
  | .selI f => i2 f f.type.isSel false false (vBits 87 84)
  | .mov f => v1 f (f.type == .none || f.type == .i64 || f.type == .n64 || f.type == .f64) false false
  | .movi f => iFaults f { dst := Fld.ofWide f.type.wide, ty := f.type != .bp && f.type != .reserved, imm := f.type }
  | .lea f => iFaults f { dst := .pair, a := if f.ops.toNat % 2 = 1 then .reg else .no, ra := f.ops.toNat % 2 == 1,
                          noTy := true, ops := 1 }
  | .and_ f | .or_ f | .xor_ f | .andn f | .orn f => v2 f f.type.is3264 false false
  | .andI f | .orI f | .xorI f | .andnI f | .ornI f => i2 f f.type.is3264 false false
  | .shl f | .shr f | .sar f | .rol f | .ror f | .bfe f | .bfi f => vCtl f f.type.is3264
  | .shlI f | .shrI f | .sarI f | .rolI f | .rorI f => iCtl f f.type.is3264 false
  | .bfeI f | .bfiI f => iCtl f f.type.is3264 true
  | .popc f | .clz f | .ctz f => vCount f
  | .brev f => v1 f f.type.is3264 false false
  | .prmb f => vFaults f { dst := .reg, a := .reg, ra := true, b := .reg, rb := true, noTy := true }
  | .prmbI f => iFaults f { dst := .reg, a := .reg, ra := true, noTy := true } ++ [mustZero (f.imm.toNat / 2 ^ 16) 80]
  | .fadd f | .fsub f | .fmul f | .fdiv f => v2 f f.type.isFloat false true
  | .faddI f | .fsubI f | .fmulI f => i2 f f.type.isFloat false true
  | .ffma f => let k := Fld.ofWide f.type.wide
      vFaults f { dst := k, a := k, ra := true, b := k, rb := true, c := k, rc := true, ty := f.type.isFloat, rnd := true }
  | .fmin f | .fmax f | .fminn f | .fmaxn f => v2 f f.type.isFloat false false
  | .fminI f | .fmaxI f | .fminnI f | .fmaxnI f => i2 f f.type.isFloat false false
  | .fabs f | .fneg f | .frcp f | .frsq f => v1 f f.type.isFloat false false
  | .fcmp f => let k := Fld.ofWide f.type.wide
      vFaults f { dst := .pred, a := k, ra := true, b := k, rb := true, ty := f.type.isFloat, ops := vBits 87 84 }
      ++ [broken (f.opsAt 87 84 > 13) 84]
  | .fcmpI f => iFaults f { dst := .pred, a := Fld.ofWide f.type.wide, ra := true, ty := f.type.isFloat,
                            ops := vBits 87 84, imm := f.type } ++ [broken (f.opsAt 87 84 > 13) 38]
  | .fclass f => vFaults f { dst := .reg, a := Fld.ofWide f.type.wide, ra := true, ty := f.type.isFloat }
  | .fcvt f =>
      vFaults f { dst := Fld.ofWide f.type.wide, a := Fld.ofWide f.stype.wide, ra := true, ty := f.type.isFloat,
                  rnd := true, sat := true, ops := vBits 90 84 }
      ++ [broken (!f.stype.isFloat) 84, broken (f.stype == f.type) 73, broken (f.opsAt 89 88 == 3) 88,
          broken ((f.opsAt 89 88 == 1 || f.opsAt 89 88 == 2) && f.type.width != 16) 73,
          broken (f.opsAt 90 90 == 1 && f.stype.width != 16) 84]
  | .icvt f =>
      vFaults f { dst := Fld.ofWide f.type.wide, a := Fld.ofWide f.stype.wide, ra := true,
                  ty := f.type.isFloat || f.type.isInt, rnd := true, sat := true, ops := vBits 87 84 }
      ++ [broken (!f.stype.isInt) 84, broken (f.type.isFloat && f.sat) 80,
          if f.type.isInt then mustZero f.rnd.toNat 77 else none]
  | .fcvti f =>
      vFaults f { dst := Fld.ofWide f.type.wide, a := Fld.ofWide f.stype.wide, ra := true, ty := f.type.isInt,
                  rnd := true, sat := true, ops := vBits 87 84 } ++ [broken (!f.stype.isFloat) 84]
  | .fsqrt f => v1 f f.type.isFloat false true
  | .fex2 f | .flg2 f | .fsin f | .fcos f | .ftanh f => v1 f f.type.isF3 false false
  | .quant f => let xe := f.opsAt 90 90 == 1; let l := f.opsAt 89 88
      vFaults f { dst := .oct, a := .reg, b := if xe || l == 2 then .reg else .no, ty := f.type == .bp, ops := vBits 90 84 }
      ++ [broken (!f.stype.isF3) 84, broken (l == 3) 88, broken (xe && l != 0) 88]
  | .deq f =>
      vFaults f { dst := Fld.ofWide f.type.wide, a := .oct, b := .reg, ty := f.type.isFloat, rnd := true, ops := vBits 93 84 }
      ++ [broken (f.stype != .bp) 84, broken (f.opsAt 89 88 == 3) 88, broken (f.opsAt 90 90 == 1 && f.opsAt 89 88 != 0) 88,
          broken (f.opsAt 93 91 == 0) 91]
  | .plsplit f => vFaults f { dst := .oct, a := .reg, ty := f.type == .bp, ops := vBits 87 84 } ++ [broken (f.stype != .i8) 84]
  | .pljoin f => vFaults f { dst := .reg, a := .oct, ty := f.type == .i8, ops := vBits 93 91 + vBits 87 84 }
      ++ [broken (f.stype != .bp) 84, broken (f.opsAt 93 91 == 0) 91]
  | .mma f => mmaFaults f false
  | .mloop f => mmaFaults f true
  | .mldf f => mfragFaults f false
  | .mstf f => mfragFaults f true
  | .mfmt f =>
      xFaults f { dst := .quad, a := .reg, b := .reg, c := .reg, d := .reg, cnt := true, ops := xBits 90 75 }
      ++ [broken (f.cnt.toNat > 128) 62]
      ++ mfmtOperand (f.opsAt 78 77 == 3) 77 (f.opsAt 81 79) 79 (f.opsAt 86 85) 85 (f.opsAt 89 89) 89
      ++ mfmtOperand (f.opsAt 76 75 == 3) 75 (f.opsAt 84 82) 82 (f.opsAt 88 87) 87 (f.opsAt 90 90) 90
  | .ld f => mFaults f { dat := true, spaces := [0, 1, 2, 3, 4], ords := [0, 1], scopes := [0, 1, 2, 3, 4, 5, 6],
                         widths := [0, 1, 2, 3, 4], sx := true, hints := [0, 1, 2, 3], home := true }
      ++ thrOrder f :: sxWidth f :: spillOrder f
  | .st f => mFaults f { dat := true, ludat := true, spaces := [0, 1, 2, 3, 4], ords := [0, 2],
                         scopes := [0, 1, 2, 3, 4, 5, 6], widths := [0, 1, 2, 3, 4], hints := [0, 1, 2, 3], home := true }
      ++ thrOrder f :: spillOrder f
  | .prefetch f => mFaults f { spaces := [2, 3], hints := [0, 1, 2, 3], home := true }
  | .cctl f => mFaults f { spaces := [3], hints := [1, 2, 3] }
  | .atom f => mFaults f { dat := true, aux := if f.atop = 8 then Fld.ofWide (f.width == 3) else .no, lux := f.atop == 8,
                           spaces := [0, 1, 2, 3], ords := [0, 1, 2, 3], scopes := [0, 1, 2, 3, 4, 5, 6], widths := [2, 3],
                           sx := true, atops := [1, 2, 3, 4, 5, 6, 7, 8], home := true }
      ++ [sxAtop f]
  | .atomf f => mFaults f { dat := true, spaces := [0, 1, 2, 3], ords := [0, 1, 2, 3], scopes := [0, 1, 2, 3, 4, 5, 6],
                            widths := [1, 2, 3], sx := true, atops := [1, 2, 3], home := true } ++ [sxWidth f]
  | .red f => mFaults f { dat := true, ludat := true, spaces := [0, 1, 2, 3], ords := [0, 2], scopes := [0, 1, 2, 3, 4, 5, 6],
                          widths := [2, 3], sx := true, atops := [1, 2, 3, 4, 5, 6], home := true } ++ [sxAtop f]
  | .fence f => mFaults f { adr := false, spaces := [0], ords := [1, 2, 3], scopes := [1, 2, 3, 4, 5, 6], offs := false }
  | .waitval f => mFaults f { datOne := true, aux := .pair, lux := true, spaces := [0, 1, 2, 3], ords := [0, 1],
                              scopes := [0, 1, 2, 3, 4, 5, 6], widths := [2], home := true } ++ [thrOrder f]
  | .cpy f => cpyFaults f false
  | .cpy2d f => cpyFaults f true
  | .publish f => xFaults f { dst := .pair, ops := xBits 90 75 } ++ [broken (f.opsAt 90 75 == 0) 75]
  | .abinit f | .abexp f => abFaults f .no .reg
  | .abarv f => abFaults f .no (if f.opsAt 93 93 = 1 then .reg else .no) (xBits 93 93)
  | .abwait f => abFaults f .no .reg
  | .abtest f => abFaults f .pred .reg
  | .tkwait f | .tkcancel f => xFaults f { dst := .ticket }
  | .tktest f => xFaults f { dst := .reg, a := .ticket }
  | .tkget f => xFaults f { dst := .pair, a := .ticket }
  | .tkset f => xFaults f { dst := .ticket, a := .pair }
  | .board f | .replace f => boardFaults f
  | .alight f => xFaults f { dst := .ticket, b := .reg }
  | .catchTile f => xFaults f { dst := .ticket, a := .reg, b := .reg, c := .reg, d := if f.opsAt 91 91 = 1 then .pair else .no,
                                ops := xBits 95 91 }
      ++ [broken (f.opsAt 95 94 == 3) 94, broken (f.opsAt 93 92 == 3) 92]
  | .lineq f => xFaults f { dst := .quad, b := .reg }
  | .bar f => vFaults f { noTy := true, ops := vBits 86 84 }
  | .barc f | .bard f | .pbar f => vFaults f { dst := .pred, noTy := true, ops := vBits 86 84 }
  | .launch f => xFaults f { dst := .ticket, a := .pair }
  | .trigger f | .step_ f => vFaults f { noTy := true }
  | .waitdep f => vFaults f { dst := .pred, noTy := true }
  | .segq f => xFaults f { dst := .reg, a := if f.opsAt 75 75 = 1 then .no else .reg, ops := xBits 75 75 }
  | .ldAsof f => mFaults f { dat := true, aux := .pair, lux := true, spaces := [3], widths := [0, 1, 2, 3, 4], sx := true,
                             home := true } ++ [sxWidth f]
  | .stStamp f => mFaults f { dat := true, ludat := true, aux := .pair, spaces := [3], ords := [0, 2],
                              scopes := [0, 1, 2, 3, 4, 5, 6], widths := [0, 1, 2, 3, 4], hints := [0, 1, 2, 3], home := true }
      ++ [thrOrder f]
  | .stamp f | .hnow f => vFaults f { dst := .pair, noTy := true }
  | .hfloor f => mFaults f { datPair := true, spaces := [3], widths := [3], home := true }
  | .htrim f => xFaults f { dst := .pair, a := .pair }
  | .sread f => sreadFaults f
  | .swrite f => swriteFaults f
  | .tret f => vFaults f { noTy := true, ops := vBits 84 84 }
      ++ [broken (f.pred != 0) (10 + lowBit f.pred.toNat), broken f.pneg 13]
  | .bkpt f => vFaults f { noTy := true, ops := vBits 95 84 }
  | _ => []

/-- The bit ILLEGAL_ENCODING reports for an instruction, or none for a legal encoding (02 R68 order 4, R447). -/
def encodingFault (i : Instr) : Option Nat := smallest (encodingFaults i)

end Sys2Proof.Machine
end

