-- ==== Sys2Proof/WellFormed.lean ====
section
/-! DEFINITION. WellFormed.lean: an instruction is well formed when its encoding breaks no rule of order 4 of Table 2-13
(02 R68). The steps that are no instruction of the word are always well formed. -/

namespace Sys2Proof

/-- No rule of the encoding is broken. -/
def Instr.wellFormed (i : Instr) : Bool := (Machine.encodingFault i).isNone

end Sys2Proof
end

