-- ==== Sys2Proof/Decode.lean ====
section
/-! DEFINITION. Decode.lean: the decoder of the 96-bit word, total, rejecting by name (02 R50 to R64, R68), and the encoder.
An instruction word is the 96-bit value of 02 R45; spec/opcode_table.json gives its rows no bits. -/

namespace Sys2Proof

/-- Bits [lo+n-1:lo] of an instruction word. -/
def fieldOf (w : Slot96) (lo n : Nat) : BitVec n := w.extractLsb' lo n

/-- Table 2-2. -/
def FormV.ofWord (w : Slot96) : FormV where
  pred := fieldOf w 10 3
  pneg := w.getLsbD 13
  dst := fieldOf w 14 8
  sa := fieldOf w 22 8
  rta := fieldOf w 30 8
  sb := fieldOf w 38 8
  rtb := fieldOf w 46 8
  sc := fieldOf w 54 8
  rtc := fieldOf w 62 8
  lu := fieldOf w 70 3
  ty := fieldOf w 73 4
  rnd := fieldOf w 77 3
  sat := w.getLsbD 80
  fill := fieldOf w 81 3
  ops := fieldOf w 84 12

/-- Table 2-5. -/
def FormI.ofWord (w : Slot96) : FormI where
  pred := fieldOf w 10 3
  pneg := w.getLsbD 13
  dst := fieldOf w 14 8
  sa := fieldOf w 22 8
  rta := fieldOf w 30 8
  ops := fieldOf w 38 16
  lu := w.getLsbD 54
  ty := fieldOf w 55 4
  rnd := fieldOf w 59 3
  sat := w.getLsbD 62
  fill := w.getLsbD 63
  imm := fieldOf w 64 32

/-- Table 2-7. -/
def FormM.ofWord (w : Slot96) : FormM where
  pred := fieldOf w 10 3
  pneg := w.getLsbD 13
  dat := fieldOf w 14 8
  adr := fieldOf w 22 8
  ludat := w.getLsbD 30
  luadr := w.getLsbD 31
  space := fieldOf w 32 3
  scope := fieldOf w 35 3
  ord := fieldOf w 38 2
  width := fieldOf w 40 3
  sx := w.getLsbD 43
  hint := fieldOf w 44 3
  lux := w.getLsbD 47
  aux := fieldOf w 48 8
  home := fieldOf w 56 4
  atop := fieldOf w 60 4
  offs := fieldOf w 64 32

/-- Table 2-9. -/
def FormB.ofWord (w : Slot96) : FormB where
  pred := fieldOf w 10 3
  pneg := w.getLsbD 13
  lnk := fieldOf w 14 8
  tslot := fieldOf w 22 3
  jslot := fieldOf w 25 3
  lulnk := w.getLsbD 28
  rsv := fieldOf w 29 3
  joff := fieldOf w 32 32
  toff := fieldOf w 64 32

/-- Table 2-10. -/
def FormX.ofWord (w : Slot96) : FormX where
  pred := fieldOf w 10 3
  pneg := w.getLsbD 13
  dst := fieldOf w 14 8
  xa := fieldOf w 22 8
  xb := fieldOf w 30 8
  xc := fieldOf w 38 8
  xd := fieldOf w 46 8
  xe := fieldOf w 54 8
  cnt := fieldOf w 62 8
  lu := fieldOf w 70 5
  ops := fieldOf w 75 21

/-- Table 2-11: the instruction with an opcode, its fields taken from the word; none where the table lists no op. -/
def ofOpcode (op : Nat) (w : Slot96) : Option Instr :=
  match op with
  | 0x000 => some (.nop (.ofWord w))
  | 0x001 => some (.bra (.ofWord w))
  | 0x002 => some (.brx (.ofWord w))
  | 0x003 => some (.call (.ofWord w))
  | 0x004 => some (.ret (.ofWord w))
  | 0x005 => some (.exit_ (.ofWord w))
  | 0x006 => some (.yield (.ofWord w))
  | 0x007 => some (.sleep (.ofWord w))
  | 0x008 => some (.trap (.ofWord w))
  | 0x040 => some (.poll (.ofWord w))
  | 0x041 => some (.fold (.ofWord w))
  | 0x042 => some (.peer (.ofWord w))
  | 0x043 => some (.pcomb (.ofWord w))
  | 0x080 => some (.iadd (.ofWord w))
  | 0x0A0 => some (.iaddI (.ofWord w))
  | 0x081 => some (.isub (.ofWord w))
  | 0x0A1 => some (.isubI (.ofWord w))
  | 0x082 => some (.imul (.ofWord w))
  | 0x0A2 => some (.imulI (.ofWord w))
  | 0x083 => some (.imulh (.ofWord w))
  | 0x0A3 => some (.imulhI (.ofWord w))
  | 0x084 => some (.imad (.ofWord w))
  | 0x085 => some (.imadw (.ofWord w))
  | 0x086 => some (.idiv (.ofWord w))
  | 0x0A6 => some (.idivI (.ofWord w))
  | 0x087 => some (.irem (.ofWord w))
  | 0x0A7 => some (.iremI (.ofWord w))
  | 0x088 => some (.imin (.ofWord w))
  | 0x0A8 => some (.iminI (.ofWord w))
  | 0x089 => some (.imax (.ofWord w))
  | 0x0A9 => some (.imaxI (.ofWord w))
  | 0x08A => some (.iabs (.ofWord w))
  | 0x08B => some (.ineg (.ofWord w))
  | 0x08C => some (.icmp (.ofWord w))
  | 0x0AC => some (.icmpI (.ofWord w))
  | 0x08D => some (.sel (.ofWord w))
  | 0x0AD => some (.selI (.ofWord w))
  | 0x08E => some (.mov (.ofWord w))
  | 0x0AE => some (.movi (.ofWord w))
  | 0x0AF => some (.lea (.ofWord w))
  | 0x0C0 => some (.and_ (.ofWord w))
  | 0x0E0 => some (.andI (.ofWord w))
  | 0x0C1 => some (.or_ (.ofWord w))
  | 0x0E1 => some (.orI (.ofWord w))
  | 0x0C2 => some (.xor_ (.ofWord w))
  | 0x0E2 => some (.xorI (.ofWord w))
  | 0x0C3 => some (.andn (.ofWord w))
  | 0x0E3 => some (.andnI (.ofWord w))
  | 0x0C4 => some (.orn (.ofWord w))
  | 0x0E4 => some (.ornI (.ofWord w))
  | 0x0C5 => some (.shl (.ofWord w))
  | 0x0E5 => some (.shlI (.ofWord w))
  | 0x0C6 => some (.shr (.ofWord w))
  | 0x0E6 => some (.shrI (.ofWord w))
  | 0x0C7 => some (.sar (.ofWord w))
  | 0x0E7 => some (.sarI (.ofWord w))
  | 0x0C8 => some (.rol (.ofWord w))
  | 0x0E8 => some (.rolI (.ofWord w))
  | 0x0C9 => some (.ror (.ofWord w))
  | 0x0E9 => some (.rorI (.ofWord w))
  | 0x0CA => some (.popc (.ofWord w))
  | 0x0CB => some (.clz (.ofWord w))
  | 0x0CC => some (.ctz (.ofWord w))
  | 0x0CD => some (.brev (.ofWord w))
  | 0x0CE => some (.bfe (.ofWord w))
  | 0x0EE => some (.bfeI (.ofWord w))
  | 0x0CF => some (.bfi (.ofWord w))
  | 0x0EF => some (.bfiI (.ofWord w))
  | 0x0D0 => some (.prmb (.ofWord w))
  | 0x0F0 => some (.prmbI (.ofWord w))
  | 0x100 => some (.fadd (.ofWord w))
  | 0x120 => some (.faddI (.ofWord w))
  | 0x101 => some (.fsub (.ofWord w))
  | 0x121 => some (.fsubI (.ofWord w))
  | 0x102 => some (.fmul (.ofWord w))
  | 0x122 => some (.fmulI (.ofWord w))
  | 0x103 => some (.ffma (.ofWord w))
  | 0x104 => some (.fmin (.ofWord w))
  | 0x124 => some (.fminI (.ofWord w))
  | 0x105 => some (.fmax (.ofWord w))
  | 0x125 => some (.fmaxI (.ofWord w))
  | 0x106 => some (.fminn (.ofWord w))
  | 0x126 => some (.fminnI (.ofWord w))
  | 0x107 => some (.fmaxn (.ofWord w))
  | 0x127 => some (.fmaxnI (.ofWord w))
  | 0x108 => some (.fabs (.ofWord w))
  | 0x109 => some (.fneg (.ofWord w))
  | 0x10A => some (.fcmp (.ofWord w))
  | 0x12A => some (.fcmpI (.ofWord w))
  | 0x10B => some (.fclass (.ofWord w))
  | 0x140 => some (.fcvt (.ofWord w))
  | 0x141 => some (.icvt (.ofWord w))
  | 0x142 => some (.fcvti (.ofWord w))
  | 0x143 => some (.frcp (.ofWord w))
  | 0x144 => some (.frsq (.ofWord w))
  | 0x145 => some (.fsqrt (.ofWord w))
  | 0x146 => some (.fdiv (.ofWord w))
  | 0x147 => some (.fex2 (.ofWord w))
  | 0x148 => some (.flg2 (.ofWord w))
  | 0x149 => some (.fsin (.ofWord w))
  | 0x14A => some (.fcos (.ofWord w))
  | 0x14B => some (.ftanh (.ofWord w))
  | 0x180 => some (.quant (.ofWord w))
  | 0x181 => some (.deq (.ofWord w))
  | 0x182 => some (.plsplit (.ofWord w))
  | 0x183 => some (.pljoin (.ofWord w))
  | 0x1C0 => some (.mma (.ofWord w))
  | 0x1C1 => some (.mloop (.ofWord w))
  | 0x1C2 => some (.mldf (.ofWord w))
  | 0x1C3 => some (.mstf (.ofWord w))
  | 0x1C4 => some (.mfmt (.ofWord w))
  | 0x200 => some (.ld (.ofWord w))
  | 0x201 => some (.st (.ofWord w))
  | 0x202 => some (.prefetch (.ofWord w))
  | 0x203 => some (.cctl (.ofWord w))
  | 0x240 => some (.atom (.ofWord w))
  | 0x241 => some (.atomf (.ofWord w))
  | 0x242 => some (.red (.ofWord w))
  | 0x243 => some (.fence (.ofWord w))
  | 0x244 => some (.waitval (.ofWord w))
  | 0x280 => some (.cpy (.ofWord w))
  | 0x281 => some (.cpy2d (.ofWord w))
  | 0x282 => some (.publish (.ofWord w))
  | 0x283 => some (.abinit (.ofWord w))
  | 0x284 => some (.abexp (.ofWord w))
  | 0x285 => some (.abarv (.ofWord w))
  | 0x286 => some (.abwait (.ofWord w))
  | 0x287 => some (.abtest (.ofWord w))
  | 0x288 => some (.tkwait (.ofWord w))
  | 0x289 => some (.tktest (.ofWord w))
  | 0x28A => some (.tkcancel (.ofWord w))
  | 0x28B => some (.tkget (.ofWord w))
  | 0x28C => some (.tkset (.ofWord w))
  | 0x2C0 => some (.board (.ofWord w))
  | 0x2C1 => some (.alight (.ofWord w))
  | 0x2C2 => some (.catchTile (.ofWord w))
  | 0x2C3 => some (.replace (.ofWord w))
  | 0x2C4 => some (.lineq (.ofWord w))
  | 0x300 => some (.bar (.ofWord w))
  | 0x301 => some (.barc (.ofWord w))
  | 0x302 => some (.bard (.ofWord w))
  | 0x303 => some (.pbar (.ofWord w))
  | 0x304 => some (.launch (.ofWord w))
  | 0x305 => some (.trigger (.ofWord w))
  | 0x306 => some (.waitdep (.ofWord w))
  | 0x307 => some (.step_ (.ofWord w))
  | 0x308 => some (.segq (.ofWord w))
  | 0x340 => some (.ldAsof (.ofWord w))
  | 0x341 => some (.stStamp (.ofWord w))
  | 0x342 => some (.stamp (.ofWord w))
  | 0x343 => some (.hnow (.ofWord w))
  | 0x344 => some (.hfloor (.ofWord w))
  | 0x345 => some (.htrim (.ofWord w))
  | 0x380 => some (.sread (.ofWord w))
  | 0x381 => some (.swrite (.ofWord w))
  | 0x382 => some (.tret (.ofWord w))
  | 0x383 => some (.bkpt (.ofWord w))
  | _ => none

/-- The instruction a word holds, whether or not its encoding is legal; none is ILLEGAL_OPCODE (02 R64). -/
def readWord (w : Slot96) : Option Instr := ofOpcode (w.toNat % 1024) w

/-- What decoding gives: an instruction, or the cause's name. -/
inductive Decoded where
  | ok (i : Instr)
  | illegalOpcode
  | illegalEncoding (bit : Nat)
  deriving DecidableEq, Repr

/-- Orders 3 and 4 of Table 2-13. -/
def decode (w : Slot96) : Decoded :=
  match readWord w with
  | none => .illegalOpcode
  | some i => match Machine.encodingFault i with
    | some b => .illegalEncoding b
    | none => .ok i

/-- One bit. -/
abbrev bit1 (b : Bool) : BitVec 1 := BitVec.ofBool b

/-- Table 2-2, bits [95:10]. -/
def FormV.toBits (f : FormV) : BitVec 86 :=
  f.ops ++ f.fill ++ bit1 f.sat ++ f.rnd ++ f.ty ++ f.lu ++ f.rtc ++ f.sc ++ f.rtb ++ f.sb ++ f.rta ++ f.sa ++ f.dst
    ++ bit1 f.pneg ++ f.pred
/-- Table 2-5, bits [95:10]. -/
def FormI.toBits (f : FormI) : BitVec 86 :=
  f.imm ++ bit1 f.fill ++ bit1 f.sat ++ f.rnd ++ f.ty ++ bit1 f.lu ++ f.ops ++ f.rta ++ f.sa ++ f.dst ++ bit1 f.pneg ++ f.pred
/-- Table 2-7, bits [95:10]. -/
def FormM.toBits (f : FormM) : BitVec 86 :=
  f.offs ++ f.atop ++ f.home ++ f.aux ++ bit1 f.lux ++ f.hint ++ bit1 f.sx ++ f.width ++ f.ord ++ f.scope ++ f.space
    ++ bit1 f.luadr ++ bit1 f.ludat ++ f.adr ++ f.dat ++ bit1 f.pneg ++ f.pred
/-- Table 2-9, bits [95:10]. -/
def FormB.toBits (f : FormB) : BitVec 86 :=
  f.toff ++ f.joff ++ f.rsv ++ bit1 f.lulnk ++ f.jslot ++ f.tslot ++ f.lnk ++ bit1 f.pneg ++ f.pred
/-- Table 2-10, bits [95:10]. -/
def FormX.toBits (f : FormX) : BitVec 86 :=
  f.ops ++ f.lu ++ f.cnt ++ f.xe ++ f.xd ++ f.xc ++ f.xb ++ f.xa ++ f.dst ++ bit1 f.pneg ++ f.pred

/-- The operand bits [95:10] of an instruction; zero for a step that is no instruction of the word. -/
def Instr.operandBits : Instr → BitVec 86
  | .nop f => f.toBits
  | .bra f => f.toBits
  | .brx f => f.toBits
  | .call f => f.toBits
  | .ret f => f.toBits
  | .exit_ f => f.toBits
  | .yield f => f.toBits
  | .sleep f => f.toBits
  | .trap f => f.toBits
  | .poll f => f.toBits
  | .fold f => f.toBits
  | .peer f => f.toBits
  | .pcomb f => f.toBits
  | .iadd f => f.toBits
  | .iaddI f => f.toBits
  | .isub f => f.toBits
  | .isubI f => f.toBits
  | .imul f => f.toBits
  | .imulI f => f.toBits
  | .imulh f => f.toBits
  | .imulhI f => f.toBits
  | .imad f => f.toBits
  | .imadw f => f.toBits
  | .idiv f => f.toBits
  | .idivI f => f.toBits
  | .irem f => f.toBits
  | .iremI f => f.toBits
  | .imin f => f.toBits
  | .iminI f => f.toBits
  | .imax f => f.toBits
  | .imaxI f => f.toBits
  | .iabs f => f.toBits
  | .ineg f => f.toBits
  | .icmp f => f.toBits
  | .icmpI f => f.toBits
  | .sel f => f.toBits
  | .selI f => f.toBits
  | .mov f => f.toBits
  | .movi f => f.toBits
  | .lea f => f.toBits
  | .and_ f => f.toBits
  | .andI f => f.toBits
  | .or_ f => f.toBits
  | .orI f => f.toBits
  | .xor_ f => f.toBits
  | .xorI f => f.toBits
  | .andn f => f.toBits
  | .andnI f => f.toBits
  | .orn f => f.toBits
  | .ornI f => f.toBits
  | .shl f => f.toBits
  | .shlI f => f.toBits
  | .shr f => f.toBits
  | .shrI f => f.toBits
  | .sar f => f.toBits
  | .sarI f => f.toBits
  | .rol f => f.toBits
  | .rolI f => f.toBits
  | .ror f => f.toBits
  | .rorI f => f.toBits
  | .popc f => f.toBits
  | .clz f => f.toBits
  | .ctz f => f.toBits
  | .brev f => f.toBits
  | .bfe f => f.toBits
  | .bfeI f => f.toBits
  | .bfi f => f.toBits
  | .bfiI f => f.toBits
  | .prmb f => f.toBits
  | .prmbI f => f.toBits
  | .fadd f => f.toBits
  | .faddI f => f.toBits
  | .fsub f => f.toBits
  | .fsubI f => f.toBits
  | .fmul f => f.toBits
  | .fmulI f => f.toBits
  | .ffma f => f.toBits
  | .fmin f => f.toBits
  | .fminI f => f.toBits
  | .fmax f => f.toBits
  | .fmaxI f => f.toBits
  | .fminn f => f.toBits
  | .fminnI f => f.toBits
  | .fmaxn f => f.toBits
  | .fmaxnI f => f.toBits
  | .fabs f => f.toBits
  | .fneg f => f.toBits
  | .fcmp f => f.toBits
  | .fcmpI f => f.toBits
  | .fclass f => f.toBits
  | .fcvt f => f.toBits
  | .icvt f => f.toBits
  | .fcvti f => f.toBits
  | .frcp f => f.toBits
  | .frsq f => f.toBits
  | .fsqrt f => f.toBits
  | .fdiv f => f.toBits
  | .fex2 f => f.toBits
  | .flg2 f => f.toBits
  | .fsin f => f.toBits
  | .fcos f => f.toBits
  | .ftanh f => f.toBits
  | .quant f => f.toBits
  | .deq f => f.toBits
  | .plsplit f => f.toBits
  | .pljoin f => f.toBits
  | .mma f => f.toBits
  | .mloop f => f.toBits
  | .mldf f => f.toBits
  | .mstf f => f.toBits
  | .mfmt f => f.toBits
  | .ld f => f.toBits
  | .st f => f.toBits
  | .prefetch f => f.toBits
  | .cctl f => f.toBits
  | .atom f => f.toBits
  | .atomf f => f.toBits
  | .red f => f.toBits
  | .fence f => f.toBits
  | .waitval f => f.toBits
  | .cpy f => f.toBits
  | .cpy2d f => f.toBits
  | .publish f => f.toBits
  | .abinit f => f.toBits
  | .abexp f => f.toBits
  | .abarv f => f.toBits
  | .abwait f => f.toBits
  | .abtest f => f.toBits
  | .tkwait f => f.toBits
  | .tktest f => f.toBits
  | .tkcancel f => f.toBits
  | .tkget f => f.toBits
  | .tkset f => f.toBits
  | .board f => f.toBits
  | .alight f => f.toBits
  | .catchTile f => f.toBits
  | .replace f => f.toBits
  | .lineq f => f.toBits
  | .bar f => f.toBits
  | .barc f => f.toBits
  | .bard f => f.toBits
  | .pbar f => f.toBits
  | .launch f => f.toBits
  | .trigger f => f.toBits
  | .waitdep f => f.toBits
  | .step_ f => f.toBits
  | .segq f => f.toBits
  | .ldAsof f => f.toBits
  | .stStamp f => f.toBits
  | .stamp f => f.toBits
  | .hnow f => f.toBits
  | .hfloor f => f.toBits
  | .htrim f => f.toBits
  | .sread f => f.toBits
  | .swrite f => f.toBits
  | .tret f => f.toBits
  | .bkpt f => f.toBits
  | _ => 0

/-- The word of an instruction; none for a step that is no instruction of the word. -/
def encode (i : Instr) : Option Slot96 := i.opcode.map fun op => i.operandBits ++ BitVec.ofNat 10 op

/-- The instruction of a table word of `nbits` bits; the bits above `nbits` are zero, up to 96. -/
def decodeTableWord (nbits w : Nat) : Option Instr :=
  match decode (BitVec.ofNat 96 (w % 2 ^ min nbits 96)) with
  | .ok i => some i
  | _ => none

end Sys2Proof
end

