-- ==== Sys2Proof/Machine/Chunk.lean ====
section
/-! DEFINITION. Machine/Chunk.lean: the Ndoja block format: chunks decoded and encoded, CRC-32C (09 R241 to R243). -/

namespace Sys2Proof.Machine

/-- One bit of the reflected CRC-32C (09 Table 9-4): polynomial 0x1EDC_6F41 reflected. -/
def crcBit (c : Nat) : Nat := if c % 2 = 1 then (c / 2) ^^^ 0x82F63B78 else c / 2

/-- `n` bits. -/
def crcBits : Nat → Nat → Nat
  | 0, c => c
  | n + 1, c => crcBits n (crcBit c)

/-- CRC-32C of bytes, initial value and final XOR 0xFFFF_FFFF. -/
def crc32c (bs : List Byte) : Nat := (bs.foldl (fun c b => crcBits 8 (c ^^^ b.toNat)) 0xFFFFFFFF) ^^^ 0xFFFFFFFF

/-- Why a chunk does not decode (09 R243). -/
inductive ChunkFault where
  | malformed | length | checksum
  deriving DecidableEq, Repr

/-- The expanded sectors of a body, `n` bytes of it left (09 Table 9-5); none when malformed. -/
def expandTags : Nat → List Byte → Option (List Byte) → Option (List Byte)
  | 0, _, _ => some []
  | _ + 1, [], _ => some []
  | f + 1, t :: r, last =>
    match t.toNat with
    | 0 =>
      let z := List.replicate 32 (0 : Byte)
      (expandTags f r (some z)).map (z ++ ·)
    | 1 => if r.length < 32 then none else
      let z := r.take 32
      (expandTags f (r.drop 32) (some z)).map (z ++ ·)
    | 2 => match last with
      | none => none
      | some z => (expandTags f r (some z)).map (z ++ ·)
    | 3 => match r with
      | [] => none
      | b :: r' =>
        let z := List.replicate 32 b
        (expandTags f r' (some z)).map (z ++ ·)
    | _ => none

/-- A chunk decoded from the bytes at its start, at most `due` expanded bytes wanted: the expanded bytes and the chunk's
size, or why it fails, in the order of R243. -/
def decodeChunk (bs : List Byte) (due : Nat) : Except ChunkFault (List Byte × Nat) :=
  let len := leNat (bs.take 4); let crc := leNat ((bs.drop 4).take 4)
  let body := leNat ((bs.drop 8).take 4); let rsv := leNat ((bs.drop 12).take 4)
  if rsv ≠ 0 || len = 0 || len % 32 ≠ 0 || len > 4096 || body > 33 * (len / 32) || bs.length < 16 + body then .error .malformed
  else match expandTags (body + 1) ((bs.drop 16).take body) none with
    | none => .error .malformed
    | some out =>
      if out.length ≠ len || len > due then .error .length
      else if crc32c out ≠ crc then .error .checksum
      else .ok (out, 16 + body)

/-- The tag of a sector after a previous one (09 R242). -/
def encodeSector (z : List Byte) (last : Option (List Byte)) : List Byte :=
  if z.all (· == 0) then [0]
  else if last = some z then [2]
  else if z.all (· == z.headD 0) then [3, z.headD 0]
  else 1 :: z

/-- The body of a chunk, a sector at a time. -/
def encodeBody : Nat → List Byte → Option (List Byte) → List Byte
  | 0, _, _ => []
  | _ + 1, [], _ => []
  | f + 1, bs, last => encodeSector (bs.take 32) last ++ encodeBody f (bs.drop 32) (some (bs.take 32))

/-- The chunk of at most 4,096 bytes (09 R241, R242). -/
def encodeChunk (bs : List Byte) : List Byte :=
  let body := encodeBody 129 bs none
  leBytes 4 bs.length ++ leBytes 4 (crc32c bs) ++ leBytes 4 body.length ++ leBytes 4 0 ++ body

/-- Zero bytes up to a multiple of 32. -/
def pad32 (bs : List Byte) : List Byte := bs ++ List.replicate (roundUp bs.length 32 - bs.length) 0

/-- The chunks of a source, each padded to 32 bytes but the last (09 R242). -/
def encodeChunks : Nat → List Byte → List Byte
  | 0, _ => []
  | _ + 1, [] => []
  | f + 1, bs =>
    let c := encodeChunk (bs.take 4096)
    let rest := encodeChunks f (bs.drop 4096)
    pad32 c ++ rest

end Sys2Proof.Machine
end

