-- ==== Sys2Proof/Machine/Splits.lean ====
section
/-! DEFINITION. Machine/Splits.lean: the split table of one warp: the frontier rule, divergent branches, fusion, exits and
held splits (01 R15 to R25). -/

namespace Sys2Proof.Machine

/-- The PC sequentially after a PC: after slot 4, slot 0 of the next line (02 R45). -/
def nextSlot (pc : PC) : PC := if pc.toNat % 8 ≥ 4 then BitVec.ofNat 64 (pc.toNat / 64 * 64 + 64) else pc + 1

/-- Lanes added to the unarrived group of a key and kind, which is created if absent (01 R17). Whether lanes that R17 parks at the
key of a YIELD group become part of it the spec does not say: they stand in a group of their own (log 41). -/
def addReady (sd : List Group) (k : PC) (m : Mask) (kind : GroupKind := .none) : List Group :=
  if m = 0 then sd
  else if sd.any (fun g => !g.arrived && g.key == k && g.kind == kind) then
    sd.map fun g => if !g.arrived && g.key == k && g.kind == kind then { g with lanes := g.lanes ||| m } else g
  else sd ++ [{ key := k, lanes := m, arrived := false, kind := kind }]

/-- Lanes added to an arrived group that waits for fusion (01 R20). -/
def addFusion (sd : List Group) (k : PC) (m : Mask) : List Group :=
  if sd.any (fun g => g.arrived && g.key == k && g.kind == .fusion) then
    sd.map fun g => if g.arrived && g.key == k && g.kind == .fusion then { g with lanes := g.lanes ||| m } else g
  else sd ++ [{ key := k, lanes := m, arrived := true, kind := .fusion }]

/-- The unarrived groups. -/
def readyGroups (sd : List Group) : List Group := sd.filter fun g => !g.arrived

/-- The least key among the unarrived groups. -/
def minKey (sd : List Group) : Option PC := (least ((readyGroups sd).map (·.key.toNat))).map (BitVec.ofNat 64)

/-- The lanes of every unarrived group with a key. -/
def lanesAt (sd : List Group) (k : PC) : Mask :=
  ((readyGroups sd).filter (·.key == k)).foldl (fun a g => a ||| g.lanes) 0
/-- The siding without the unarrived groups of a key. -/
def without (sd : List Group) (k : PC) : List Group := sd.filter fun g => g.arrived || g.key != k

/-- The state of an entry that has no ready lane (01 R20, R23). -/
def idleState (sd : List Group) : SplitState :=
  if sd.isEmpty then .free else if sd.any (·.kind == .fusion) then .jwait else .cwait

/-- A FREE entry. -/
def Entry.freed (x : Entry) : Entry := { lastIssue := x.lastIssue }

/-- The frontier rule and arrival at J (01 R17, R20): the least PC any ready lane needs runs; lanes at J wait for fusion. -/
def Entry.settle : Nat → Entry → Entry
  | 0, x => x
  | f + 1, x =>
    let sd := addReady x.siding x.pc x.mask
    match minKey sd with
    | none =>
      if sd.isEmpty then x.freed else { x with mask := 0, siding := sd, st := idleState sd, wait := .none }
    | some k =>
      let m := lanesAt sd k
      if x.j = some k then Entry.settle f { x with mask := 0, siding := addFusion (without sd k) k m }
      else { x with pc := k, mask := m, siding := without sd k, st := .run, wait := .none }

/-- Enough turns for a siding of 32 groups. -/
def settleFuel : Nat := 40

/-- The running lanes of an entry sent to their next PCs, then the frontier rule. -/
def Entry.send (x : Entry) (parts : List (PC × Mask)) : Entry :=
  Entry.settle settleFuel
    { x with mask := 0, siding := parts.foldl (fun sd p => addReady sd p.1 p.2) x.siding }

/-- A live entry (01 R16). -/
def Entry.live (x : Entry) : Bool := x.st == .run || x.st == .block || x.st == .jwait || x.st == .cwait

/-- Depth (01 R15). -/
def Entry.depth (x : Entry) : Nat := if x.j.isNone then 0 else if x.jout.isNone then 1 else 2

def Warp.liveCount (w : Warp) : Nat := (w.entries.filter (·.live)).length
def Warp.heldCount (w : Warp) : Nat := (w.entries.filter (·.st == .held)).length
/-- The lowest-numbered FREE entry. -/
def Warp.freeEntry (w : Warp) : Option Nat := (List.range 8).find? fun e => (w.entry e).st == .free

/-- Every lane of the entry is in an arrived group. -/
def Entry.allArrived (x : Entry) : Bool := (x.st == .jwait || x.st == .cwait) && x.mask == 0 && (readyGroups x.siding).isEmpty

/-- The siblings of an entry (01 R21). -/
def Warp.siblings (w : Warp) (x : Entry) : List Nat :=
  (List.range 8).filter fun e => let y := w.entry e; y.st != .free && y.j == x.j && y.jout == x.jout

/-- A nested split of the siblings of an entry stands in the table (01 R21). -/
def Warp.hasNested (w : Warp) (x : Entry) : Bool :=
  x.jout.isNone && w.entries.any fun y => y.st != .free && y.j.isSome && y.jout == x.j

/-- The siblings of entry `e` fuse (01 R21). -/
def Warp.canFuse (w : Warp) (e : Nat) : Bool :=
  let x := w.entry e
  match x.j with
  | none => false
  | some j =>
    let sib := w.siblings x
    x.st != .free && sib.all (fun n => (w.entry n).allArrived) && !w.hasNested x
      && sib.any fun n => (w.entry n).siding.any fun g => g.kind == .fusion && g.key == j

/-- The merge of R21: fusion groups into the lowest sibling at J, every other group into its siding. -/
def Warp.fuseAt (w : Warp) (e : Nat) : Warp :=
  let x := w.entry e
  let j := x.j.getD 0
  let sib := w.siblings x
  let all := sib.flatMap fun n => (w.entry n).siding
  let isF (g : Group) : Bool := g.kind == .fusion && g.key == j
  let lanes := (all.filter isF).foldl (fun a g => a ||| g.lanes) 0
  let low := sib.headD e
  let y := w.entry low
  let y' := Entry.settle settleFuel
    { y with pc := j, mask := lanes, j := y.jout, jout := none, siding := all.filter fun g => !isF g }
  let w := sib.foldl (fun w n => w.setEntry n (w.entry n).freed) w
  w.setEntry low y'

/-- Every fusion that is possible takes place (01 R21, R23). -/
def Warp.fuse : Nat → Warp → Warp
  | 0, w => w
  | f + 1, w => match (List.range 8).find? fun e => w.canFuse e with
    | none => w
    | some e => Warp.fuse f (w.fuseAt e)

/-- The running lanes of entry `e` go to their next PCs; then the frontier rule and any fusion. -/
def Warp.send (w : Warp) (e : Nat) (parts : List (PC × Mask)) : Warp :=
  Warp.fuse 8 (w.setEntry e ((w.entry e).send parts))

/-- Equal next PCs merged. -/
def mergeParts : List (PC × Mask) → List (PC × Mask)
  | [] => []
  | (k, m) :: r =>
    let r' := mergeParts r
    if m = 0 then r'
    else if r'.any (·.1 == k) then r'.map fun p => if p.1 == k then (k, p.2 ||| m) else p
    else (k, m) :: r'

/-- A branch (01 R18): a divergent one forms a new split when fewer than 4 entries are live and the depth is below 2. -/
def Warp.branch (w : Warp) (e : Nat) (parts : List (PC × Mask)) (jb : PC) (now : Nat) : Warp :=
  let parts := mergeParts parts
  let x := w.entry e
  match w.freeEntry, least (parts.map (·.1.toNat)) with
  | some n, some low =>
    if parts.length > 1 && w.liveCount < 4 && x.depth < 2 then
      let m : PC := BitVec.ofNat 64 low
      let stay := parts.filter (·.1 == m)
      let go := parts.filter (·.1 != m)
      let y : Entry := { j := some jb, jout := x.j, lastIssue := now, readySince := now }
      let x' := { x with j := some jb, jout := x.j }
      Warp.fuse 8 ((w.setEntry e (x'.send stay)).setEntry n (y.send go))
    else w.send e parts
  | _, _ => w.send e parts

/-- Lanes removed from a wait's operands. -/
def Wait.drop (x : Wait) (m : Mask) : Wait :=
  match x with
  | .value v => .value { v with eff := v.eff &&& ~~~m, lanes := v.lanes.filter fun l => !m.getLsbD l.lane }
  | .trim f d eff ms => .trim f d (eff &&& ~~~m) ms
  | .phase k a sp p eff ms ys => .phase k a sp p (eff &&& ~~~m) ms ys
  | .ticket n eff => .ticket n (eff &&& ~~~m)
  | .publish d ts eff => .publish d ts (eff &&& ~~~m)
  | .deps p eff => .deps p (eff &&& ~~~m)
  | y => y

/-- Lanes that leave the warp removed from an entry (01 R23). -/
def Entry.drop (x : Entry) (m : Mask) : Entry :=
  let mask := x.mask &&& ~~~m
  let siding := (x.siding.map fun g => { g with lanes := g.lanes &&& ~~~m }).filter fun g => g.lanes != 0
  let y := { x with mask := mask, siding := siding, wait := x.wait.drop m }
  match x.st with
  | .free => x
  | .held => if mask = 0 then x.freed else y
  | .block => if mask = 0 then Entry.settle settleFuel y else y
  | _ => Entry.settle settleFuel y

/-- Lanes leave the warp: from every mask and group, from the trap lane set, whose emptiness frees the trap state (01 R23;
06 R164). -/
def Warp.drop (w : Warp) (m : Mask) : Warp :=
  let lanes := w.trap.lanes &&& ~~~m
  let trap := { w.trap with lanes := lanes, busy := w.trap.busy && lanes != 0 }
  Warp.fuse 8
    { w with living := w.living &&& ~~~m, trap := trap, triggered := w.triggered &&& ~~~m,
             trigWait := w.trigWait.filter fun t => !m.getLsbD t.lane, entries := w.entries.map fun x => x.drop m }

/-- Lanes leave the warp by one instruction of entry `e`, the rest of its running lanes going to their next PCs. -/
def Warp.leave (w : Warp) (e : Nat) (m : Mask) (parts : List (PC × Mask)) : Warp :=
  (w.send e (parts ++ [])).drop m

/-- Lanes of entry `e` move to a held split at the faulting PC with the fault record (01 R24). Which of several FREE entries
they take the spec leaves open: the lowest-numbered (log 38). -/
def Warp.hold (w : Warp) (e : Nat) (m : Mask) (pc : PC) (rec : BitVec 128) : Option Warp :=
  match w.freeEntry with
  | none => none
  | some n =>
    if w.heldCount ≥ 4 then none
    else
      let x := w.entry e
      let y : Entry := { st := .held, pc := pc, mask := m, j := x.j, jout := x.jout, fault := rec }
      let x' : Entry := { x with mask := x.mask &&& ~~~m }
      some ((w.setEntry e x').setEntry n y)

/-- Ready lanes join the siding of an entry that then runs them first (01 R25). -/
def Entry.join (x : Entry) (k : PC) (m : Mask) : Entry :=
  let y := { x with siding := addReady x.siding k m }
  if x.st == .block then y else Entry.settle settleFuel y

/-- A held split replays its instruction after service (01 R25). Which of several live siblings receives the lanes the spec
leaves open: the lowest-numbered (log 38). -/
def Warp.unhold (w : Warp) (n now : Nat) : Warp :=
  let y := w.entry n
  if y.st != .held then w
  else if w.liveCount < 4 then w.setEntry n { y with st := .run, fault := 0, lastIssue := now, readySince := now }
  else
    let live (e : Nat) : Bool := (w.entry e).live
    let target := match (w.siblings y).find? fun e => e != n && live e with
      | some e => some e
      | none => (List.range 8).find? live
    match target with
    | none => w
    | some e =>
      Warp.fuse 8 ((w.setEntry e ((w.entry e).join y.pc y.mask)).setEntry n y.freed)

/-- The groups of entry `e` that satisfy `p` rejoin at the PCs `next` gives them (01 R20). -/
def Entry.release (x : Entry) (p : Group → Bool) (next : Group → PC) : Entry :=
  let out := x.siding.filter p
  if out.isEmpty then x
  else
    let sd := out.foldl (fun sd g => addReady sd (next g) g.lanes) (x.siding.filter fun g => !p g)
    let y := { x with siding := sd }
    if x.st == .block || x.st == .held then y else Entry.settle settleFuel y

/-- In every entry of a warp. -/
def Warp.release (w : Warp) (p : Group → Bool) (next : Group → PC) : Warp :=
  Warp.fuse 8 { w with entries := w.entries.map fun x => x.release p next }

/-- The arrived groups of a warp with the entries that hold them. -/
def Warp.arrived (w : Warp) : List (Nat × Group) :=
  (List.range 8).flatMap fun e => ((w.entry e).siding.filter (·.arrived)).map fun g => (e, g)

/-- The running lanes become an arrived group, other lanes going to their next PCs (01 R20). -/
def Warp.arrive (w : Warp) (e : Nat) (pc : PC) (m : Mask) (kind : GroupKind) (parts : List (PC × Mask)) : Warp :=
  let x := w.entry e
  let x := { x with siding := x.siding ++ [Group.mk pc m true kind w.clock] }
  Warp.fuse 8 (w.setEntry e (x.send parts))

end Sys2Proof.Machine
end

