-- ==== Sys2Proof/Machine/Translate.lean ====
section
/-! DEFINITION. Machine/Translate.lean: page tables, the walk, the TLB, permissions, accessed and dirty bits, fault records,
and reads through C pages (13 R305 to R315; 08 R207, R208; 20 R417 to R419). -/

namespace Sys2Proof

/-- KIND codes of Table 13-6. -/
def AccessKind.code : AccessKind → Nat
  | .load => 0 | .store => 1 | .fetch => 2 | .copyRead => 3 | .copyWrite => 4 | .station => 5

end Sys2Proof

namespace Sys2Proof.Machine

/-- Fields of a page-table entry (13 Table 13-4). -/
def pteV (p : DWord) : Bool := p.getLsbD 0
def pteLeaf (p : DWord) : Bool := p.getLsbD 1
def pteR (p : DWord) : Bool := p.getLsbD 2
def pteW (p : DWord) : Bool := p.getLsbD 3
def pteX (p : DWord) : Bool := p.getLsbD 4
def pteH (p : DWord) : Bool := p.getLsbD 5
def pteC (p : DWord) : Bool := p.getLsbD 6
def pteA (p : DWord) : Bool := p.getLsbD 7
def pteD (p : DWord) : Bool := p.getLsbD 8
def pteG (p : DWord) : Bool := p.getLsbD 9
def pteClen (p : DWord) : Nat := bitsOf p.toNat 59 5
def pteAddr (p : DWord) : Nat := bitsOf p.toNat 12 40 * 4096

/-- Bytes a leaf at a level maps (13 Table 13-3). -/
def pageSize (level : Nat) : Nat := if level = 2 then 2 ^ 30 else if level = 3 then 2 ^ 21 else 4096

/-- Offsets of a home that a leaf may name: the populated range less the spill frames (13 R307, R315), a granted host window
(20 R417), an enabled fabric window (20 R418). -/
def State.homeSize (s : State) (h : Nat) : Nat :=
  if h < 8 then s.frames
  else if h < 12 then (s.windows.getD (h - 8) {}).size
  else bitsOf (s.fabric.getD (h - 12) 0).toNat 40 36 * 2 ^ 21

/-- A malformed entry (13 R307). -/
def State.malformed (s : State) (p : DWord) (level : Nat) : Bool :=
  let pa := pteAddr p
  bitsOf p.toNat 52 7 != 0 || bitsOf p.toNat 10 2 == 3
  || (if pteLeaf p then
        level < 2 || (level == 3 && bitsOf p.toNat 12 9 != 0) || (level == 2 && bitsOf p.toNat 12 18 != 0)
        || (pteC p && (level != 4 || pteClen p < 1 || pteClen p > 17)) || (!pteC p && pteClen p != 0)
        || offsetOf pa + pageSize level > s.homeSize (homeOf pa)
      else level == 4 || bitsOf p.toNat 2 10 != 0 || pteClen p != 0 || homeOf pa > 7)

/-- The outcome of a translation: a leaf with its level and the address of its entry, or a translation fault with the level
that ended the walk and the reason of Table 13-6. -/
inductive Walk where
  | leaf (level at_ : Nat) (pte : DWord)
  | fault (level reason : Nat)
  deriving DecidableEq, Repr

/-- The index of a level in a virtual address (13 Table 13-3). -/
def vaIndex (va : DWord) (level : Nat) : Nat := bitsOf va.toNat (48 - 9 * level) 9

/-- The memory of a home is unreachable (19 R403), or no longer used (19 R404). -/
def State.gone (s : State) (pa : Nat) : Bool := homeOf pa < 8 && (!(s.die (homeOf pa)).mempath || (s.die (homeOf pa)).st == 3)

/-- The walk from a table (13 R305). An entry of an unreachable page reads as POISON and is no entry: malformed (19 R403; log
38). -/
def State.walkFrom (s : State) (va : DWord) : Nat → Nat → Nat → Walk
  | 0, level, _ => .fault level 1
  | f + 1, level, table =>
    let a := table + 8 * vaIndex va level
    let p : DWord := BitVec.ofNat 64 (s.readNat a 8)
    if s.gone a then .fault level 1
    else if !pteV p then .fault level 0
    else if s.malformed p level then .fault level 1
    else if pteLeaf p then .leaf level a p
    else s.walkFrom va f (level + 1) (pteAddr p)

/-- A walk from the root of an address space (13 R312). -/
def State.walk (s : State) (asid : Nat) (va : DWord) : Walk :=
  let root := tget s.roots asid 0
  if !root.getLsbD 0 then .fault 0 3 else s.walkFrom va 5 0 (pteAddr root)

/-- A TLB entry that matches an access (13 R312). -/
def State.tlbFind (s : State) (die asid : Nat) (va : DWord) : Option TlbEntry :=
  s.tlb.find? fun t => t.die == die && (t.asid == asid || pteG t.pte) && t.vpage == va.toNat % 2 ^ 57 / pageSize t.level

/-- A translation through the die's TLB, a walk filling it on a miss (13 R311). -/
def State.lookup (s : State) (die asid : Nat) (va : DWord) : State × Walk :=
  match s.tlbFind die asid va with
  | some t => (s, .leaf t.level t.pteAt t.pte)
  | none => match s.walk asid va with
    | .leaf l a p =>
      ({ s with tlb := s.tlb ++ [TlbEntry.mk die asid (va.toNat % 2 ^ 57 / pageSize l) l p a] }, .leaf l a p)
    | w => (s, w)

/-- The bits of Table 13-4 that an access sets in its leaf: A, and D where it writes. -/
def adBits (p : DWord) (write : Bool) : DWord := (if pteA p then 0 else 0x80) ||| (if write && !pteD p then 0x100 else 0)

/-- The entry is not what the translation used: V = 0, or another PPN or permission (13 R309). -/
def pteMoved (p q : DWord) : Bool := !pteV q || pteAddr q != pteAddr p || bitsOf q.toNat 2 3 != bitsOf p.toNat 2 3

/-- A translation whose leaf has the bits that the access sets, or still stands as it was used: the OR that would set them finds
a changed entry, and the access translates afresh (13 R309). -/
def State.current (s : State) (die asid : Nat) (va : DWord) (write : Bool) : State × Walk :=
  match s.lookup die asid va with
  | (t, .leaf l a p) =>
    if adBits p write != 0 && pteMoved p (BitVec.ofNat 64 (t.readNat a 8)) then
      { t with tlb := t.tlb.filter fun e => !(e.die == die && e.pteAt == a) }.lookup die asid va
    else (t, .leaf l a p)
  | r => r

/-- The physical address of a virtual address under a leaf. -/
def leafPa (p : DWord) (level : Nat) (va : DWord) : Nat := pteAddr p + va.toNat % pageSize level

/-- Accessed and dirty bits set by an atomic OR on the entry, before the access (13 R309); one to an unreachable home is dropped
(19 R403). `who` is whose access it is: the OR comes before it in happens-before (22 Table 22-1). -/
def State.setAD (s : State) (die asid : Nat) (va : DWord) (level a : Nat) (p : DWord) (write : Bool) (who : Writer) : State :=
  let want := adBits p write
  if want = 0 || homeOf a > 7 || s.gone a then s
  else
    let cur : DWord := BitVec.ofNat 64 (s.readNat a 8)
    let s : State := (s.performWrite a (leBytes 8 (cur ||| want).toNat) 0).1
    let s : State := if who.who.isSome then s.signed who a [] else s
    { s with tlb := s.tlb.map fun t => if t.die = die && (t.asid = asid || pteG t.pte)
        && t.vpage = va.toNat % 2 ^ 57 / pageSize level && t.level = level then { t with pte := t.pte ||| want } else t }

/-- What an access needs of its leaf (13 Table 13-5; 08 R207). -/
inductive Need where
  | read | write | atomic | fetch | copyWrite
  deriving DecidableEq, Repr

def Need.writes : Need → Bool
  | .write | .atomic | .copyWrite => true
  | _ => false

/-- The outcome of an access's translation. -/
inductive Xlate where
  | ok (pa : Nat) (pte : DWord)
  | fault (level reason : Nat)
  | denied
  deriving DecidableEq, Repr

/-- A leaf permits an access: R, W or X; no write or atomic on a C page; no atomic on a window; a window's own write
permission (08 R207; 13 R308; 20 R417, R418). -/
def State.permits (s : State) (need : Need) (p : DWord) : Bool :=
  let h := homeOf (pteAddr p)
  (match need with
   | .read => pteR p
   | .fetch => pteX p
   | _ => pteW p)
  && !(need.writes && need != .copyWrite && pteC p)
  && !(need == .atomic && h ≥ 8)
  && !(need.writes && 8 ≤ h && h < 12 && !(s.windows.getD (h - 8) {}).flags.testBit 2)
  && !(need.writes && h ≥ 12 && !(s.fabric.getD (h - 12) 0).getLsbD 0)

/-- A leaf's bytes lie in its home as it is now: a host window that has been revoked or made smaller gives none (20 R417). -/
def State.stands (s : State) (p : DWord) (level : Nat) : Bool := offsetOf (pteAddr p) + pageSize level ≤ s.homeSize (homeOf (pteAddr p))

/-- An access's translation (13 R305 to R312), with no A or D bit set yet. -/
def State.xlate (s : State) (die asid : Nat) (va : DWord) (need : Need) : State × Xlate :=
  if va.toNat ≥ 2 ^ 57 then (s, .denied)
  else match s.current die asid va need.writes with
    | (s, .fault l r) => (s, .fault l r)
    | (s, .leaf l _ p) =>
      if !s.permits need p then (s, .denied)
      else if homeOf (pteAddr p) ≥ 8 && !s.stands p l then (s, .fault l 1)
      else (s, .ok (leafPa p l va) p)

/-- A and D bits of an access that translated. -/
def State.touch (s : State) (die asid : Nat) (va : DWord) (write : Bool) (who : Writer := {}) : State :=
  match s.lookup die asid va with
  | (s, .leaf l a p) => s.setAD die asid va l a p write who
  | (s, _) => s

/-! ### What the page tables map -/

/-- A leaf as found in the tables: its virtual address, level, the address of its entry, and the entry. -/
structure Leaf where
  va    : Nat
  level : Nat
  entry : Nat
  pte   : DWord
  deriving DecidableEq, Repr

/-- The leaves below a table, in ascending virtual address. -/
def State.leavesBelow (s : State) : Nat → Nat → Nat → Nat → List Leaf
  | 0, _, _, _ => []
  | f + 1, level, table, va => (List.range 512).flatMap fun i =>
    let a := table + 8 * i
    let p : DWord := BitVec.ofNat 64 (s.readNat a 8)
    let v := va + i * 2 ^ (48 - 9 * level)
    if !pteV p || s.malformed p level then []
    else if pteLeaf p then [{ va := v, level := level, entry := a, pte := p }]
    else s.leavesBelow f (level + 1) (pteAddr p) v

/-- The tables below a table, itself among them, each with the addresses of the entries that name it here. -/
def State.tablesBelow (s : State) : Nat → Nat → Nat → List Nat
  | 0, _, _ => []
  | f + 1, level, table => table :: (List.range 512).flatMap fun i =>
    let p : DWord := BitVec.ofNat 64 (s.readNat (table + 8 * i) 8)
    if !pteV p || s.malformed p level || pteLeaf p then [] else s.tablesBelow f (level + 1) (pteAddr p)

/-- The root table of an address space. -/
def State.rootOf (s : State) (asid : Nat) : Option Nat :=
  let r := tget s.roots asid 0
  if r.getLsbD 0 then some (pteAddr r) else none

/-- The leaves and tables of an address space. -/
def State.leavesOf (s : State) (asid : Nat) : List Leaf := match s.rootOf asid with
  | none => []
  | some r => s.leavesBelow 5 0 r 0
def State.tablesOf (s : State) (asid : Nat) : List Nat := match s.rootOf asid with
  | none => []
  | some r => s.tablesBelow 5 0 r

/-- Bytes a leaf's page takes. -/
def Leaf.bytes (x : Leaf) : Nat := if pteC x.pte then pteClen x.pte * 256 else pageSize x.level

/-! ### Records and reads -/

/-- The translation fault record (13 Table 13-6). -/
def faultRecord (va : DWord) (asid kind level reason die origin : Nat) : BitVec 128 :=
  BitVec.ofNat 128 (va.toNat % 2 ^ 57 * 2 ^ 71 + asid % 1024 * 2 ^ 61 + kind % 8 * 2 ^ 58 + level % 8 * 2 ^ 55
    + reason % 4 * 2 ^ 53 + die % 16 * 2 ^ 49 + origin % 2 ^ 49)

/-- The ORIGIN of a thread's fault: core, warp slot and entry (13 Table 13-6; the packing is log 13). -/
def threadOrigin (w : Warp) (e : Nat) : Nat := w.core * 2 ^ 9 + w.slot * 8 + e

/-- Firmware receives the fault record of a walk. -/
def State.report (s : State) (r : BitVec 128) : State := s.logged (.translation r)

/-- The walk a record names: its die, address space and 4 KiB page. -/
def walkOf (r : BitVec 128) : Nat × Nat × Nat := (bitsOf r.toNat 49 4, bitsOf r.toNat 61 10, bitsOf r.toNat 83 45)

/-- A faulting walk of a die: accesses of one cycle that miss the same 4 KiB page from anywhere on the die share it, and it
gives one record, the first's (13 R311; log 38). -/
def State.reportWalk (s : State) (r : BitVec 128) : State :=
  if s.walks.contains (walkOf r) then s else { s.report r with walks := s.walks ++ [walkOf r] }

/-- The expanded bytes of a C page's chunk (08 R208), or none where it does not decode. -/
def State.chunkAt (s : State) (p : DWord) : Option (List Byte) :=
  match decodeChunk (s.read (pteAddr p) (pteClen p * 256)) 4096 with
  | .ok (bs, _) => some bs
  | .error _ => none

/-- Bytes read through a leaf: the sector poisoned, or the chunk that does not decode (08 R197, R208), or the data; bytes a C
page's chunk does not reach are free values (log 14). -/
def State.readThrough (s : State) (pa : Nat) (p : DWord) (n : Nat) : Except Nat (List Byte) :=
  if s.gone pa then .error (pa / 32 * 32)
  else if pteC p then
    match s.poisonAt (pteAddr p) (pteClen p * 256), s.chunkAt p with
    | none, some bs => .ok ((List.range n).map fun i => bs.getD (pa % 4096 + i) (Config.pastChunk (pa + i)))
    | none, none => .error (pteAddr p)
    | some a, _ => .error a
  else match s.poisonAt pa n with
    | some a => .error a
    | none => .ok (s.read pa n)

end Sys2Proof.Machine
end

