-- ==== Sys2Proof/Machine/Fetch.lean ====
section
/-! DEFINITION. Machine/Fetch.lean: the fetch line, its parity and line word, and the check of a branch target (02 R45 to
R49, R448; 13 R310). -/

namespace Sys2Proof.Machine

/-- The exclusive-or of the bits of a number of `n` bits. -/
def parityOf (n v : Nat) : Bool := (List.range n).foldl (fun a i => a != v.testBit i) false

/-- The 512 bits of a line. -/
def State.lineAt (s : State) (pa : Nat) : Nat := s.readNat pa 64

/-- The line word (02 R45). -/
def lineWord (l : Nat) : Nat := bitsOf l 480 32
/-- Slot s of a line (02 R45). -/
def lineSlot (l k : Nat) : Slot96 := BitVec.ofNat 96 (bitsOf l (96 * k) 96)

/-- Every parity bit of a line agrees (02 R46). -/
def parityOk (l : Nat) : Bool :=
  let w := lineWord l
  parityOf 16 (bitsOf w 0 16) == w.testBit 31
  && (List.range 15).all fun k => parityOf 32 (bitsOf l (32 * k) 32) == w.testBit (16 + k)

/-- The line word with its parity bits set, from ENTRY and PAIR bits and the five slots (02 R46; giane's part). -/
def makeLine (entry pair : Nat) (slots : List Nat) : Nat :=
  let body := slots.zipIdx.foldl (fun a p => a + p.1 % 2 ^ 96 * 2 ^ (96 * p.2)) 0
  let low := entry % 32 + pair % 16 * 32
  let par := (List.range 15).foldl (fun a k => if parityOf 32 (bitsOf body (32 * k) 32) then a + 2 ^ (16 + k) else a) 0
  body + (low + par + (if parityOf 16 low then 2 ^ 31 else 0)) * 2 ^ 480

/-- What a fetch of a line gives: the line, or the cause the split takes with its trap value (02 R47; 13 R310). -/
inductive Fetched where
  | line (l : Nat)
  | missing (rec : BitVec 128)
  | noExec
  | check
  deriving DecidableEq, Repr

/-- The address of an instruction's own line (02 R45). -/
def lineOf (pc : PC) : PC := BitVec.ofNat 64 (pc.toNat / 64 * 64)

/-- A line's corrected-error count (02 R47), and a sector's (13 R317), is kept by the die. -/
def State.correctedError (s : State) (d : Nat) : State := s.modDie d fun x => { x with corrected := x.corrected + 1 }

/-- A copy of the line at a physical address as the core receives it: none where it is POISON or a parity bit disagrees. An
error of the environment spoils one copy. -/
def State.copyOfLine (s : State) (d pa : Nat) : State × Option Nat :=
  let l := s.lineAt pa
  if s.upsets.contains (.line d pa) then ({ s with upsets := s.upsets.erase (.line d pa) }, none)
  else (s, if s.gone pa || (s.poisonAt pa 64).isSome || !parityOk l then none else some l)

/-- The copy of a line that a replica core has loaded into its instruction store (11 R278). -/
def State.pinnedLine (s : State) (w : Warp) (pc : PC) : Option Nat :=
  (s.launch? w.launch).bind fun l =>
    (l.code.find? fun x => x.core == w.die * 36 + w.core && x.line == pc.toNat / 64).map (·.bits)

/-- A line fetched for a split of a warp under its launch's address space (02 R47, R448; 13 R310): a copy that fails is
discarded and the line fetched once more; one that then passes is counted as a corrected error. -/
def State.fetchLine (s : State) (w : Warp) (asid e : Nat) (pc : PC) : State × Fetched :=
  match s.xlate w.die asid pc .fetch with
  | (s, .fault l r) => (s, .missing (faultRecord pc asid 2 l r w.die (threadOrigin w e)))
  | (s, .denied) => (s, .noExec)
  | (s, .ok pa _) =>
    let base := pa / 64 * 64
    let s := s.touch w.die asid pc false
    match (match s.pinnedLine w pc with
      | some l => (s, if parityOk l then some l else none)
      | none => s.copyOfLine w.die base) with
    | (s, some l) => (s, .line l)
    | (s, none) => match s.copyOfLine w.die base with
      | (s, some l) => (s.correctedError w.die, .line l)
      | (s, none) => (s, .check)

/-- The outcome of checking a PC as a branch target or reconvergence point (02 R49, R448). -/
inductive Target where
  | ok
  | illegal
  | missing (rec : BitVec 128)
  | noExec
  | check
  deriving DecidableEq, Repr

/-- A PC checked under R49 and R448. -/
def State.checkTarget (s : State) (w : Warp) (asid e : Nat) (pc : PC) : State × Target :=
  let n := pc.toNat
  if n % 8 > 4 || n % 64 ≥ 8 || n ≥ 2 ^ 57 then (s, .illegal)
  else match s.fetchLine w asid e pc with
    | (s, .missing r) => (s, .missing r)
    | (s, .noExec) => (s, .noExec)
    | (s, .check) => (s, .check)
    | (s, .line l) => (s, if (lineWord l).testBit (n % 8) then .ok else .illegal)

end Sys2Proof.Machine
end

