-- ==== Sys2Proof/Machine/Trap.lean ====
section
/-! DEFINITION. Machine/Trap.lean: retirement and kills (01 R23; 11 R266, R267; 14 R325), barrier releases (06 R160), and
TAKING A TRAP as one shared operation (06 R163 to R167), with the return from one beside it (06 R165). -/

namespace Sys2Proof.Machine

/-- The address space of a warp: its launch's region's (14 R328). -/
def State.asidOf (s : State) (w : Warp) : Nat := ((s.launch? w.launch).map fun l => s.effAsid l.node).getD 0

/-- An operation's place lies in the shared memory of a workgroup (09 R247). -/
def inShared (wg : Nat) : Place → Bool
  | .key k => sharedKey wg 0 ≤ k && k < sharedKey (wg + 1) 0
  | .virt _ _ => false
def keyInShared (wg k : Nat) : Bool := inShared wg (.key k)

/-- Some copy or catch still uses the shared memory of a workgroup (09 R247). -/
def State.sharedInUse (s : State) (wg : Nat) : Bool :=
  s.copies.any (fun c => inShared wg c.dst || inShared wg c.src || (c.barrier.map (keyInShared wg)).getD false)
  || s.lineOps.any (fun o => inShared wg o.place || (o.barrier.map (keyInShared wg)).getD false)

/-- Room has freed on a core (14 R347). -/
def State.freeCore (s : State) (d c : Nat) : State :=
  { s with freed := if s.freed.contains (d, c) then s.freed else s.freed ++ [(d, c)] }

/-- Workgroups of a consist whose members are all done leave, and their shared memory is freed (11 R266). -/
def State.retireConsists (s : State) : State :=
  let out (g : Workgroup) : Bool :=
    g.done && (s.wgs.filter fun h => h.launch == g.launch && h.consist == g.consist).all fun h =>
      h.done && !s.sharedInUse h.uid
  let gone := s.wgs.filter out
  let s : State := gone.foldl (fun s g => s.wipe (sharedKey g.uid 0) (sharedKey g.uid (2 ^ 20))) s
  gone.foldl (fun s g => s.freeCore g.die g.core) { s with wgs := s.wgs.filter fun g => !out g }

/-- The shadows that satisfy `p` are discarded (09 R238): kept ones vanish, those of running copies lose their pages. -/
def State.discardShadows (s : State) (kept : Shadow → Bool) (running : Copy → Bool) : State :=
  let pages := ((s.shadows.filter kept).flatMap (·.pages)) ++ ((s.copies.filter running).flatMap (·.shadows))
  let s : State := { s with shadows := s.shadows.filter fun x => !kept x,
                            copies := s.copies.map fun c => if running c then { c with shadows := [] } else c }
  { s with poolTaken := s.poolTaken.filter fun b => !pages.any fun p => p.new == b.1 }

/-- Threads of a warp end: what they did, and its clock, come before their launch's completion and count for its triggers (14
R330, R336, R337; 16 R357). -/
def State.endThreads (s : State) (w : Warp) (m : Mask) : State :=
  let p := w.pastOf m s.fresh
  s.modLaunch w.launch fun l =>
    { l with endStamp := max l.endStamp w.clock, trigClock := max l.trigClock w.clock, endPast := joinPast l.endPast p,
             trigPast := joinPast l.trigPast p }

/-- A warp without living lanes releases its slot (01 R23), while its registers and thread slots stay charged to its workgroup
(06 R151): its shadows are discarded, its operations are detached, and those that still wait for their issuer's acknowledgements
carry its clock (16 R353). Accesses issued before an exit are still performed (04 R97), and what lanes that have left for
another segment still wait for is answered (11 R280); a killed warp's waiting reads are not. -/
def State.releaseWarp (s : State) (w : Warp) : State :=
  let s : State := s.discardShadows (fun x => x.warp == w.uid) (fun c => c.warp == w.uid && c.shd)
  let s : State := s.endThreads w w.living
  let s : State := { s with launches := s.launches.map fun l => if l.issuedBy w.uid then { l with carried := max l.carried w.clock } else l }
  let s : State := s.freeCore w.die w.core
  let s : State := s.modWg w.wg fun g => { g with exited := g.exited ++ [(w.sched, w.nreg)] }
  { s with
    warps := s.warps.filter (·.uid != w.uid),
    accesses := s.accesses.filter (fun a => !(a.warp == w.uid && a.op.reads && (w.living != 0 || !(a.op == .load || a.op == .asof)))),
    copies := s.copies.map (fun c => if c.warp = w.uid then { c with reg := none, clock := if c.started then c.clock else max c.clock w.clock } else c),
    lineOps := s.lineOps.map (fun o => if o.warp = w.uid then
      { o with reg := none, clock := if o.stage = .waiting then max o.clock w.clock else o.clock } else o),
    resolving := s.resolving.filter (fun r => r.1 != w.uid) }

/-- Warps without living lanes are released, workgroups without warps are done, consists without living members retire. -/
def State.retire (s : State) : State :=
  let s : State := (s.warps.filter fun w => w.living == 0).foldl (fun s w => s.releaseWarp w) s
  let s : State := { s with wgs := s.wgs.map fun g => if s.warps.any (fun w => w.wg == g.uid) then g else { g with done := true } }
  s.retireConsists

/-- Lanes of a warp leave it, and their threads end (01 R23). -/
def State.dropLanes (s : State) (uid : Nat) (m : Mask) : State :=
  match s.warp? uid with
  | none => s
  | some w => (s.endThreads w m).putWarp (w.drop m)

/-! ### Barriers -/

/-- The predicate a barrier's group writes. -/
def GroupKind.pd : GroupKind → Option Nat
  | .barc _ p | .bard _ p | .pbar _ p => Option.some p
  | _ => Option.none

/-- The groups of a warp whose kind satisfies `is` rejoin at their next PCs, `value` written into their predicates. -/
def Warp.freeBarrier (w : Warp) (is : GroupKind → Bool) (value : Bool) : Warp :=
  let hit := (w.arrived.filter fun p => is p.2.kind).map (·.2)
  let w' := hit.foldl (fun w g => match g.kind.pd with
    | some p => w.setPred p g.lanes (if value then BitVec.allOnes 32 else 0)
    | none => w) w
  w'.release (fun g => g.arrived && is g.kind) fun g => nextSlot g.key

/-- A warp waits at a group whose kind satisfies `is`. -/
def Warp.waitsAt (w : Warp) (is : GroupKind → Bool) : Bool := w.arrived.any fun p => is p.2.kind

/-- The lanes of a warp that wait at groups of a kind. -/
def Warp.waiting (w : Warp) (is : GroupKind → Bool) : Mask :=
  w.arrived.foldl (fun a p => if is p.2.kind then a ||| p.2.lanes else a) 0

/-- The largest clock among the arrivals of warps at groups whose kind satisfies `is` (16 R354). -/
def arrivalClock (ws : List Warp) (is : GroupKind → Bool) : Stamp :=
  ws.foldl (fun a w => (w.arrived.filter fun p => is p.2.kind).foldl (fun a p => max a p.2.clock) a) 0

/-- What lies before the release of a barrier: all that the threads counted did before they arrived (06 R158; 22 Table 22-1). -/
def State.arrivalPast (s : State) (ws : List Warp) (is : GroupKind → Bool) : Past :=
  ws.foldl (fun p w => joinPast p (w.pastOf (w.waiting is) s.fresh)) []

/-- A warp's groups whose kind satisfies `is` are released with the arrivals' clock and past. -/
def Warp.leaveBarrier (w : Warp) (is : GroupKind → Bool) (value : Bool) (clock : Stamp) (p : Past) : Warp :=
  if w.waitsAt is then ((w.freeBarrier is value).merge clock).lookAll (w.waiting is) p else w

/-- The groups of `scope` warps whose kind satisfies `is` rejoin at their next PCs, writing `value` into their predicates and
merging the largest clock among the arrivals (11 R270; 13 R302; 14 R339; 16 Table 16-2). A BROKEN release orders nothing (22
R436). -/
def State.releaseBarrier (s : State) (scope : Warp → Bool) (is : GroupKind → Bool) (value : Bool) : State :=
  let clock := arrivalClock (s.warps.filter scope) is
  let p := if value then s.arrivalPast (s.warps.filter scope) is else []
  { s with warps := s.warps.map fun w => if scope w then w.leaveBarrier is value clock p else w }

def isBarc : GroupKind → Bool
  | .barc _ _ => true
  | _ => false
def isBard : GroupKind → Bool
  | .bard _ _ => true
  | _ => false
def isPbar : GroupKind → Bool
  | .pbar _ _ => true
  | _ => false

/-- A warp belongs to a consist of a launch. -/
def State.inConsist (s : State) (launch consist : Nat) (w : Warp) : Bool :=
  w.launch == launch && ((s.wg? w.wg).map (·.consist)).getD 0 == consist

def isBar (n : Nat) : GroupKind → Bool
  | .bar k => k == n
  | _ => false
def isBarcN (n : Nat) : GroupKind → Bool
  | .barc k _ => k == n
  | _ => false
def isBardN (n : Nat) : GroupKind → Bool
  | .bard k _ => k == n
  | _ => false
def isPbarN (n : Nat) : GroupKind → Bool
  | .pbar k _ => k == n
  | _ => false

/-- The instances of a barrier of a launch release their waiters BROKEN, each with the largest clock among its arrivals: those
of `scope` warps, and of the warps of saved workgroups that `saved` picks. -/
def State.breakInstances (s : State) (launch : Nat) (scope : Warp → Bool) (saved : SavedWg → Bool) (is : Nat → GroupKind → Bool) : State :=
  (List.range 8).foldl (fun s n =>
    let kept := ((s.launch? launch).map fun l => (l.saved.filter saved).flatMap (·.warps)).getD []
    let clock := arrivalClock (s.warps.filter scope ++ kept) (is n)
    let free (w : Warp) : Warp := w.leaveBarrier (is n) false clock []
    { s with warps := s.warps.map fun w => if scope w then free w else w }.modLaunch launch fun l =>
      { l with saved := l.saved.map fun v => if saved v then { v with warps := v.warps.map free } else v }) s

/-- The barriers that count a killed workgroup release their waiters BROKEN, now and later (06 R160; 11 R267; 13 R303; 14
R340). -/
def State.breakBarriers (s : State) (g : Workgroup) : State :=
  let s : State := s.modLaunch g.launch fun l =>
    { l with barcBroken := (if l.barcBroken.contains g.consist then l.barcBroken else l.barcBroken ++ [g.consist]),
             bardBroken := (if l.bardBroken.contains g.die then l.bardBroken else l.bardBroken ++ [g.die]),
             pbarBroken := true, pbarReady := [] }
  let s : State := s.breakInstances g.launch (s.inConsist g.launch g.consist) (·.wg.consist == g.consist) isBarcN
  let s : State := s.breakInstances g.launch (fun w => w.launch == g.launch && w.die == g.die) (·.wg.die == g.die) isBardN
  s.breakInstances g.launch (fun w => w.launch == g.launch) (fun _ => true) isPbarN

/-! ### Kills -/

/-- An end record kept by a unit, at most its last 4,096 (09 R256; 18 R383; 14 R335). -/
def State.keepEnd (s : State) (r : EndRecord) : State :=
  let same := s.ends.filter fun e => e.kind == r.kind && e.die == r.die && e.unit == r.unit
  let ends := if same.length ≥ 4096 then
      match same.head? with
      | some o => s.ends.filter fun e => e != o
      | none => s.ends
    else s.ends
  { s with ends := ends ++ [r] }

/-- A unit still holds the end record of a ticket (09 R256). -/
def State.endRecord? (s : State) (t : DWord) : Option EndRecord :=
  s.ends.find? fun e => e.kind == tkKind t && e.die == tkDie t && e.unit == tkUnit t && e.seq % 2 ^ 40 == tkSeq t

/-- The operation a ticket names. -/
def Copy.named (c : Copy) (t : DWord) : Bool :=
  tkKind t == 1 && c.die == tkDie t && c.unit == tkUnit t && c.seq % 2 ^ 40 == tkSeq t
def StationOp.named (o : StationOp) (t : DWord) : Bool :=
  tkKind t == 2 && o.die == tkDie t && tkUnit t == 0 && o.seq % 2 ^ 40 == tkSeq t

/-- An operation's end written into every ticket register that holds its ticket: the issuing one while it is attached, and
those that resolved to it (01 R38; 09 R258). The end stamp merges (16 Table 16-2). -/
def State.endTicket (s : State) (r : EndRecord) : State :=
  let s : State := s.keepEnd r
  { s with warps := s.warps.map fun w =>
      let hit (t : DWord) : Bool := tkState t == 1 && tkKind t == r.kind && tkDie t == r.die && tkUnit t == r.unit
        && tkSeq t == r.seq % 2 ^ 40
      if w.tickets.any hit then
        { w with tickets := w.tickets.map (fun t =>
                   if hit t then ticketVal r.state r.reason r.kind r.die r.unit r.seq else t),
                 endPasts := w.tickets.zipIdx.foldl (fun l t => if hit t.1 then tset l t.2 r.past else l) w.endPasts,
                 clock := max w.clock r.stamp }
      else w }

/-- Range entries of an operation freed (09 R245), those of a saved warp too. -/
def Warp.freeRange (w : Warp) (op : Nat) : Warp := { w with ranges := w.ranges.filter fun r => r.op != op }
def State.freeRange (s : State) (op : Nat) : State :=
  { s with warps := s.warps.map (·.freeRange op),
           launches := s.launches.map fun l =>
             { l with saved := l.saved.map fun v => { v with warps := v.warps.map (·.freeRange op) } } }

/-- OVERRUN set in an arrival barrier by a failed or cancelled operation: one atomic operation at its bank, which writes the
reserved bits zero and carries on the release sides of what it reads (08 R211; 09 R236, R248, R249). -/
def State.overrun (s : State) (barrier : Option Nat) : State :=
  match barrier with
  | none => s
  | some k =>
    (s.write (k + 12) (leBytes 4 (s.readNat (k + 12) 4 % 2 ||| 2))).bankWrote { number := s.fresh, syncs := s.carried k 16, acked := true }
      (k + 12) (s.read (k + 12) 4) []

/-- What lies before the end of an engine's or station's operation: what lay before it, and its own reads and writes (09 R234,
R254; 18 R395). -/
def State.opPast (s : State) (p : Past) (op : Nat) : Past := pastAdd p (engineAgent op) s.fresh

/-- An engine's or station's operation has ended: its end comes before its launch's completion (14 R330; 16 R357). -/
def State.opEnded (s : State) (launch : Nat) (stamp : Stamp) (p : Past) : State :=
  s.modLaunch launch fun l => { l with endStamp := max l.endStamp stamp, endPast := joinPast l.endPast p }

/-- Circle-line operations that satisfy `p` end with a state and reason: a catch sets its barrier's OVERRUN, a board frees
its reservation (18 R385, R387, R392; 19 R401). -/
def State.endLineOps (s : State) (p : StationOp → Bool) (st reason : Nat) : State :=
  let out := s.lineOps.filter p
  let s : State := { s with lineOps := s.lineOps.filter fun o => !p o }
  out.foldl (fun s o =>
    let s : State := if o.op == .catchTile then s.overrun o.barrier else s
    let s : State := if o.op == .board && o.stage != .waiting then { s with coaches := s.coaches.filter fun c =>
        c.fresh != o.coach } else s
    let p := s.opPast o.past o.id
    ((s.opEnded o.launch 0 p).freeRange o.id).endTicket
      { kind := 2, die := o.die, unit := 0, seq := o.seq, state := st, reason := reason, past := p }) s

/-- A copy in progress: nothing has stopped it, or what stopped it lies past sectors that are still to be delivered (09 R236,
R243). -/
def Copy.live (c : Copy) : Bool := c.ending == 0 || !c.pending.isEmpty

/-- A workgroup's engine operations are cancelled and its shadows discarded (14 R325; 09 R236, R238). -/
def State.cancelOps (s : State) (wg : Nat) : State :=
  let s : State := s.discardShadows (fun x => x.wg == wg) (fun c => c.wg == wg && c.shd)
  let s : State := { s with copies := s.copies.map fun c =>
                            if c.wg = wg && c.live then { c with ending := 3, reason := 8, pending := [] } else c }
  s.endLineOps (fun o => o.wg == wg) 3 8

/-- The engine operations of a launch, those of workgroups that have exited too, are cancelled (14 R325; 18 R394). -/
def State.cancelLaunchOps (s : State) (id : Nat) : State :=
  let wgs := (s.copies.filter (·.launch == id)).map (·.wg) ++ (s.lineOps.filter (·.launch == id)).map (·.wg)
  wgs.eraseDups.foldl (fun s g => s.cancelOps g) s

/-- A workgroup is killed (14 R325): its threads leave, its operations are cancelled, its barriers break. -/
def State.killWg (s : State) (uid cause : Nat) : State :=
  match s.wg? uid with
  | none => s
  | some g =>
    if g.done then s else
    let s : State := s.modLaunch g.launch fun l =>
      { l with killedWgs := l.killedWgs + 1, cause := if l.cause = 0 then cause else l.cause }
    let s : State := s.cancelOps uid
    let s : State := (s.warps.filter fun w => w.wg == uid).foldl (fun s w => s.releaseWarp w) s
    let s : State := s.modWg uid fun g => { g with killed := true, done := true }
    s.breakBarriers g

/-- What a thread that stands in a record did comes before its launch's completion. -/
def ThreadRecord.past (r : ThreadRecord) (launch now : Nat) : Past := pastAdd r.sight.past (launch * 2 ^ 32 + r.tid.toNat) now

/-- The travel records of a launch, wherever they stand (11 R279, R281). -/
def State.recordsOf (s : State) (id : Nat) : List ThreadRecord :=
  ((s.queues.filter fun q => q.launch == id).flatMap (·.records)) ++ (s.stages.filter fun d => d.launch == id).map (·.record)
  ++ ((s.launches.filter fun l => l.id == id).flatMap fun l => l.segments.flatMap (·.overflow))

/-- The travel records of a launch are removed, and their threads end (11 R279; 19 R401). -/
def State.dropRecords (s : State) (id : Nat) : State :=
  let p := (s.recordsOf id).foldl (fun p r => joinPast p (r.past id s.fresh)) []
  let s : State := { s with queues := s.queues.map (fun q => if q.launch = id then { q with records := [] } else q),
                            stages := s.stages.filter fun d => d.launch != id }
  s.modLaunch id fun l => { l with segments := l.segments.map (fun g => { g with overflow := [] }), endPast := joinPast l.endPast p }

/-- A launch is killed (14 R325): every workgroup, saved ones counted; pending ones are never placed. One that has failed its
validation ends so (14 R331). -/
def State.killLaunch (s : State) (id cause reason : Nat) : State :=
  match s.launch? id with
  | none => s
  | some l =>
    if l.phase = .ended then s
    else if l.phase = .running || l.placed then
      let s : State := s.modLaunch id fun l => { l with cause := if l.cause = 0 then cause else l.cause }
      let s : State := (s.wgs.filter fun g => g.launch == id).foldl (fun s g => s.killWg g.uid cause) s
      let s : State := (l.saved.foldl (fun s v => s.cancelOps v.wg.uid) s).cancelLaunchOps id
      let s : State := s.dropRecords id
      s.modLaunch id fun l =>
        { l with killed := true, failReason := (if l.failReason = 0 then reason else l.failReason),
                 total := l.nextWg, killedWgs := l.killedWgs + l.saved.length, saved := [] }
    else if l.killed then s
    else s.modLaunch id fun l => { l with cancelled := true, total := l.nextWg }

/-- A region is killed (14 R325): every launch of the node and its descendants; its state becomes dead. -/
def State.killRegion (s : State) (node cause reason : Nat) : State :=
  let s : State := (s.launches.filter fun l => s.under l.node node).foldl (fun s l => s.killLaunch l.id cause reason) s
  let dead := (s.regions.filter fun r => s.under r.node node).map (·.node)
  { s with regions := s.regions.map fun r => if dead.contains r.node then { r with st := 3 } else r }

/-- The policy reached from a node, and the node whose policy it is (14 R325, escalation). -/
def State.policyAt (s : State) : Nat → Nat → Nat × Nat
  | 0, _ => (2, 0)
  | f + 1, n =>
    let p := ((s.owner n 7).map (·.policy)).getD 0
    if p = 3 then (if n = 0 then (2, 0) else s.policyAt f ((s.region? n).map (·.parent) |>.getD 0)) else (p, n)

/-- The fault policy of a launch's region applied to a cause (14 R325; 11 R279 for SEGMENT_OVERFLOW). -/
def State.faultPolicy (s : State) (launch wg cause : Nat) : State :=
  match s.launch? launch with
  | none => s
  | some l =>
    let (p, n) := s.policyAt 9 l.node
    let s : State := if p = 0 && cause != 0x29 then s.killWg wg cause
      else if p ≤ 1 then s.killLaunch launch cause 6
      else if n ≠ 0 then s.killRegion n cause 6
      else if l.node ≠ 0 then s.killRegion l.node cause 6
      else s.killLaunch launch cause 6
    s.retire

/-! ### Taking a trap -/

/-- Delivery classes (06 Table 6-5). -/
inductive TrapClass where
  | policy | program | firmware
  deriving DecidableEq, Repr

/-- The class of a cause (06 Table 6-5). -/
def trapClass (c : Nat) : TrapClass :=
  if c = 1 || c = 2 || c = 3 || c = 4 || c = 0x14 || c = 0x29 then .policy
  else if c = 0x10 || c = 0x11 || c = 0x16 then .firmware
  else .program

/-- A split whose lanes run at `f` waits there for firmware (06 R167): a cause with its trap value, or a fetch's fault with its
address. -/
def State.waitFirmware (s : State) (uid e : Nat) (f : PC) (cause : Nat) (va : DWord) : State :=
  s.modWarp uid fun w => w.arrive e f (w.entry e).mask (.firmware cause va) []

def isFirmware : GroupKind → Bool
  | .firmware _ _ => true
  | _ => false

/-- The faulting address of a record (13 Table 13-6). -/
def recordVa (r : BitVec 128) : DWord := BitVec.ofNat 64 (r.toNat / 2 ^ 71)

/-- A split blocks with its PC at `f` (01 R16). -/
def State.block (s : State) (uid e : Nat) (f : PC) (why : Wait) : State :=
  s.modWarp uid fun w => w.setEntry e { w.entry e with st := .block, pc := f, wait := why }

/-- A split enters the user trap entry (06 R164): the trap state holds the entry, cause, PC, value and lanes, and the lanes
run from the entry. The entry is checked as a branch target; failure is ILLEGAL_TARGET. -/
def State.enterHandler (s : State) (w : Warp) (l : Launch) (e : Nat) (f : PC) (cause : Nat) (tval : DWord) : State :=
  let x := w.entry e
  match s.checkTarget w (s.asidOf w) e l.packet.trapEntry with
  | (s, .ok) =>
    let w := { w with trap := { busy := true, entry := e, cause := cause, tpc := f, tval := tval, lanes := x.mask } }
    s.putWarp (w.send e [(l.packet.trapEntry, x.mask)])
  | (s, .illegal) => s.faultPolicy l.id w.wg 4
  | (s, .missing r) => (s.reportWalk r).waitFirmware w.uid e f 0x10 (recordVa r)
  | (s, .noExec) => s.waitFirmware w.uid e f 0x11 l.packet.trapEntry
  | (s, .check) => s.waitFirmware w.uid e f 0x16 (lineOf l.packet.trapEntry)

/-- Split `e` of a warp takes a cause at PC `f` with a trap value (06 R164, R167). A PAGE_FAULT that blocks a split is
`State.block`. -/
def State.takeTrap (s : State) (uid e : Nat) (f : PC) (cause : Nat) (tval : DWord) : State :=
  match s.warp? uid with
  | none => s
  | some w => match s.launch? w.launch with
    | none => s
    | some l =>
      match trapClass cause with
      | .policy => s.faultPolicy l.id w.wg cause
      | .firmware => s.waitFirmware uid e f cause tval
      | .program =>
        if l.packet.trapEntry = 0 then s.faultPolicy l.id w.wg cause
        else if (w.entry e).mask &&& w.trap.lanes ≠ 0 then s.faultPolicy l.id w.wg cause
        else if w.trap.busy then s.block uid e f .trapBusy
        else s.enterHandler w l e f cause tval

/-- The arrived groups of an entry that satisfy `p` leave their wait: the lanes of those with the least key become its running
lanes there, the others are ready at their keys, and so are the lanes that ran (01 R20). -/
def Entry.trapping (x : Entry) (p : Group → Bool) : Option Entry :=
  let gs := x.siding.filter p
  (least (gs.map (·.key.toNat))).map fun n =>
    let k : PC := BitVec.ofNat 64 n
    let sd := (gs.filter (·.key != k)).foldl (fun sd h => addReady sd h.key h.lanes) (x.siding.filter fun g => !p g)
    { x with st := .run, pc := k, mask := (gs.filter (·.key == k)).foldl (fun a g => a ||| g.lanes) 0,
             siding := addReady sd x.pc x.mask, wait := .none }

/-- The arrived groups of some warps that satisfy `p` leave their waits: the splits that do, with the PC of each. -/
def State.leaveWaits (s : State) (ws : List Nat) (p : Group → Bool) : State × List (Nat × Nat × PC) :=
  ws.foldl (fun acc uid => (List.range 8).foldl (fun (acc : State × List (Nat × Nat × PC)) e =>
    match (acc.1.warp? uid).bind fun w => ((w.entry e).trapping p).map fun x => (w.setEntry e x, x.pc) with
    | none => acc
    | some (w, pc) => (acc.1.putWarp w, acc.2 ++ [(uid, e, pc)])) acc) (s, [])

/-- Every split of some warps with an arrived group that satisfies `p` takes a cause, once, at the least key of those groups;
all of them leave their waits first (01 R27; 06 R159; 11 R272; 13 R304). -/
def State.trapSplits (s : State) (ws : List Nat) (p : Group → Bool) (cause : Nat) (tval : Nat → PC → DWord) : State :=
  let (t, hits) := s.leaveWaits ws p
  hits.foldl (fun t h => t.takeTrap h.1 h.2.1 h.2.2 cause (tval h.1 h.2.2)) t

/-- Firmware's decision on the lanes that wait at a key of an entry (06 R167): they issue the instruction again, or the region's
fault policy applies to their cause. -/
def State.decided (s : State) (uid e : Nat) (key : PC) (again : Bool) : State :=
  match s.warp? uid with
  | none => s
  | some w => match (w.entry e).siding.find? fun g => g.arrived && g.key == key && isFirmware g.kind with
    | none => s
    | some g =>
      if again then s.putWarp (w.release (fun h => h == g) (·.key))
      else s.faultPolicy w.launch w.wg (match g.kind with
        | .firmware cause _ => cause
        | _ => 0)

/-- The return from a trap (06 R165): the lanes leave the trap lane set and go to `dest`; an empty set frees the trap state. -/
def Warp.returnFromTrap (w : Warp) (e : Nat) (lanes : Mask) (dest : PC) (others : List (PC × Mask)) : Warp :=
  let left := w.trap.lanes &&& ~~~lanes
  let w := { w with trap := { w.trap with lanes := left, busy := w.trap.busy && left != 0 } }
  w.send e ((dest, lanes) :: others)

end Sys2Proof.Machine
end

