-- ==== Sys2Proof/Machine/Place.lean ====
section
/-! DEFINITION. Machine/Place.lean: resources of a core, placement of warps and workgroups, the logical order of cores, room and
consists (06 R151 to R153, R170 to R174; 11 R264, R265; 13 R295, R299, R300; 14 R344 to R347). -/

namespace Sys2Proof.Machine

/-- The warps on a core, and on one of its schedulers. -/
def State.warpsOn (s : State) (d c : Nat) : List Warp := s.warps.filter fun w => w.die == d && w.core == c

/-- Shared granules charged on a core (06 Table 6-1). -/
def State.sharedOn (s : State) (d c : Nat) : Nat :=
  (s.wgs.filter fun g => g.die == d && g.core == c).foldl (fun a g => a + ceilDiv g.sharedBytes 1024) 0

/-- One warp's place: the scheduler found by the rotation (06 R152) and a free slot there. Which of its free slots the spec
leaves open: the lowest (log 38). `used` are the charges of the core's warps: slot and register count. -/
def placeWarp (used : List (Nat × Nat)) (ptr nreg : Nat) : Option (Nat × Nat) :=
  ((List.range 4).map fun i => (ptr + i) % 4).findSome? fun k =>
    let mine := used.filter fun u => u.1 / 16 % 4 == k
    let regs := mine.foldl (fun a u => a + u.2) 0
    if regs + nreg > 512 then none
    else ((List.range 16).map (· + 16 * k)).find? (fun sl => !mine.any fun u => u.1 == sl) |>.map fun sl => (k, sl)

/-- The slots of g warps and the pointer after them, or none (06 R152). -/
def placeWarps (nreg : Nat) : Nat → List (Nat × Nat) → Nat → Option (List Nat × Nat)
  | 0, _, ptr => some ([], ptr)
  | g + 1, used, ptr => match placeWarp used ptr nreg with
    | none => none
    | some (k, sl) => match placeWarps nreg g (used ++ [(sl, nreg)]) ((k + 1) % 4) with
      | none => none
      | some (r, p) => some (sl :: r, p)

/-- What a core's warps charge: their slots and registers. A warp that has exited while its workgroup has not retired charges
its registers on its scheduler and its thread slots, but no warp slot: it stands at a number past the slots (06 R151; 01 R23).
-/
def State.charges (s : State) (d c : Nat) : List (Nat × Nat) :=
  (s.warpsOn d c).map (fun w => (w.slot, w.nreg))
  ++ (s.wgs.filter fun g => g.die == d && g.core == c && !g.done).flatMap fun g => g.exited.map fun x => (64 + 16 * x.1, x.2)

/-- The slots a workgroup would take on a core, or none where R153 does not accept it. -/
def State.accepts (s : State) (d c warps nreg shared : Nat) : Option (List Nat × Nat) :=
  if s.sharedOn d c + ceilDiv shared 1024 > 224 || (s.charges d c).length + warps > 64 then none
  else placeWarps nreg warps (s.charges d c) (s.core d c).rotation

/-- The enabled cores of a cluster, ascending (11 R263). -/
def State.clusterCores (s : State) (d k : Nat) : List Nat :=
  ((List.range 4).map (· + 4 * k)).filter fun p => (s.die d).harvest.getLsbD p

/-- The logical order of a die (13 R300). -/
def State.logicalOrder (s : State) (d : Nat) : List Nat :=
  (List.range 4).flatMap fun j => (List.range 9).filterMap fun k => (s.clusterCores d k)[j]?

/-- The logical cores of a launch on its dies: (die, core) in order (13 R300). -/
def State.logicalCores (s : State) (dies : List Nat) : List (Nat × Nat) :=
  dies.flatMap fun d => (s.logicalOrder d).map fun c => (d, c)

/-- The logical number of a core of a launch. -/
def State.logicalOf (s : State) (dies : List Nat) (d c : Nat) : Nat :=
  ((s.logicalCores dies).findIdx? (· == (d, c))).getD 0

/-- Warps of a workgroup of a launch: ceil(threads / 32). -/
def Launch.nwarps (l : Launch) : Nat := ceilDiv l.packet.threads 32

/-- Cores of a die that hold work of a node or its descendants (14 R324, Table 14-4). -/
def State.occupied (s : State) (n d : Nat) : List Nat :=
  (List.range 36).filter fun c => s.wgs.any fun g => g.die == d && g.core == c &&
    ((s.launch? g.launch).map fun l => s.under l.node n).getD false

/-- A die takes placements: it is ONLINE (14 R332; 19 R399, R400). -/
def State.online (s : State) (d : Nat) : Bool := d < 8 && (s.die d).st == 0

/-- A core is in a gated cluster (11 R275). -/
def State.gated (s : State) (d c : Nat) : Bool := ((s.die d).clusters.getD (c / 4) {}).gated

/-- Die-store bytes of a node and its descendants on a die (14 R324, DSBYTES). -/
def State.dsUse (s : State) (d n : Nat) : Nat :=
  (s.allocs.filter fun a => a.die == d && s.under a.node n).foldl (fun a x => a + x.size) 0

/-- `more` bytes fit the DSBYTES of a node and its ancestors on a die (14 R324, R332). -/
def State.dsFits (s : State) (node d more : Nat) : Bool :=
  s.fits node (s.dsUse d) (fun n => s.effDs n d * 65536) more

/-- A die's sample ring, which may wrap, holds a byte of [b, b + n) of its store (11 R274; 13 R295). -/
def Die.ringMeets (x : Die) (b n : Nat) : Bool :=
  let ring := 4096 * x.ringBase; let len := 4096 * x.ringSize
  len != 0 && ((b < ring + len && ring < b + n) || b + 2 ^ 26 < ring + len)

/-- The lowest free range of a die's store (13 R295; log 12), clear of the sample ring. -/
def State.dieRange (s : State) (die size : Nat) : Option Nat :=
  let here := s.allocs.filter (·.die == die)
  let clash (b : Nat) : Bool := here.any (fun a => b < a.base + a.size && a.base < b + size) || (s.die die).ringMeets b size
  ((List.range 1024).map (· * 65536)).find? fun b => b + size ≤ 2 ^ 26 && !clash b

/-- A launch has its allocation on a die, or can have it (13 R295). -/
def State.allocReady (s : State) (l : Launch) (d : Nat) : Bool :=
  let size := roundUp l.packet.diestore 65536
  size == 0 || s.allocs.any (fun a => a.die == d && a.launch == some l.id)
  || (s.dsFits l.node d size && (s.dieRange d size).isSome)

/-- A core may hold work of a launch: its die, harvest and power, region budget and exclusion (14 R344). -/
def State.mayHold (s : State) (l : Launch) (d c : Nat) : Bool :=
  s.online d && (s.die d).harvest.getLsbD c && !s.gated d c && s.allocReady l d && !(s.effExcl l.node d).testBit c
  && (s.chain 8 l.node).all fun r =>
       let occ := s.occupied r.node d
       occ.contains c || occ.length + 1 ≤ s.effCores r.node d

/-- No bard instance of a launch has arrivals on a die (13 R302). -/
def State.bardIdle (s : State) (l : Launch) (d : Nat) : Bool :=
  !(s.warps.any fun w => w.launch == l.id && w.die == d && w.arrived.any fun p => isBard p.2.kind)

/-- Room for a workgroup of a launch on a core: the slots it takes (14 R344). -/
def State.room (s : State) (l : Launch) (d c : Nat) : Option (List Nat × Nat) :=
  if s.mayHold l d c && s.bardIdle l d then s.accepts d c l.nwarps l.regs l.shared else none

/-- Where a travel launch's workgroups may be placed: the replicas of the entry segment, in logical order (11 R278). -/
def State.dealCores (s : State) (l : Launch) : List (Nat × Nat) :=
  let all := s.logicalCores l.dies
  if l.packet.travel then
    match l.segments.find? fun g => g.start.toNat ≤ l.entry.toNat && l.entry.toNat < g.start.toNat + g.length with
    | none => []
    | some g => (List.range all.length).filterMap fun c => if g.replicas.contains c then all[c]? else none
  else all

/-- Room for a saved workgroup: a core of the launch's dies, in travel mode the one of its logical number (06 R174; 11 R289). A
workgroup saved from the die already takes part in its barriers; another, or one that starts again, does not, and one that starts
again is placed where a new one may be (R171; 13 R302). -/
def State.saveRoom (s : State) (l : Launch) (v : SavedWg) (d c : Nat) : Option (List Nat × Nat) :=
  let here := !l.packet.travel || if v.restart then (s.dealCores l).contains (d, c) else s.logicalOf l.dies d c == v.wg.logical
  let free := (!v.restart && v.wg.die == d) || s.bardIdle l d
  if s.mayHold l d c && l.dies.contains d && here && free then
    s.accepts d c (if v.restart then l.nwarps else v.warps.length) l.regs l.shared
  else none

/-- The thread ids of warp `index` of workgroup `wg` of a launch (11 Table 11-6). -/
def threadIds (wg index : Nat) : List Word := (List.range 32).map fun i => BitVec.ofNat 32 (wg * 1024 + (32 * index + i) % 1024)

/-- A warp as it starts (01 R14): registers dead, entry 0 RUN at the entry PC. -/
def freshWarp (uid wg launch die core slot index nreg : Nat) (living : Mask) (pc : PC) (clock : Stamp) (now : Nat) : Warp where
  uid := uid
  wg := wg
  launch := launch
  die := die
  core := core
  slot := slot
  index := index
  nreg := nreg
  regs := List.replicate nreg .d
  preds := List.replicate 7 0
  tickets := List.replicate 16 0
  clock := clock
  ssp := 0
  entries := { st := .run, pc := pc, mask := living, lastIssue := now, readySince := now } :: List.replicate 7 {}
  trap := {}
  living := living
  tids := threadIds 0 index

/-- Bytes of a warp's spill area (08 R202). -/
def spillBytes (l : Nat) : Nat := roundUp (32 * l) 256

/-- A die-store allocation of a launch is made, zeroed, when its work is first placed on the die (13 R295, R296). -/
def State.allocate (s : State) (die : Nat) (launch : Option Nat) (node size : Nat) : State :=
  if size = 0 then s
  else
    match s.dieRange die size with
    | none => s
    | some b =>
      let s : State := s.wipe (dieStoreKey die b) (dieStoreKey die b + size)
      { s with allocs := s.allocs ++ [{ die := die, launch := launch, node := node, base := b, size := size }] }

/-- The launch allocation on a die exists, made if it is not there yet. -/
def State.ensureAlloc (s : State) (l : Launch) (d : Nat) : State :=
  if s.allocs.any fun a => a.die == d && a.launch == some l.id then s
  else s.allocate d (some l.id) l.node (roundUp l.packet.diestore 65536)

/-- A replica core's segment: its lines that can be fetched, as they stand in memory (11 R278, R289). -/
def State.loadSegment (s : State) (l : Launch) (d c : Nat) : State :=
  let segs : List Segment := match (s.logicalCores l.dies).findIdx? (· == (d, c)) with
    | none => []
    | some n => l.segments.filter fun (g : Segment) => g.replicas.contains n
  let asid := s.effAsid l.node
  let lines := segs.flatMap fun (g : Segment) => (List.range (ceilDiv g.length 64)).filterMap fun i =>
    let va : DWord := BitVec.ofNat 64 (g.start.toNat / 64 * 64 + 64 * i)
    match (s.xlate d asid va .fetch).2 with
    | .ok pa _ => some (CodeLine.mk (d * 36 + c) (va.toNat / 64) (s.lineAt (pa / 64 * 64)))
    | _ => none
  s.modLaunch l.id fun l => { l with code := l.code.filter (fun x => x.core != d * 36 + c) ++ lines }

/-- A travel launch's replica cores load their segments before any of its warps is placed (11 R278). -/
def State.pinSegments (s : State) (l : Launch) : State :=
  if l.packet.travel && !l.placed then (s.logicalCores l.dies).foldl (fun s p => s.loadSegment l p.1 p.2) s else s

/-- A workgroup placed on a core with the slots it takes (06 R152; 01 R13, R14; 08 R201, R203). What lies before
the launch's threads in happens-before comes along (14 R333, R334, R342; 20 R414; log 3). -/
def State.placeWg (s : State) (l : Launch) (k d c : Nat) (slots : List Nat) (ptr : Nat) (stamp : Stamp) : State :=
  let s : State := (s.ensureAlloc l d).pinSegments l
  let uid := s.fresh
  let csize := max l.packet.consist 1
  let g : Workgroup :=
    { uid := uid, launch := l.id, index := k, consist := k / csize, member := k % csize, die := d, core := c,
      logical := s.logicalOf l.dies d c, nwarps := slots.length, threads := l.packet.threads, nreg := l.regs,
      sharedBytes := roundUp l.shared 1024 }
  let s : State := s.wipe (sharedKey uid 0) (sharedKey uid (2 ^ 20))
  let warps := slots.zipIdx.map fun p =>
    let w := freshWarp (uid + 1 + p.2) uid l.id d c p.1 p.2 l.regs (firstLanes (l.packet.threads - 32 * p.2)) l.entry stamp s.cycle
    { w.lookAll w.living l.past with tids := threadIds k p.2 }
  let s : State := slots.foldl (fun s sl => s.wipe (s.frameKey d c sl) (s.frameKey d c sl + spillBytes l.spill)) s
  let s : State := { s with wgs := s.wgs ++ [g], warps := s.warps ++ warps, fresh := uid + 1 + slots.length }
  s.modCore d c fun x => { x with rotation := ptr }

/-- A split in BLOCK is in RUN at its instruction (06 R170). -/
def Entry.unblock (x : Entry) : Entry := if x.st = .block then { x with st := .run, wait := .none } else x

/-- A saved workgroup placed again with its warps' state: what was saved in BLOCK issues again (06 R170, R174). -/
def State.replaceWg (s : State) (l : Launch) (v : SavedWg) (d c : Nat) (slots : List Nat) (ptr : Nat) : State :=
  let s : State := s.ensureAlloc l d
  let g := { v.wg with die := d, core := c, logical := s.logicalOf l.dies d c, exited := [] }
  let warps := (v.warps.zip slots).map fun p =>
    { p.1 with die := d, core := c, slot := p.2,
               mloop := p.1.mloop.map (fun l => { l with resumed := true }),
               entries := (p.1.entries.map Entry.unblock).map fun x =>
                 if x.st = .run then { x with lastIssue := s.cycle, readySince := s.cycle } else x }
  let s : State := (slots.zip v.spill).foldl (fun s p =>
    let k := s.frameKey d c p.1
    let s : State := s.wipe k (k + spillBytes l.spill)
    { s with mem := p.2.foldl (fun m b => Memory.set m (k + b.1) b.2) s.mem }) s
  let s : State := { s with wgs := s.wgs ++ [g], warps := s.warps ++ warps }
  s.modCore d c fun x => { x with rotation := ptr }

/-- A saved workgroup placed on a core: restored, or started again from entry (06 R171; 16 R357). -/
def State.placeSaved (s : State) (l : Launch) (v : SavedWg) (d c : Nat) (slots : List Nat) (ptr : Nat) : State :=
  if v.restart then s.placeWg l v.wg.index d c slots ptr (max l.stamp s.tick) else s.replaceWg l v d c slots ptr

/-- The .ds address of a die-store key (08 R206), as an engine record holds it. -/
def State.dsAddress (s : State) (k : Nat) : Nat :=
  let d := (k - 2 ^ 52) / 2 ^ 26; let a := (k - 2 ^ 52) % 2 ^ 26
  match s.allocs.find? fun x => x.die == d && x.base ≤ a && a < x.base + x.size with
  | some x => a - x.base + (if x.launch.isNone then 2 ^ 31 else 0)
  | none => 0

/-- The key of a .ds address on a die. -/
def State.dsKey (s : State) (l : Launch) (d ea : Nat) : Option Nat :=
  (s.allocs.find? fun a => a.die == d && a.size > ea % 2 ^ 31
    && (if ea ≥ 2 ^ 31 then a.launch.isNone && a.node == l.node else a.launch == some l.id)).map fun a =>
      dieStoreKey d (a.base + ea % 2 ^ 31)

/-- Range entries of an operation in a space moved up. -/
def Warp.moveRanges (w : Warp) (op : Nat) (spc : Space) (up : Nat) : Warp :=
  { w with ranges := w.ranges.map fun r =>
      if r.op = op && r.space = spc then { r with first := r.first + up, last := r.last + up } else r }

/-- A PENDING ticket value that names an operation, in every register that holds it: those of warps and of saved warps name what
it is reissued as (01 R38; 06 R173). -/
def State.renameTicket (s : State) (named : DWord → Bool) (t : DWord) : State :=
  let rename (w : Warp) : Warp := { w with tickets := w.tickets.map fun x => if tkState x = 1 && named x then t else x }
  { s with warps := s.warps.map rename,
           launches := s.launches.map fun l =>
             { l with saved := l.saved.map fun v => { v with warps := v.warps.map rename } } }

/-- An engine record is reissued for its warp, where it now is (06 R173; 18 R392): under its ticket registers, which stay
PENDING; a .ds place is found afresh, and a copy or catch that finds none ends FAILED, FAULT. A station that has its 16 operations
takes a catch later (18 R383). -/
def State.reissue (s : State) (l : Launch) (r : EngineRecord) : State :=
  match r with
  | .copy c => match s.warp? c.warp with
    | none => s
    | some w =>
      let seq := ((s.die w.die).engines.getD c.unit {}).seq
      let s : State := s.modDie w.die fun d => { d with engines := modAt d.engines c.unit fun e => { e with seq := (e.seq + 1) % 2 ^ 40 } }
      let src := match c.sspace, c.src with
        | .ds, .key ea => s.dsKey l w.die ea
        | _, .key k => some k
        | _, .virt _ _ => some 0
      let c' := { c with die := w.die, seq := seq, src := (match c.src with
                           | .key _ => .key (src.getD 0)
                           | p => p),
                         srcEnd := if c.sspace = .ds then src.getD 0 + c.srcEnd else c.srcEnd,
                         ending := if src.isNone then 2 else 0, reason := if src.isNone then 6 else 0, started := src.isNone }
      let w := if c.sspace = .ds then w.moveRanges c.id .ds (src.getD 0) else w
      { s.putWarp w with copies := s.copies ++ [c'] }.renameTicket c.named (ticketVal 1 0 1 w.die c.unit seq)
  | .catchTile o => match s.wg? o.wg with
    | none => s
    | some g =>
      let seq := (s.die g.die).station
      let s : State := s.modDie g.die fun d => { d with station := (d.station + 1) % 2 ^ 40 }
      let find (spc : Space) (k : Nat) : Option Nat := if spc = .ds then s.dsKey l g.die k else some k
      let place := find o.space o.place.start
      let barrier := o.barrier.bind (find o.bspace)
      let core := ((s.wg? ((place.getD 0 - 2 ^ 60) / 2 ^ 20)).map (·.core)).getD g.core
      let o' := { o with die := g.die, seq := seq, place := .key (place.getD 0), core := core, barrier := barrier, stage := .held }
      let t : State := { s with lineOps := s.lineOps ++ [o'] }.renameTicket o.named (ticketVal 1 0 2 g.die 0 seq)
      let t : State := if o.space = .ds then t.modWarp o.warp fun w => w.moveRanges o.id .ds (place.getD 0) else t
      if place.isNone || barrier.isNone then t.endLineOps (fun x => x.id == o.id) 2 6 else t

/-- The operation of an engine record is the one a ticket names. -/
def EngineRecord.named : EngineRecord → DWord → Bool
  | .copy c => c.named
  | .catchTile o => o.named

/-- What follows the placing of a saved workgroup: its engine records are reissued, and the PENDING tickets that name no recorded
operation are resolved by their units (01 R38; 18 R392); firmware's decisions apply (06 R170). -/
def State.revive (s : State) (l : Launch) (v : SavedWg) : State :=
  let kept := l.saved.flatMap (·.engines)
  let s : State := v.engines.foldl (fun s r => s.reissue l r) s
  let due := v.warps.flatMap fun w => (List.range 16).filterMap fun n =>
    if tkState (w.ticket n) = 1 && !kept.any (·.named (w.ticket n)) && !s.resolving.contains (w.uid, n) then some (w.uid, n) else none
  let s : State := { s with resolving := s.resolving ++ due }
  let s := v.decisions.foldl (fun s d => s.decided d.1 d.2.1 d.2.2.1 d.2.2.2) s
  if v.fatal then s.faultPolicy l.id v.wg.uid 0x10 else s

/-- A save area's VERSION is the one negotiated for interface 2 (06 R174; 20 R427); a workgroup that starts again has none
(R171). -/
def State.versionOk (s : State) (v : SavedWg) : Bool := v.restart || s.negotiated.getD 2 0 == v.version

/-- A launch whose save area is refused completes FAILED, FAULT (06 R174); its workgroups count as none that a policy, a region
kill or a lost die removed. -/
def State.refuseSave (s : State) (l : Launch) : State :=
  (s.killLaunch l.id 0 6).modLaunch l.id fun m => { m with killedWgs := l.killedWgs }

/-- The launch after saved workgroups are placed. -/
def Launch.unsaved (l : Launch) (vs : List SavedWg) (now : Nat) : Launch :=
  { l with saved := l.saved.filter (fun v => !vs.contains v), starved := now, hinted := false }

/-- The restore of a travel launch: every replica core reloads its segment, and its queue and its stage are restored (11 R289). -/
def State.unsuspend (s : State) (l : Launch) : State :=
  if l.suspended then
    ((s.logicalCores l.dies).foldl (fun s p => s.loadSegment l p.1 p.2) s).modLaunch l.id fun l => { l with suspended := false, blocks := [] }
  else s

/-- One saved workgroup of a launch on a core. -/
def State.restoreWg (s : State) (l : Launch) (v : SavedWg) (d c : Nat) : Option State :=
  if !s.versionOk v then some (s.refuseSave l)
  else (s.saveRoom l v d c).map fun r =>
    (((s.unsuspend l).placeSaved l v d c r.1 r.2).revive l v).modLaunch l.id fun l => l.unsaved [v] s.cycle

/-- Members on the enabled cores of a cluster, each assigned in member order (11 R265): `room` finds a core's slots, `put` places
a member. The places, and the state with them. -/
def State.assign {α : Type} (cores : List Nat) (room : State → α → Nat → Option (List Nat × Nat))
    (put : State → α → Nat → List Nat → Nat → State) (s : State) (members : List (Nat × α)) : Option State :=
  members.foldl (fun acc m => acc.bind fun t =>
    let n := cores.length
    let order := (List.range n).filterMap fun i => cores[(m.1 + i) % n]?
    (order.findSome? fun p => (room t m.2 p).map fun r => (p, r)).map fun x => put t m.2 x.1 x.2.1 x.2.2) (some s)

/-- Consist `i`, whole, on a cluster (11 R265; 14 R346). -/
def State.placeConsist (s : State) (l : Launch) (i d cl : Nat) (stamp : Stamp) : Option State :=
  let csize := l.packet.consist
  let n := min csize (l.total - i * csize)
  s.assign (s.clusterCores d cl) (fun t _ p => t.room l d p) (fun t k p slots ptr => t.placeWg l k d p slots ptr stamp)
    ((List.range n).map fun j => (j, i * csize + j))

/-- The saved members of a consist restored together in one cluster (06 R174). -/
def State.restoreConsist (s : State) (l : Launch) (consist d cl : Nat) : Option State :=
  let vs := l.saved.filter fun v => v.wg.consist == consist
  if vs.any fun v => !s.versionOk v then some (s.refuseSave l)
  else (s.assign (s.clusterCores d cl) (fun t v p => t.saveRoom l v d p) (fun t v p slots ptr => t.placeSaved l v d p slots ptr)
      (vs.map fun v => (v.wg.member, v))).map fun t =>
    (vs.foldl (fun t v => t.revive l v) t).modLaunch l.id fun l => l.unsaved vs s.cycle

/-- The stamp a workgroup placed now starts with (16 R357). -/
def State.placeStamp (s : State) (l : Launch) : Stamp := if l.placed then l.stamp else max l.stamp s.tick

/-- The launch after its next never-placed workgroup, or consist, is placed. -/
def Launch.took (l : Launch) (n : Nat) (stamp : Stamp) (now : Nat) : Launch :=
  { l with nextWg := l.nextWg + n, placed := true, stamp := stamp, starved := now, hinted := false }

/-- One workgroup or saved workgroup of a launch placed on a core, if it has room. Saved ones come first (14 R338). -/
def State.offerCore (s : State) (id d c : Nat) : Option State :=
  match s.launch? id with
  | none => none
  | some l =>
    let stamp := s.placeStamp l
    match l.saved with
    | v :: _ => if l.packet.travel then l.saved.findSome? fun v => s.restoreWg l v d c else s.restoreWg l v d c
    | [] =>
      if l.nextWg ≥ l.total then none
      else match s.room l d c with
        | none => none
        | some (slots, ptr) =>
          some ((s.placeWg l l.nextWg d c slots ptr stamp).modLaunch id fun l => l.took 1 stamp s.cycle)

/-- The next consist of a launch placed on a cluster, if it fits; saved ones first. -/
def State.offerCluster (s : State) (id d cl : Nat) : Option State :=
  match s.launch? id with
  | none => none
  | some l =>
    let stamp := s.placeStamp l
    match l.saved with
    | v :: _ => s.restoreConsist l v.wg.consist d cl
    | [] =>
      if l.nextWg ≥ l.total then none
      else
        let n := min l.packet.consist (l.total - l.nextWg)
        (s.placeConsist l (l.nextWg / l.packet.consist) d cl stamp).map fun s => s.modLaunch id fun l => l.took n stamp s.cycle

/-- A launch with work to place that R333 lets be placed. -/
def State.mayPlace (s : State) (l : Launch) : Bool :=
  l.phase == .running && !l.killed && !l.halted && (l.nextWg < l.total || !l.saved.isEmpty)
  && (!l.packet.resident || l.placed)
  && ((s.region? l.node).map (·.st)).getD 0 == 1

/-- A list in ascending order of a key, equal keys in their order. -/
def insertBy {α : Type} (key : α → Nat) (x : α) : List α → List α
  | [] => [x]
  | y :: r => if key x < key y then x :: y :: r else y :: insertBy key x r
def sortBy {α : Type} (key : α → Nat) (l : List α) : List α := l.foldl (fun a x => insertBy key x a) []

end Sys2Proof.Machine
end

