-- ==== Sys2Proof/Machine/Travel.lean ====
section
/-! DEFINITION. Machine/Travel.lean: travelling-thread mode: segments, departure, thread records, arrival queues, warp
formation, segq's word (11 R276 to R288). -/

namespace Sys2Proof.Machine

/-- The segment that holds a PC, with its number (11 R276). -/
def Launch.segmentOf (l : Launch) (pc : PC) : Option (Nat × Segment) :=
  (l.segments.zipIdx.find? fun p => p.1.start.toNat ≤ pc.toNat && pc.toNat < p.1.start.toNat + p.1.length).map
    fun p => (p.2, p.1)

/-- The segment pinned on a core for a launch (11 R278). -/
def State.pinnedOn (s : State) (l : Launch) (d c : Nat) : Option Nat :=
  match (s.logicalCores l.dies).findIdx? (· == (d, c)) with
  | none => none
  | some n => l.segments.findIdx? fun g => g.replicas.contains n

/-- The parts of a split that leave the core's segment (11 R279). -/
def State.leaving (s : State) (l : Launch) (w : Warp) (parts : List (PC × Mask)) : List (PC × Mask) :=
  if l.packet.travel then
    let here := s.pinnedOn l w.die w.core
    parts.filter fun p => p.2 != 0 && (l.segmentOf p.1).map (·.1) != here
  else []

/-- The check made before an instruction whose lanes depart takes effect: the cause and trap value (11 R279). -/
def State.departCheck (s : State) (l : Launch) (w : Warp) (parts : List (PC × Mask)) : Option (Nat × DWord) :=
  let out := s.leaving l w parts
  match out.find? fun p => (l.segmentOf p.1).isNone with
  | some p => some (4, p.1)
  | none => out.findSome? fun p => match l.segmentOf p.1 with
    | none => none
    | some (n, g) =>
      let live := (w.regs.drop g.limit).any (fun r => !r.isDead)
        || s.accesses.any (fun a => a.warp == w.uid && a.holds.any (g.limit ≤ ·))
      if live then some (0x29, BitVec.ofNat 64 n) else none

/-- The thread record of a departing lane (11 R280). -/
def Warp.threadRecord (w : Warp) (lane : Nat) (pc : PC) (limit : Nat) : ThreadRecord where
  nextPc := pc
  clock := w.clock
  shipped := BitVec.ofNat 64 ((List.range limit).foldl (fun a n => if (w.reg n).isDead then a else a + 2 ^ n) 0)
  tid := w.tids.getD lane 0
  preds := BitVec.ofNat 8 ((List.range 7).foldl (fun a n => if w.pred (n + 1) lane then a + 2 ^ (n + 1) else a) 0)
  regs := (List.range limit).map fun n => w.lane n lane
  entered := 0
  sight := w.sight lane

/-- Lanes depart: an exit for the warp, a place in the core's departure stage (11 R279). The record is finished by the replies
that the lane still waits for (`Departure.take`). -/
def State.depart (s : State) (l : Launch) (w : Warp) (out : List (PC × Mask)) : State :=
  let recs := out.flatMap fun p => match l.segmentOf p.1 with
    | none => []
    | some (n, g) => (lanesOf p.2).map fun i =>
      Departure.mk l.id w.die w.core w.uid i n (w.threadRecord i p.1 g.limit) s.cycle
  { s with stages := s.stages ++ recs }

/-- The running lanes of a split go to their next PCs; in a travel launch those that leave the segment depart. -/
def State.advance (s : State) (uid e : Nat) (parts : List (PC × Mask)) : State :=
  match s.warp? uid with
  | none => s
  | some w => match s.launch? w.launch with
    | none => s.putWarp (w.send e parts)
    | some l =>
      let out := s.leaving l w parts
      if out.isEmpty then s.putWarp (w.send e parts)
      else
        let m := out.foldl (fun a p => a ||| p.2) 0
        (s.depart l w out).putWarp ((w.send e parts).drop m)

/-- segq's status word (11 Table 11-8). -/
def State.segWord (s : State) (l : Launch) (n : Nat) : Word :=
  match l.packet.travel, l.segments[n]? with
  | true, some g =>
    let q := (s.queues.filter fun q => q.launch == l.id && q.seg == n).foldl (fun a q => a + q.records.length) 0
    BitVec.ofNat 32 (n * 2 ^ 26 + min q 2047 * 2 ^ 15 + min g.overflow.length 0x7FFF)
  | _, _ => 0xFFFFFFFF

/-- A record appended to a segment's queues or overflow area; none when there is no room (11 R279, R281). -/
def State.ship (s : State) (l : Launch) (seg : Nat) (r : ThreadRecord) : Option State :=
  match l.segments[seg]? with
  | none => none
  | some g =>
    let qs := sortBy (fun q => q.records.length * 2 ^ 16 + q.logical)
      (s.queues.filter fun q => q.launch == l.id && q.seg == seg)
    match qs.head? with
    | none => none
    | some q =>
      if q.records.length < g.qdepth && g.overflow.isEmpty then
        some { s with queues := s.queues.map fun x =>
          if x = q then { x with records := x.records ++ [{ r with entered := s.cycle }] } else x }
      else if g.overflow.length < g.ocap then
        some (s.modLaunch l.id fun l =>
          { l with segments := modAt l.segments seg fun g => { g with overflow := g.overflow ++ [r] } })
      else none

/-- The oldest overflow records of a segment move into its queues while one has room (11 R281). -/
def State.moveOverflow (id seg : Nat) : Nat → State → State
  | 0, s => s
  | f + 1, s => match s.launch? id with
    | none => s
    | some l => match l.segments[seg]? with
      | none => s
      | some g => match g.overflow with
        | [] => s
        | r :: rest =>
          let qs := sortBy (fun q => q.records.length * 2 ^ 16 + q.logical)
            (s.queues.filter fun q => q.launch == id && q.seg == seg)
          match qs.head? with
          | none => s
          | some q =>
            if q.records.length < g.qdepth then
              let s : State := { s with queues := s.queues.map fun x =>
                                   if x = q then { x with records := x.records ++ [{ r with entered := s.cycle }] } else x }
              State.moveOverflow id seg f (s.modLaunch id fun l =>
                { l with segments := modAt l.segments seg fun g => { g with overflow := rest } })
            else s

/-- The PC whose oldest record comes first among those that may form a warp (11 R282): 32 records, or 64 cycles. -/
def formable (q : ArrivalQueue) (now : Nat) : Option PC :=
  (q.records.map (·.nextPc)).find? fun p =>
    let rs := q.records.filter (·.nextPc == p)
    rs.length ≥ 32 || (match rs.head? with
      | some r => r.entered + 64 ≤ now
      | none => false)

/-- A warp formed from the oldest records of a PC (11 R282, R283), once its die has the launch's allocation, or room for it (13
R296). -/
def State.formWarp (s : State) (q : ArrivalQueue) (l : Launch) (p : PC) : Option State :=
  if !s.allocReady l q.die then none else match l.segments[q.seg]?, s.accepts q.die q.core 1 l.regs 0 with
  | some g, some ([slot], ptr) =>
    let s : State := s.ensureAlloc l q.die
    let rs := (q.records.filter (·.nextPc == p)).take 32
    let left := q.records.filter fun r => !rs.contains r
    let uid := s.fresh
    let living := firstLanes rs.length
    let clock := rs.foldl (fun a r => max a r.clock) 0
    let wg : Workgroup :=
      { uid := uid, launch := l.id, index := 0, consist := 2 ^ 40 + uid, member := 0, die := q.die, core := q.core,
        logical := q.logical, nwarps := 1, threads := rs.length, nreg := l.regs, sharedBytes := 0, formed := true }
    let reg (n : Nat) : VReg :=
      if n < g.limit && rs.any (fun r => r.shipped.getLsbD n) then
        .g ((List.range 32).map fun i => match rs[i]? with
          | some r => if r.shipped.getLsbD n then r.regs.getD n 0 else 0
          | none => 0)
      else .d
    let w := { freshWarp (uid + 1) uid l.id q.die q.core slot 0 l.regs living p clock s.cycle with
               regs := (List.range l.regs).map reg,
               preds := (List.range 7).map (fun n => maskOf fun i => match rs[i]? with
                 | some r => r.preds.getLsbD (n + 1)
                 | none => false),
               sights := rs.zipIdx.map (fun r => (r.2, r.1.sight)),
               formed := true, tids := rs.map (·.tid) }
    let s : State := { s with queues := s.queues.map (fun x => if x = q then { x with records := left } else x),
                              wgs := s.wgs ++ [wg], warps := s.warps ++ [w], fresh := uid + 2 }
    let s : State := s.wipe (s.frameKey q.die q.core slot) (s.frameKey q.die q.core slot + spillBytes l.spill)
    some (s.modCore q.die q.core fun x => { x with rotation := ptr })
  | _, _ => none

end Sys2Proof.Machine
end

