-- ==== Sys2Proof/Machine/Settle.lean ====
section
/-! DEFINITION. Machine/Settle.lean: what comes about inside a step once its own effect is done: collectives complete or
trap, barriers complete or mismatch, threads retire, freed room refills (01 R20, R23, R26, R27; 06 R157 to R160; 11 R266,
R270, R272; 13 R302, R304; 14 R339, R340, R347). -/

namespace Sys2Proof.Machine

/-! ### Collectives -/

/-- The collective arrivals at a PC, over all entries of a warp. -/
def Warp.collectivesAt (w : Warp) (c : PC) : List (Nat × Group × Collective) :=
  w.arrived.filterMap fun p => match p.2.kind with
    | .collective k => if p.2.key = c then some (p.1, p.2, k) else none
    | _ => none

/-- The PCs with collective arrivals. -/
def Warp.collectivePcs (w : Warp) : List PC :=
  (w.arrived.filterMap fun p => match p.2.kind with
    | .collective _ => some p.2.key
    | _ => none).eraseDups

/-- The member mask of the instance at a PC: the living lanes for `.all` (04 R102). -/
def Warp.instanceMask (w : Warp) (gs : List (Nat × Group × Collective)) : Mask :=
  match gs with
  | [] => 0
  | (_, _, k) :: _ => if k.all then w.living else k.m

/-- Lanes arrived. -/
def arrivedLanes (gs : List (Nat × Group × Collective)) : Mask := gs.foldl (fun a g => a ||| g.2.1.lanes) 0

/-- The arrivals cover the member mask (01 R26). -/
def Warp.covered (w : Warp) (gs : List (Nat × Group × Collective)) : Bool :=
  !gs.isEmpty && (w.instanceMask gs &&& ~~~(arrivedLanes gs)) == 0

/-- A matrix instruction waits for its slice once covered (07 R186); the others execute at once. -/
def isMatrix : Instr → Bool
  | .mma _ | .mloop _ | .mldf _ | .mstf _ => true
  | _ => false

/-- The value a contributing lane brought. -/
def contribOf (gs : List (Nat × Group × Collective)) (lane : Nat) : DWord :=
  match gs.find? fun g => g.2.2.contrib.getLsbD lane with
  | some g => g.2.2.vals.getD lane 0
  | none => 0

/-- The registers that a poll, fold or peer reads with a last-use mark, and those it writes (01 R35; 04 R102). -/
def collectiveMarks : Instr → List Nat
  | .poll f => maskMark f
  | .fold f => (if f.lu.getLsbD 0 then [f.sa.toNat] else []) ++ maskMark f
  | .peer f => (if f.lu.getLsbD 0 then dstRegs f.sa.toNat f.type.wide else []) ++ maskMark f
  | _ => []
where maskMark (f : FormV) : List Nat := if f.lu.getLsbD 2 then [f.sc.toNat] else []
def collectiveWrites : Instr → List Nat
  | .poll f => if f.opsAt 85 84 = 2 then [f.dst.toNat] else []
  | .fold f | .peer f => [f.dst.toNat]
  | _ => []

/-- poll, fold and peer executed for their contributing lanes (04 R103 to R106). The marks of their sources act where a split has
arrived with a full effective mask (01 R34, R35). -/
def Warp.runCollective (w : Warp) (gs : List (Nat × Group × Collective)) : Warp :=
  match gs with
  | [] => w
  | (_, _, k) :: _ =>
    let c := gs.foldl (fun a g => a ||| g.2.2.contrib) 0
    let full := c == w.living
    let v := contribOf gs
    let ls := lanesOf c
    let w := w.kill (gs.any fun g => g.2.2.eff == w.living) (collectiveMarks k.i) (collectiveWrites k.i)
    match k.i with
    | .poll f =>
      let b := maskOf fun i => c.getLsbD i && v i != 0
      match f.opsAt 85 84 with
      | 0 => w.setPred f.dst.toNat c (if b != 0 then BitVec.allOnes 32 else 0)
      | 1 => w.setPred f.dst.toNat c (if b == c then BitVec.allOnes 32 else 0)
      | 2 => w.setReg f.dst.toNat c full (.u b)
      | _ => w.setPred f.dst.toNat c (if b == 0 || b == c then BitVec.allOnes 32 else 0)
    | .fold f =>
      match foldInt (f.opsAt 86 84) f.type f.sat (ls.map fun i => f.type.read (v i)) with
      | none => w
      | some r => w.setReg f.dst.toNat c full (.u (lo32 r))
    | .peer f =>
      let same (i : Nat) : Mask := maskOf fun j => c.getLsbD j && v j == v i
      if f.opsAt 84 84 = 0 then w.setLanes f.dst.toNat c same
      else
        let all := ls.all fun i => v i == v (ls.headD 0)
        w.setReg f.dst.toNat c full (.u (if all then c else 0))
    | _ => w

/-- The first collective instance that can complete. -/
def State.readyCollective (s : State) : Option State :=
  s.warps.findSome? fun w => w.collectivePcs.findSome? fun c =>
    let gs := w.collectivesAt c
    if w.covered gs && !(gs.any fun g => isMatrix g.2.2.i) then
      let w := w.runCollective gs
      some (s.putWarp (w.release (fun g => gs.any fun h => h.2.1 == g) fun g => nextSlot g.key))
    else none

/-- The trap value of COLLECTIVE_EXITED (01 R27). -/
def collectiveTval (missing : Mask) (reason : Nat) : DWord := BitVec.ofNat 64 (missing.toNat + reason * 2 ^ 32)

/-- The group waits at a collective. -/
def isCollective : GroupKind → Bool
  | .collective _ => true
  | _ => false

/-- The missing mask of the instance at a PC (01 R27). -/
def Warp.missing (w : Warp) (c : PC) : Mask :=
  let gs := w.collectivesAt c
  w.instanceMask gs &&& ~~~(arrivedLanes gs)

/-- Every split with a group arrived at a PC takes COLLECTIVE_EXITED (01 R27). -/
def State.trapCollective (s : State) (w : Warp) (c : PC) (reason : Nat) : State :=
  s.trapSplits [w.uid] (fun g => g.arrived && isCollective g.kind && g.key == c) 7 fun _ c => collectiveTval (w.missing c) reason

/-- Reason 0: M names a lane that has exited (01 Table 1-4). -/
def State.exitedCollective (s : State) : Option State :=
  s.warps.findSome? fun w => w.collectivePcs.findSome? fun c =>
    let m := w.instanceMask (w.collectivesAt c)
    if m &&& ~~~w.living ≠ 0 then some (s.trapCollective w c 0) else none

/-- Reason 1: nothing can release an arrived group of the warp (01 Table 1-4). -/
def State.stuckCollective (s : State) : Option State :=
  s.warps.findSome? fun w =>
    let pcs := w.collectivePcs
    let idle := w.entries.all fun x => x.st == .free || x.st == .jwait || x.st == .cwait
    let covered := pcs.any fun c => w.covered (w.collectivesAt c)
    let firmware := w.arrived.any fun p => isFirmware p.2.kind
    if pcs.isEmpty || !idle || covered || firmware then none
    else some (s.trapSplits [w.uid] (fun g => g.arrived && isCollective g.kind) 7 fun _ c => collectiveTval (w.missing c) 1)

/-! ### Barriers -/

/-- Every living lane of every warp has arrived, and there is one. -/
def allWaiting (ws : List Warp) (is : GroupKind → Bool) : Bool :=
  !ws.isEmpty && ws.all fun w => w.living != 0 && w.waiting is == w.living

/-- No workgroup of a launch is halted or saved: its package barriers count every unretired workgroup (14 R339). -/
def Launch.whole (l : Launch) : Bool := !l.halted && l.saved.isEmpty
/-- None that takes part in a die's barriers is: a workgroup saved from the die does, one that starts again is not placed (13
R302). -/
def State.wholeOn (s : State) (id d : Nat) : Bool :=
  ((s.launch? id).map fun l => !l.halted && !l.saved.any fun v => !v.restart && v.wg.die == d).getD true

/-- The first workgroup, consist or die barrier that completes; a package barrier that completes is marked for its release
(06 R157; 11 R270; 13 R302; 14 R339). -/
def State.readyBarrier (s : State) : Option State :=
  let ns := List.range 8
  (s.wgs.findSome? fun g => ns.findSome? fun n =>
    if allWaiting (s.warps.filter (·.wg == g.uid)) (isBar n) then some (s.releaseBarrier (·.wg == g.uid) (isBar n) true)
    else none)
  <|> (s.wgs.findSome? fun g => ns.findSome? fun n =>
    let scope := s.inConsist g.launch g.consist
    if allWaiting (s.warps.filter scope) (isBarcN n) then
      let broken := ((s.launch? g.launch).map fun l => l.barcBroken.contains g.consist).getD false
      some (s.releaseBarrier scope (isBarcN n) (!broken))
    else none)
  <|> (s.wgs.findSome? fun g => ns.findSome? fun n =>
    let scope (w : Warp) : Bool := w.launch == g.launch && w.die == g.die
    if s.wholeOn g.launch g.die && allWaiting (s.warps.filter scope) (isBardN n) then
      let broken := ((s.launch? g.launch).map fun l => l.bardBroken.contains g.die).getD false
      some (s.releaseBarrier scope (isBardN n) (!broken))
    else none)
  <|> (s.launches.findSome? fun l => ns.findSome? fun n =>
    if l.whole && !l.pbarReady.contains n && allWaiting (s.warps.filter (·.launch == l.id)) (isPbarN n) then
      some (s.modLaunch l.id fun l => { l with pbarReady := l.pbarReady ++ [n] })
    else none)

/-- The mask of instances with arrivals among warps. -/
def instances (ws : List Warp) (is : Nat → GroupKind → Bool) : Nat :=
  (List.range 8).foldl (fun a n => if ws.any fun w => w.waiting (is n) != 0 then a + 2 ^ n else a) 0

/-- BAR_MISMATCH (06 R159; 11 R272; 13 R304; 14 R340): every split of the warps that waits at a barrier of the kinds takes
it; the groups leave their instances first, and the lowest-keyed group of a split is the one that traps. -/
def State.mismatch (s : State) (ws : List Warp) (is : GroupKind → Bool) (level : Nat) : State :=
  let tval (uid : Nat) : Nat := match s.warp? uid with
    | none => 0
    | some w =>
      let mine := ws.filter (·.wg == w.wg)
      let cons := ws.filter (s.inConsist w.launch (((s.wg? w.wg).map (·.consist)).getD 0))
      let dies := ws.filter (·.die == w.die)
      instances mine isBar + (if level ≥ 1 then instances cons isBarcN * 2 ^ 8 else 0)
        + (if level ≥ 2 then instances dies isBardN * 2 ^ 16 else 0) + (if level ≥ 3 then instances ws isPbarN * 2 ^ 24 else 0)
  s.trapSplits (ws.map (·.uid)) (fun g => g.arrived && is g.kind) 0x17 fun uid _ => BitVec.ofNat 64 (tval uid)

def isAnyBar : GroupKind → Bool
  | .bar _ => true
  | _ => false

/-- The widest scope whose threads all wait at barriers that cannot complete. -/
def State.barMismatch (s : State) : Option State :=
  let k1 (k : GroupKind) : Bool := isAnyBar k || isBarc k
  let k2 (k : GroupKind) : Bool := k1 k || isBard k
  let k3 (k : GroupKind) : Bool := k2 k || isPbar k
  (s.launches.findSome? fun l =>
    let ws := s.warps.filter (·.launch == l.id)
    if l.whole && l.pbarReady.isEmpty && allWaiting ws k3 then some (s.mismatch ws k3 3) else none)
  <|> (s.wgs.findSome? fun g =>
    let ws := s.warps.filter fun w => w.launch == g.launch && w.die == g.die
    if s.wholeOn g.launch g.die && allWaiting ws k2 then some (s.mismatch ws k2 2) else none)
  <|> (s.wgs.findSome? fun g =>
    let ws := s.warps.filter (s.inConsist g.launch g.consist)
    if allWaiting ws k1 then some (s.mismatch ws k1 1) else none)
  <|> (s.wgs.findSome? fun g =>
    let ws := s.warps.filter (·.wg == g.uid)
    if allWaiting ws isAnyBar then some (s.mismatch ws isAnyBar 0) else none)

/-- A split that waited for the trap state issues again once it is free (06 R164). -/
def State.freeTrap (s : State) : Option State :=
  (s.warps.find? fun w => !w.trap.busy && w.entries.any fun x => x.st == .block && x.wait == .trapBusy).map fun w =>
    s.putWarp { w with entries := w.entries.map fun x =>
      if x.st = .block && x.wait = .trapBusy then { x with st := .run, wait := .none } else x }

/-- A split whose wait operand has left PENDING goes on at the next PC, an acquire (01 R39; 09 R254). -/
def State.freeTicket (s : State) : Option State :=
  s.warps.findSome? fun w => (List.range 8).findSome? fun e =>
    let x := w.entry e
    match x.st, x.wait with
    | .block, .ticket n eff =>
      if tkState (w.ticket n) = 1 then none
      else some ((s.putWarp ((w.setEntry e { x with st := .run, wait := .none }).sawEnd eff n (s.endRecord? (w.ticket n)))).advance w.uid e
        [(nextSlot x.pc, x.mask)])
    | _, _ => none

/-- An alight or replace whose coach, or reservation, is gone ends FAILED, FAULT at that moment (18 R386, R389);
so does a board that waits to write one. -/
def State.orphan (s : State) : Option State :=
  (s.lineOps.find? fun o => o.op != .catchTile && o.stage != .waiting
      && !s.coaches.any fun c => c.fresh == o.coach).map fun o => s.endLineOps (fun x => x.id == o.id) 2 6

/-- A split of a travel launch that runs at a PC outside its core's segment, sent there by a trap or a fusion: its lanes depart,
or the launch takes the fault policy of what R279 checks (11 R279). -/
def State.strayed (s : State) : Option State :=
  s.warps.findSome? fun w => ((s.launch? w.launch).filter (·.packet.travel)).bind fun l =>
    (List.range 8).findSome? fun e =>
      let x := w.entry e
      if x.st != .run || (s.leaving l w [(x.pc, x.mask)]).isEmpty then none
      else some (match s.departCheck l w [(x.pc, x.mask)] with
        | some (cause, _) => s.faultPolicy l.id w.wg cause
        | none => s.advance w.uid e [(x.pc, x.mask)])

/-- A warp or workgroup that ought to be gone is there. -/
def State.retirable (s : State) : Option State :=
  let due := s.warps.any (·.living == 0) || s.wgs.any (fun g => !g.done && !s.warps.any fun w => w.wg == g.uid)
  if due then some s.retire else none

/-- One consequence taken. -/
def State.consequence (s : State) : Option State :=
  s.retirable <|> s.exitedCollective <|> s.readyCollective <|> s.readyBarrier <|> s.stuckCollective <|> s.barMismatch
  <|> s.freeTrap <|> s.orphan <|> s.freeTicket <|> s.strayed

/-- All of them. -/
def State.settleAll : Nat → State → State
  | 0, s => s
  | f + 1, s => match s.consequence with
    | none => s
    | some t => State.settleAll f t

/-- Enough turns for the waits of one package. -/
def settleTurns : Nat := 4096

/-- The consequences of a step. -/
def State.stabilise (t : State) : State := (t.settleAll settleTurns).retireConsists

end Sys2Proof.Machine
end

