-- ==== Sys2Proof/Machine/Operands.lean ====
section
/-! DEFINITION. Machine/Operands.lean: what an instruction sees when it issues, every operand form with its routes and tags,
the ways an instruction ends (complete, trap, wait), and the skeleton every register instruction shares (01 R30 to R44; 02
R50 to R63, R67; 06 R154, R164). -/

namespace Sys2Proof.Machine

/-- The outcome of a step of this machine. -/
abbrev Result := Host.Outcome State Fault Refusal

/-- What an issuing instruction sees: its warp, launch, workgroup, entry, PC, running lanes, effective lanes and the second
instruction of its pair (01 R34). -/
structure Ctx where
  w      : Warp
  l      : Launch
  g      : Workgroup
  e      : Nat
  pc     : PC
  run    : Mask
  eff    : Mask
  second : Option Instr
  deriving DecidableEq, Repr

/-- The effective mask is full (01 R34). -/
def Ctx.full (c : Ctx) : Bool := c.eff == c.w.living
/-- The lowest effective lane. -/
def Ctx.low (c : Ctx) : Nat := (lowLane c.eff).getD 0

/-- The effective mask of a guard (01 R34, R36). -/
def effMask (w : Warp) (run : Mask) (guard : Nat × Bool) : Mask :=
  run &&& (if guard.2 then ~~~(w.predMask guard.1) else w.predMask guard.1)

/-- The context of the instruction at the issue stage; none when no split is issuing. -/
def State.ctx? (s : State) (guard : Nat × Bool) : Option Ctx :=
  match s.issue with
  | none => none
  | some i => match s.warp? i.warp with
    | none => none
    | some w => match s.launch? w.launch, s.wg? w.wg with
      | some l, some g =>
        let x := w.entry i.entry
        some { w := w, l := l, g := g, e := i.entry, pc := i.pc, run := x.mask, eff := effMask w x.mask guard,
               second := i.second }
      | _, _ => none

/-! ### How an instruction ends -/

/-- The registers the first of a pair has made D. -/
def Warp.madeDead (v w : Warp) : List Nat := (List.range v.regs.length).filter fun n => !(v.reg n).isDead && (w.reg n).isDead

/-- The warp after the first of a pair, with the registers that it makes D as they were: the second still reads them
(02 R67). -/
def Warp.keepDead (v w : Warp) : Warp :=
  { w with regs := w.regs.zipIdx.map fun p => if p.1.isDead then v.reg p.2 else p.1 }

/-- The warp with the instruction's effect goes on: the second of a pair issues next, or the lanes go to their next PCs
(02 R67; 01 R17). A split that stops running brings its consequences about. -/
def State.finishTo (s : State) (c : Ctx) (w : Warp) (parts : List (PC × Mask)) : State :=
  let s1 : State := s.putWarp w
  match c.second with
  | some i =>
    let s2 : State := s.putWarp ((c.w.keepDead w).setEntry c.e { w.entry c.e with pc := nextSlot c.pc })
    { s2 with issue := some { warp := w.uid, entry := c.e, pc := nextSlot c.pc, instr := i, second := none,
                              marked := c.w.madeDead w } }
  | none =>
    let t := { s1 with issue := none }.advance w.uid c.e parts
    let running := match t.warp? w.uid with
      | some v => (v.entry c.e).st == .run && v.living == c.w.living
      | none => false
    if running && t.warps.length == s.warps.length then t else t.stabilise

/-- Sequential flow. -/
def State.finish (s : State) (c : Ctx) (w : Warp) : State := s.finishTo c w [(nextSlot c.pc, c.run)]

/-- A step's own consequences: the issue stage is empty, and what the change brings about happens. -/
def State.done (t : State) : State := ({ t with issue := none } : State).stabilise

/-- The instruction traps: nothing of it remains (00 R11; 06 R164). -/
def State.trapHere (s : State) (c : Ctx) (cause : Nat) (tval : DWord) : State :=
  State.done ({ s with issue := none }.takeTrap c.w.uid c.e c.pc cause tval)

/-- The instruction waits and issues again later: the split stays where it is (06 R154; 09 R245). -/
def State.wait (s : State) : State := { s with issue := none }

/-- The split blocks at the instruction (01 R16). The second instruction of a pair whose first blocks issues alone once the
first is complete (log 37). -/
def State.blockHere (s : State) (c : Ctx) (why : Wait) : State :=
  State.done ({ s with issue := none }.block c.w.uid c.e c.pc why)

/-! ### Sources -/

/-- The lowest-numbered register read that is D under the dead-read check (01 R32); none under an empty effective mask,
which reads nothing. -/
def Ctx.deadRead (c : Ctx) (reads : List Nat) : Option Nat :=
  if c.l.packet.deadCheck && c.eff != 0 then least (reads.filter fun n => (c.w.reg n).isDead) else none

/-- The source lane a reader's lane selects through a route (01 R41, R43). -/
def routeLane (w : Warp) (r : Route) (i : Nat) : Nat :=
  match r with
  | .none | .reserved => i
  | .rot k => (i + k) % 32
  | .bc k => k
  | .bfly k => i ^^^ k
  | .ix k => (w.lane k i).toNat % 32

/-- A value seen through a route by lane `i`: zero, or the reader's own, for an unavailable lane (01 R42). -/
def routed (w : Warp) (run : Mask) (r : Route) (fill : Bool) (f : Nat → DWord) (i : Nat) : DWord :=
  let j := routeLane w r i
  if run.getLsbD j then f j else if fill then f i else 0

/-- A register or pair source: number, width, route, fill. -/
structure Src where
  n    : Nat
  wide : Bool := false
  rt   : Route := .none
  fill : Bool := false
  deriving DecidableEq, Repr

/-- The registers a source reads, its route index among them (01 R32, R43). -/
def Src.regs (r : Src) : List Nat :=
  (if r.wide then [r.n, r.n + 1] else [r.n]) ++ (match r.rt with
    | .ix k => [k]
    | _ => [])

/-- Its registers, without the index. -/
def Src.named (r : Src) : List Nat := if r.wide then [r.n, r.n + 1] else [r.n]

/-- The unrouted value of lane `i`. -/
def Src.own (r : Src) (w : Warp) (i : Nat) : DWord := if r.wide then w.pair r.n i else (w.lane r.n i).setWidth 64

/-- The value of lane `i` through the route. -/
def Src.val (r : Src) (c : Ctx) (i : Nat) : DWord :=
  match r.rt with
  | .none => r.own c.w i
  | rt => routed c.w c.run rt r.fill (r.own c.w) i

/-- How a source counts for tags (01 R33). -/
inductive Count where
  | u
  | a (base stride : Word)
  | g
  deriving DecidableEq, Repr

/-- How a register counts unrouted: D as U with value 0. -/
def VReg.count : VReg → Count
  | .u _ | .d => .u
  | .a b s => .a b s
  | .g _ => .g

/-- How register `n` counts through a route (01 R33). -/
def countReg (c : Ctx) (rt : Route) (fill : Bool) (n : Nat) : Count :=
  match rt with
  | .none => (c.w.reg n).count
  | .bc k =>
    if c.run != c.w.living then .g
    else if c.run.getLsbD k then .u
    else if fill then (c.w.reg n).count else .u
  | rt =>
    if c.run != c.w.living then .g
    else if (c.w.reg n).countsU && (fill || (lanesOf c.w.living).all fun i => c.run.getLsbD (routeLane c.w rt i)) then .u
    else .g

/-- How a source counts: a pair counts U when both its registers do. -/
def Src.count (r : Src) (c : Ctx) : Count :=
  if r.wide then
    if countReg c r.rt r.fill r.n == .u && countReg c r.rt r.fill (r.n + 1) == .u then .u else .g
  else countReg c r.rt r.fill r.n

/-- The base and stride of a counted source, U having stride 0 and its value as base (01 R33). -/
def Src.affine (r : Src) (c : Ctx) : Option (Word × Word) :=
  match r.count c with
  | .u => some (lo32 (r.val c c.low), 0)
  | .a b s => some (b, s)
  | .g => none

/-- A data operand: a source, or an immediate, which counts as U (01 R33; 02 R57). -/
inductive Opd where
  | src (r : Src)
  | imm (v : DWord)
  deriving DecidableEq, Repr

def Opd.val : Opd → Ctx → Nat → DWord
  | .src r, c, i => r.val c i
  | .imm v, _, _ => v
def Opd.count : Opd → Ctx → Count
  | .src r, c => r.count c
  | .imm _, _ => .u
def Opd.affine : Opd → Ctx → Option (Word × Word)
  | .src r, c => r.affine c
  | .imm v, _ => some (lo32 v, 0)
def Opd.regs : Opd → List Nat
  | .src r => r.regs
  | .imm _ => []

/-- Every operand counts as U (01 R33). -/
def allU (c : Ctx) (os : List Opd) : Bool := os.all fun o => o.count c == .u

/-! ### Results -/

/-- A result written: U when it is uniform, A for an affine one, else G; one register or a pair (01 R33, R34). -/
def Warp.writeResult (w : Warp) (dst : Nat) (wide : Bool) (eff : Mask) (full uni : Bool) (aff : Option (Word × Word))
    (f : Nat → DWord) : Warp :=
  if eff = 0 then w
  else
    let low := f ((lowLane eff).getD 0)
    let w := if full && uni then w.setReg dst eff true (.u (lo32 low))
      else match full, aff with
        | true, some (b, s) => w.setReg dst eff true (.a b s)
        | _, _ => w.setLanes dst eff fun i => lo32 (f i)
    if wide then
      if full && uni then w.setReg (dst + 1) eff true (.u (hi32 low)) else w.setLanes (dst + 1) eff fun i => hi32 (f i)
    else w

/-- The skeleton of an instruction that reads and writes only its warp's registers: dead reads trap, the body makes the new
warp or a cause with its trap value, last-use marks apply, the split goes on (01 R30 to R36). -/
def State.alu (s : State) (guard : Nat × Bool) (reads marks writes : List Nat)
    (body : Ctx → Except (Nat × DWord) Warp) : Result :=
  match s.ctx? guard with
  | none => .next s
  | some c => match c.deadRead reads with
    | some n => .next (s.trapHere c 6 (BitVec.ofNat 64 n))
    | none => match body c with
      | .error (cause, tv) => .next (s.trapHere c cause tv)
      | .ok w => .next (s.finish c (w.kill c.full marks writes))

/-! ### Formats V and I -/

end Sys2Proof.Machine

namespace Sys2Proof
open Sys2Proof.Machine

def FormV.guard (f : FormV) : Nat × Bool := (f.pred.toNat, f.pneg)
def FormI.guard (f : FormI) : Nat × Bool := (f.pred.toNat, f.pneg)
def FormM.guard (f : FormM) : Nat × Bool := (f.pred.toNat, f.pneg)
def FormB.guard (f : FormB) : Nat × Bool := (f.pred.toNat, f.pneg)
def FormX.guard (f : FormX) : Nat × Bool := (f.pred.toNat, f.pneg)

/-- Sources A, B and C of format V (02 R52). -/
def FormV.a (f : FormV) (wide : Bool) : Src := ⟨f.sa.toNat, wide, .ofByte f.rta, f.fill.getLsbD 0⟩
def FormV.b (f : FormV) (wide : Bool) : Src := ⟨f.sb.toNat, wide, .ofByte f.rtb, f.fill.getLsbD 1⟩
def FormV.c (f : FormV) (wide : Bool) : Src := ⟨f.sc.toNat, wide, .ofByte f.rtc, f.fill.getLsbD 2⟩
/-- Source A of format I. -/
def FormI.a (f : FormI) (wide : Bool) : Src := ⟨f.sa.toNat, wide, .ofByte f.rta, f.fill⟩

/-- The registers that last-use marks name (01 R35): the marked ones among the sources. -/
def FormV.marked (f : FormV) (srcs : List (Nat × Src)) : List Nat :=
  srcs.flatMap fun p => if f.lu.getLsbD p.1 then p.2.named else []
def FormI.marked (f : FormI) (r : Src) : List Nat := if f.lu then r.named else []
def FormX.marked (f : FormX) (srcs : List (Nat × Nat × Nat)) : List Nat :=
  srcs.flatMap fun p => if f.lu.getLsbD p.1 then (List.range p.2.2).map (· + p.2.1) else []

/-- A binary32 widened exactly to binary64 (02 Table 2-6): subnormals become normal, NaN fractions keep their top bits. -/
def widen32 (v : Word) : DWord :=
  let n := v.toNat
  let sign := n / 2 ^ 31; let e := n / 2 ^ 23 % 256; let m := n % 2 ^ 23
  if e = 255 then BitVec.ofNat 64 (sign * 2 ^ 63 + 2047 * 2 ^ 52 + m * 2 ^ 29)
  else if e = 0 then
    if m = 0 then BitVec.ofNat 64 (sign * 2 ^ 63)
    else
      let k := m.log2
      BitVec.ofNat 64 (sign * 2 ^ 63 + (k + 874) * 2 ^ 52 + (m - 2 ^ k) * 2 ^ (52 - k))
  else BitVec.ofNat 64 (sign * 2 ^ 63 + (e + 896) * 2 ^ 52 + m * 2 ^ 29)

/-- The operand value of an immediate (02 R58, Table 2-6). -/
def FormI.immVal (f : FormI) : DWord :=
  match f.type with
  | .i64 => f.imm.signExtend 64
  | .f64 => widen32 f.imm
  | _ => f.imm.setWidth 64

end Sys2Proof
end

