-- ==== Sys2Proof/Machine/Control.lean ====
section
/-! DEFINITION. Machine/Control.lean: the meanings of class 0x0, of tret and bkpt, and of step (04 R94 to R101; 06 R165,
R166; 14 R341). -/

namespace Sys2Proof.Machine

/-- nop (02 R50): its guard fields are ignored. -/
def execNop (_f : FormV) (s : State) : Result := s.alu (0, false) [] [] [] fun c => .ok c.w

/-! ### Branches -/

/-- A target of format B: 64 × offset from the own line, with a slot (02 R61). -/
def targetOf (pc : PC) (off : Word) (slot : BitVec 3) : PC := lineOf pc + off.signExtend 64 * 64 + slot.setWidth 64

/-- The PCs a branch names checked in order; the first that fails, with its outcome (02 R49, R448). -/
def State.checkTargets (s : State) (c : Ctx) : List PC → State × Option (PC × Target)
  | [] => (s, none)
  | p :: r => match s.checkTarget c.w (s.asidOf c.w) c.e p with
    | (s, .ok) => s.checkTargets c r
    | (s, t) => (s, some (p, t))

/-- A branch that cannot move its lanes: ILLEGAL_TARGET, a wait for firmware, PROTECTION or INSTR_CHECK (02 R49, R448). -/
def State.badTarget (s : State) (c : Ctx) (p : PC) : Target → State
  | .missing r => State.done (({ s with issue := none }.reportWalk r).waitFirmware c.w.uid c.e c.pc 0x10 (recordVa r))
  | .noExec => s.trapHere c 0x11 p
  | .check => s.trapHere c 0x16 (lineOf p)
  | _ => s.trapHere c 4 p

/-- The lanes of a branch move: departures of a travel launch are checked first, then the split table follows R17 and R18. -/
def State.branchTo (s : State) (c : Ctx) (w : Warp) (parts : List (PC × Mask)) (jb : PC) : State :=
  match s.departCheck c.l c.w parts with
  | some (cause, tv) => s.trapHere c cause tv
  | none =>
    let out := s.leaving c.l c.w parts
    let m := out.foldl (fun a p => a ||| p.2) 0
    let t := (s.depart c.l w out).putWarp (let v := w.branch c.e parts jb s.cycle; if m = 0 then v else v.drop m)
    let t : State := { t with issue := none }
    match t.warp? w.uid with
    | some v => if (v.entry c.e).st == .run && m == 0 then t else t.stabilise
    | none => t.stabilise

/-- A branch of format B to the PCs `dest` gives the effective lanes, others going on; `checks` are the PCs checked before
any lane moves (04 R94 to R96). In a travel launch a PC in no segment is found first (11 R279; log 19). -/
def State.branch (s : State) (c : Ctx) (w : Warp) (checks : List PC) (dest : List (PC × Mask)) (jb : PC) : Result :=
  match if c.l.packet.travel then dest.find? fun p => p.2 != 0 && (c.l.segmentOf p.1).isNone else none with
  | some (p, _) => .next (s.trapHere c 4 p)
  | none => match s.checkTargets c checks with
    | (s, some (p, t)) => .next (s.badTarget c p t)
    | (s, none) => .next (s.branchTo c w (dest ++ [(nextSlot c.pc, c.run &&& ~~~c.eff)]) jb)

/-- The guard is other than unnegated p0: the branch can be divergent (02 R62). -/
def FormB.guarded (f : FormB) : Bool := f.pred != 0 || f.pneg

/-- bra (04 R94). -/
def execBra (f : FormB) (s : State) : Result :=
  match s.ctx? f.guard with
  | none => .next s
  | some c =>
    let t := targetOf c.pc f.toff f.tslot; let j := targetOf c.pc f.joff f.jslot
    s.branch c c.w (t :: if FormB.guarded f then [j] else []) [(t, c.eff)] j

/-- call (04 R95): the return PC goes into the link pair, then the lanes branch as bra. -/
def execCall (f : FormB) (s : State) : Result :=
  match s.ctx? f.guard with
  | none => .next s
  | some c =>
    let t := targetOf c.pc f.toff f.tslot; let j := targetOf c.pc f.joff f.jslot; let r := nextSlot c.pc
    let w := c.w.writeResult f.lnk.toNat true c.eff c.full true none fun _ => r
    s.branch c w (t :: r :: if FormB.guarded f then [j] else []) [(t, c.eff)] j

/-- A branch to the PC each effective lane reads from the link pair (04 R96). The reconvergence point is checked with the
encoding (02 Table 2-13, order 8), before a dead read and the PCs read. -/
def State.indirect (s : State) (f : FormB) : Result :=
  match s.ctx? f.guard with
  | none => .next s
  | some c =>
    let n := f.lnk.toNat
    let j := targetOf c.pc f.joff f.jslot
    match s.checkTargets c [j] with
    | (s, some (p, t)) => .next (s.badTarget c p t)
    | (s, none) => match c.deadRead [n, n + 1] with
      | some d => .next (s.trapHere c 6 (BitVec.ofNat 64 d))
      | none =>
        let pcs := ((lanesOf c.eff).map fun i => c.w.pair n i).eraseDups
        let w := c.w.kill c.full (if f.lulnk then [n, n + 1] else []) []
        s.branch c w pcs (pcs.map fun p => (p, maskOf fun i => c.eff.getLsbD i && c.w.pair n i == p)) j

/-- brx and ret (04 R96). -/
def execBrx (f : FormB) (s : State) : Result := s.indirect f
def execRet (f : FormB) (s : State) : Result := s.indirect f

/-! ### exit, step, yield, sleep -/

/-- The effective lanes leave the warp; running lanes that are guarded off go on (01 R23; 04 R97). -/
def State.leave (s : State) (c : Ctx) : State :=
  let off := c.run &&& ~~~c.eff
  match s.departCheck c.l c.w [(nextSlot c.pc, off)] with
  | some (cause, tv) => s.trapHere c cause tv
  | none =>
    let t := ({ s with issue := none }.advance c.w.uid c.e [(nextSlot c.pc, off)]).dropLanes c.w.uid c.eff
    t.stabilise

/-- exit (04 R97). -/
def execExit (f : FormV) (s : State) : Result :=
  match s.ctx? f.guard with
  | none => .next s
  | some c => .next (if c.eff = 0 then s.finish c c.w else s.leave c)

/-- step (14 R341): the lanes leave as by exit and mark their workgroup stepped. In a travel launch it acts as exit (R342). -/
def execStep (f : FormV) (s : State) : Result :=
  match s.ctx? f.guard with
  | none => .next s
  | some c =>
    if c.eff = 0 then .next (s.finish c c.w)
    else if c.l.packet.travel then .next (s.leave c)
    else
      let s' := (s.modWg c.g.uid fun g => { g with stepped := true }).modLaunch c.l.id fun l => { l with stepped := true }
      .next (s'.leave c)

/-- The split after yield (04 R98): the yielding lanes stand aside for the unarrived groups of other wait kinds, the least of
which runs; where there is none they go on, with the lanes that were guarded off, by R17: an older YIELD group with a lower key
goes before them, which R98's third step does not say (log 41). A YIELD group whose key is the PC that another group then runs at
stays apart until that one's next instruction: the spec does not say whether R17 joins them at once (log 38).
-/
def Entry.yieldTo (x : Entry) (next : PC) (eff off : Mask) : Entry :=
  let yielded (g : Group) : Bool := !g.arrived && g.kind == .yielded
  let others := x.siding.filter fun g => !yielded g
  if (readyGroups others).isEmpty then Entry.settle settleFuel { x with mask := 0, siding := addReady x.siding next (eff ||| off) }
  else
    let y := Entry.settle settleFuel { x with mask := 0, siding := others }
    let aside (sd : List Group) : List Group := addReady (sd ++ x.siding.filter yielded) next eff .yielded
    if y.st = .run then
      if y.pc = next then { y with mask := y.mask ||| off, siding := aside y.siding }
      else { y with siding := aside (addReady y.siding next off) }
    else Entry.settle settleFuel { y with siding := aside (addReady y.siding next off), j := x.j, jout := x.jout }

/-- yield (04 R98). -/
def execYield (f : FormV) (s : State) : Result :=
  match s.ctx? f.guard with
  | none => .next s
  | some c =>
    let next := nextSlot c.pc
    if c.eff = 0 || c.l.packet.travel && !(s.leaving c.l c.w [(next, c.run)]).isEmpty then .next (s.finish c c.w)
    else
      let w := c.w.setEntry c.e ((c.w.entry c.e).yieldTo next c.eff (c.run &&& ~~~c.eff))
      .next (State.done (s.putWarp (Warp.fuse 8 w)))

/-- sleep (04 R99): the split blocks for n cycles with its lanes at the next PC. -/
def execSleep (f : FormI) (s : State) : Result :=
  match s.ctx? f.guard with
  | none => .next s
  | some c =>
    if c.eff = 0 || f.imm = 0 then .next (s.finish c c.w)
    else .next (State.done (s.block c.w.uid c.e (nextSlot c.pc) (.sleep (s.cycle + f.imm.toNat))))

/-! ### trap, bkpt, tret -/

/-- The effective lanes take a cause; guarded-off lanes go to the next PC, departing if it leaves their segment (04 R100; 06
R166; 11 R279). -/
def State.softTrap (s : State) (c : Ctx) (cause : Nat) (tv : DWord) : State :=
  if c.eff = 0 then s.finish c c.w
  else
    let off := c.run &&& ~~~c.eff; let next := nextSlot c.pc
    match s.departCheck c.l c.w [(next, off)] with
    | some (k, v) => s.trapHere c k v
    | none =>
      let x := c.w.entry c.e
      if (s.leaving c.l c.w [(next, off)]).isEmpty then
        let x' : Entry := { x with mask := c.eff, siding := addReady x.siding next off }
        (s.putWarp (c.w.setEntry c.e x')).trapHere c cause tv
      else ((s.depart c.l c.w [(next, off)]).putWarp (c.w.drop off)).trapHere c cause tv

/-- trap (04 R100): SOFTWARE with the immediate as trap value. -/
def execTrap (f : FormI) (s : State) : Result :=
  match s.ctx? f.guard with
  | none => .next s
  | some c => .next (s.softTrap c 0x20 (f.imm.setWidth 64))

/-- bkpt (06 R166): BREAKPOINT with its code. -/
def execBkpt (f : FormV) (s : State) : Result :=
  match s.ctx? f.guard with
  | none => .next s
  | some c => .next (s.softTrap c 0x21 (f.ops.setWidth 64))

/-- tret (06 R165): the lanes leave the trap lane set and continue at the trapped PC, or after it. A lane outside the set
makes the split take SOFTWARE. -/
def execTret (f : FormV) (s : State) : Result :=
  match s.ctx? f.guard with
  | none => .next s
  | some c =>
    if c.eff &&& ~~~c.w.trap.lanes ≠ 0 then .next (s.trapHere c 0x20 0x100000000)
    else
      let dest := if f.opsAt 84 84 = 1 then nextSlot c.w.trap.tpc else c.w.trap.tpc
      match s.departCheck c.l c.w [(dest, c.eff)] with
      | some (cause, tv) => .next (s.trapHere c cause tv)
      | none =>
        let out := s.leaving c.l c.w [(dest, c.eff)]
        let w := c.w.returnFromTrap c.e c.eff dest [(nextSlot c.pc, c.run &&& ~~~c.eff)]
        let w := if out.isEmpty then w else w.drop c.eff
        .next (State.done ((s.depart c.l c.w out).putWarp w))

end Sys2Proof.Machine
end

