-- ==== Sys2Proof/Machine/Collective.lean ====
section
/-! DEFINITION. Machine/Collective.lean: arrival at a collective (01 R26, R27; 04 R102, R103), the meanings of class 0x1. -/

namespace Sys2Proof.Machine

/-- A split arrives at a collective (01 R26, R27): a member mask of 0 completes at once and writes nothing, even where an
instance with another mask is pending, of which R26 says the one and Table 1-4's reason 2 the other (log 38); a different mask
at a pending instance takes reason 2; otherwise the running lanes become an arrived group with what they bring, and what that
completes or ends happens. The second instruction of a pair whose first arrives here issues alone once the first is complete
(log 37). -/
def State.arriveAt (s : State) (c : Ctx) (m : Mask) (all : Bool) (vals : Nat → DWord) (i : Instr) : State :=
  if m = 0 && !all then s.finish c (c.w.kill c.full (collectiveMarks i) (collectiveWrites i))
  else
    let pending := c.w.collectivesAt c.pc
    let pm := c.w.instanceMask pending
    if !pending.isEmpty && !all && pm != m then
      s.trapHere c 7 (collectiveTval (pm &&& ~~~(arrivedLanes pending ||| c.run)) 2)
    else
      let k : Collective := { m := m, all := all, eff := c.eff, contrib := c.eff &&& m, vals := (List.range 32).map vals, i := i,
                              since := s.cycle }
      State.done (s.putWarp (c.w.arrive c.e c.pc c.run (.collective k) []))

/-- The member mask of a class 0x1 collective: the living lanes, or SC in the lowest running lane (04 R102). -/
def FormV.members (f : FormV) (c : Ctx) : Mask :=
  if f.opsAt 95 95 = 1 then c.w.living else c.w.lane f.sc.toNat ((lowLane c.run).getD 0)

/-- The register that holds the member mask. -/
def FormV.memberReg (f : FormV) : List Nat := if f.opsAt 95 95 = 1 then [] else [f.sc.toNat]

/-- A class 0x1 collective: its dead reads, its member mask, its values. A dead mask register is read whatever the guard. -/
def State.collective (s : State) (f : FormV) (reads : List Nat) (vals : Ctx → Nat → DWord) (i : Instr) : Result :=
  match s.ctx? f.guard with
  | none => .next s
  | some c =>
    let dead := if c.l.packet.deadCheck then
        least (((FormV.memberReg f) ++ if c.eff = 0 then [] else reads).filter fun n => (c.w.reg n).isDead) else none
    match dead with
    | some n => .next (s.trapHere c 6 (BitVec.ofNat 64 n))
    | none => .next (s.arriveAt c (FormV.members f c) (f.opsAt 95 95 == 1) (vals c) i)

/-- poll (04 R104): the bit of ps, after negation. -/
def execPoll (f : FormV) (s : State) : Result :=
  s.collective f [] (fun c i => if c.w.pred f.sa.toNat i != (f.opsAt 86 86 == 1) then 1 else 0) (.poll f)

/-- fold (04 R105). -/
def execFold (f : FormV) (s : State) : Result :=
  let a := f.a false
  s.collective f a.regs (fun c i => a.val c i) (.fold f)

/-- peer (04 R106). -/
def execPeer (f : FormV) (s : State) : Result :=
  let a := f.a f.type.wide
  s.collective f a.regs (fun c i => a.val c i) (.peer f)

/-- pcomb (04 R107). -/
def execPcomb (f : FormV) (s : State) : Result :=
  s.alu f.guard [] [] [] fun c =>
    let bit (p : BitVec 8) (i : Nat) : Nat := if c.w.pred p.toNat i then 1 else 0
    .ok (c.w.setPred f.dst.toNat c.eff
      (maskOf fun i => (f.opsAt 91 84).testBit (bit f.sa i + 2 * bit f.sb i + 4 * bit f.sc i)))

end Sys2Proof.Machine
end

