-- ==== Sys2Proof/Machine/Access.lean ====
section
/-! DEFINITION. Machine/Access.lean: effective addresses, the spaces, the data-time checks, the range scoreboard, space clocks
and what an access must wait for (08 R197 to R207, R211 to R213; 09 R245; 16 R354, R356). -/

namespace Sys2Proof.Machine

/-- The effective address of a lane (08 R198): mod 2^64 for .gl, mod 2^32 otherwise. -/
def effAddr (c : Ctx) (gl : Bool) (adr : Nat) (off : Word) (i : Nat) : DWord :=
  if gl then c.w.pair adr i + off.signExtend 64 else (c.w.lane adr i + off).setWidth 64

/-- The consist members of a workgroup (11 R264). -/
def State.member? (s : State) (g : Workgroup) (m : Nat) : Option Workgroup :=
  s.wgs.find? fun h => h.launch == g.launch && h.consist == g.consist && h.member == m

/-- The allocation a .ds address selects: the launch's or the region's on the thread's die (08 R206). -/
def State.alloc? (s : State) (l : Launch) (die : Nat) (region : Bool) : Option Alloc :=
  s.allocs.find? fun a => a.die == die && (if region then a.launch.isNone && a.node == l.node else a.launch == some l.id)

/-- Offsets of a launch allocation taken by overflow areas on a die (11 R278). -/
def State.inOverflow (s : State) (l : Launch) (die off n : Nat) : Bool :=
  l.segments.any fun g =>
    let size := roundUp (32 + 4 * g.limit) 32
    let home := ((s.logicalCores l.dies)[g.replicas.headD 0]?.map (·.1)).getD 8
    home == die && g.ocap != 0 && off < g.ooff + g.ocap * size && g.ooff < off + n

/-- The key of byte `b` of lane `i`'s spill view (08 R202, R203). -/
def State.spillKey (s : State) (w : Warp) (i b : Nat) : Nat :=
  s.frameKey w.die w.core w.slot + 128 * (b / 4) + 4 * i + b % 4

/-- `n` bytes from an address of .sh, .co or .ds: their first key, or the cause and trap value (08 R204 to R206). -/
def State.resolve (s : State) (c : Ctx) (spc : Space) (ea n : Nat) : Except (Nat × DWord) Nat :=
  let tv : DWord := BitVec.ofNat 64 ea
  match spc with
  | .sh => if ea + n ≤ c.g.sharedBytes then .ok (sharedKey c.g.uid ea) else .error (9, tv)
  | .co =>
    if ea / 2 ^ 24 ≠ 0 then .error (9, tv)
    else match s.member? c.g (ea / 2 ^ 20 % 16) with
      | none => .error (9, tv)
      | some g =>
        let f := ea % 2 ^ 20
        if f + n > g.sharedBytes then .error (9, tv)
        else if g.killed then .error (0x15, tv)
        else .ok (sharedKey g.uid f)
  | .ds =>
    let off := ea % 2 ^ 31
    let region := ea ≥ 2 ^ 31
    match s.alloc? c.l c.w.die region with
    | none => .error (9, tv)
    | some a =>
      if off + n > a.size || (!region && s.inOverflow c.l c.w.die off n) then .error (9, tv)
      else .ok (dieStoreKey c.w.die (a.base + off))
  | _ => .error (9, tv)

/-- The thread offset of a .sp access: signed (08 R202). -/
def spillOffset (w : Warp) (ea : Nat) : Int := (w.ssp.toNat / 32 : Nat) + (BitVec.ofNat 32 ea).toInt

/-- The keys of the bytes a lane touches in a space other than .gl, or the cause and trap value (08 Table 8-1, orders 2 and 3
for one lane). -/
def State.laneKeys (s : State) (c : Ctx) (spc : Space) (ea : DWord) (n i : Nat) : Except (Nat × DWord) (List Nat) :=
  match spc with
  | .sp =>
    let o := spillOffset c.w ea.toNat
    if o < 0 || o + n > c.l.spill then .error (0xA, BitVec.ofInt 64 o)
    else .ok ((List.range n).map fun b => s.spillKey c.w i (o.toNat + b))
  | spc => match s.resolve c spc ea.toNat n with
    | .error e => .error e
    | .ok k => .ok ((List.range n).map (k + ·))

/-- Order 2 of Table 8-1: the first lane whose address, or spill offset, is misaligned. -/
def misaligned (c : Ctx) (spc : Space) (adr : Nat) (off : Word) (n : Nat) : Option DWord :=
  (lanesOf c.eff).findSome? fun i =>
    let ea := effAddr c (spc == .gl) adr off i
    if spc == .sp then
      let o := spillOffset c.w ea.toNat
      if o % (n : Int) ≠ 0 then some (BitVec.ofInt 64 o) else none
    else if ea.toNat % n ≠ 0 then some ea else none

/-- The keys of every effective lane, or the first lane's failure. -/
def State.allKeys (s : State) (c : Ctx) (spc : Space) (adr : Nat) (off : Word) (n : Nat) :
    Except (Nat × DWord) (List (Nat × List Nat)) :=
  (lanesOf c.eff).foldl (fun acc i => match acc with
    | .error e => .error e
    | .ok out => match s.laneKeys c spc (effAddr c false adr off i) n i with
      | .error e => .error e
      | .ok ks => .ok (out ++ [(i, ks)])) (.ok [])

/-! ### What an access waits for -/

/-- An access returns what it reads: an acquire fence waits for it (08 R211). -/
def AccOp.returns : AccOp → Bool
  | .load | .atom _ | .atomf _ _ | .asof | .waitRead _ => true
  | _ => false

/-- An mloop of a warp runs whose loads are lanes' own (07 R191). -/
def State.loopPending (s : State) (uid : Nat) (m : Mask) : Bool :=
  match (s.warp? uid).bind (·.mloop) with
  | some l => l.lanes &&& m != 0
  | none => false

/-- Loads of lanes have not returned yet. -/
def State.pendingReads (s : State) (uid : Nat) (m : Mask) : Bool :=
  s.loopPending uid m || s.accesses.any fun a => a.warp == uid && a.op.returns && a.lanes.any fun x => m.getLsbD x.lane

/-- An access of a warp in flight to bytes of [k, k+n) is not performed yet: a step that acts on them at once comes after it (08
R212). -/
def State.unperformed (s : State) (uid k n : Nat) : Bool :=
  s.accesses.any fun a => a.warp == uid && a.lanes.any fun x => !x.done && x.pa < k + n && k < x.pa + a.n

/-- Lanes of a warp have an access in flight that is not answered, or an mloop that runs (08 R213; 07 R191). -/
def State.pendingFor (s : State) (uid : Nat) (m : Mask) : Bool :=
  s.loopPending uid m || s.accesses.any fun a => a.warp == uid && a.lanes.any fun x => m.getLsbD x.lane

/-- Lanes have an acquire in flight: what follows in program order waits for it (08 R211). -/
def State.pendingAcquire (s : State) (uid : Nat) (m : Mask) : Bool :=
  s.accesses.any fun a => a.warp == uid && (a.ord == .acq || a.ord == .ar) && a.lanes.any fun x => m.getLsbD x.lane

/-- An access of [a, a+n) in a space overlaps a range entry: a read meets destination intervals, a write either (09 R245). -/
def Warp.rangeHit (w : Warp) (spc : Space) (a n : Nat) (write : Bool) : Bool :=
  let gl := spc == .gl
  w.ranges.any fun r => (r.space == .gl) == gl && (write || r.write) && a ≤ r.last && r.first < a + n

/-- Any lane of an access meets a range entry. -/
def Warp.rangeStall (w : Warp) (spc : Space) (n : Nat) (write : Bool) (firsts : List Nat) : Bool :=
  firsts.any fun a => w.rangeHit spc a n write

/-! ### Space clocks -/

/-- The space clock of the memory a key lies in (16 R356): a workgroup's shared memory or a die-store allocation. -/
def State.spaceClock (s : State) (k : Nat) : Stamp :=
  if k ≥ 2 ^ 60 then ((s.wg? ((k - 2 ^ 60) / 2 ^ 20)).map (·.spaceClock)).getD 0
  else
    let d := (k - 2 ^ 52) / 2 ^ 26; let a := (k - 2 ^ 52) % 2 ^ 26
    ((s.allocs.find? fun x => x.die == d && x.base ≤ a && a < x.base + x.size).map (·.spaceClock)).getD 0

/-- It is raised to a clock. -/
def State.raiseSpace (s : State) (k : Nat) (clock : Stamp) : State :=
  if k ≥ 2 ^ 60 then s.modWg ((k - 2 ^ 60) / 2 ^ 20) fun g => { g with spaceClock := max g.spaceClock clock }
  else
    let d := (k - 2 ^ 52) / 2 ^ 26; let a := (k - 2 ^ 52) % 2 ^ 26
    { s with allocs := s.allocs.map fun x =>
        if x.die = d && x.base ≤ a && a < x.base + x.size then { x with spaceClock := max x.spaceClock clock } else x }

/-! ### Waiting readers -/

/-- waitval's comparison (08 Table 8-8). -/
def valueHolds (cmp : Nat) (word expected : Word) : Bool :=
  match cmp with
  | 0 => word == expected
  | 1 => word != expected
  | 2 => word.toNat ≥ expected.toNat
  | 3 => word.toNat < expected.toNat
  | 4 => word.toInt ≥ expected.toInt
  | 5 => word.toInt < expected.toInt
  | 6 => true
  | _ => false

/-- The key lies in a host or fabric window, whose bytes stand outside the package (20 R417, R418). -/
def inWindow (k : Nat) : Bool := 8 ≤ homeOf k && homeOf k < 16

/-- A waiting lane with the word it has read: a satisfied one keeps its value (08 R227). -/
def ValueLane.take (x : ValueLane) (cmp : Nat) (v : Word) : ValueLane :=
  if x.satisfied then x else { x with last := v, satisfied := valueHolds cmp v x.expected }

/-- The word at a waiting lane's address, through its leaf. -/
def State.laneWord (s : State) (x : ValueLane) : Word :=
  if pteC x.pte then (match s.readThrough x.addr x.pte 4 with
    | .ok bs => BitVec.ofNat 32 (leNat bs)
    | .error _ => 0)
  else BitVec.ofNat 32 (s.readNat x.addr 4)

/-- The stamp a waiting lane's read returns, merged into its warp (16 Table 16-2). -/
def State.valueStamp (s : State) (v : ValueWait) (clock : Stamp) (x : ValueLane) : State × Stamp :=
  if v.gl then (if v.scope.wide then s.readStamp x.addr clock else (s, s.versionStamp x.addr))
  else (s, s.spaceClock x.addr)

/-- The release sides whose values a read of a compressed page returns: its chunk's, which one publish placed (08 R208; 09
R240). -/
def State.chunkSyncs (s : State) (p : DWord) : List Sync := s.carried (pteAddr p) 32

/-- A waiting lane's read (08 R227): the lane with its word, the stamp the read returns, and the release sides whose values it
read. A read may miss writes (log 3), but not one of a compressed page. -/
def State.readWord (s : State) (w : Warp) (v : ValueWait) (x : ValueLane) : State × ValueLane × Stamp × List Sync :=
  let (s, st) := s.valueStamp v w.clock x
  if pteC x.pte then (s, x.take v.cmp (s.laneWord x), st, s.chunkSyncs x.pte)
  else
    let (s, xs, bs, st') := s.loadFrom [(w.party x.lane v.scope, (w.sight x.lane).past)] s.fresh x.addr (s.read x.addr 4) st
    (s, x.take v.cmp (BitVec.ofNat 32 (leNat bs)), if v.gl then st' else st, xs.flatMap (·.syncs))

/-- The region that owns the page of a physical address: the owner of its history, else the lowest node whose page tables map
it, else the reader's (19 R409; log 38). Bytes of the other spaces are their reader's region's. -/
def State.pageOwner (s : State) (pa reader : Nat) : Nat :=
  if isKey pa then reader
  else match (s.histPage? pa).bind (·.owner) with
    | some q => q
    | none =>
      let maps (r : Region) : Bool := r.st != 0 && (s.leavesOf (s.effAsid r.node)).any fun x =>
        pteAddr x.pte ≤ pa && pa < pteAddr x.pte + x.bytes
      if ((s.region? reader).map maps).getD false then ((s.owner reader 10).map (·.node)).getD reader
      else ((least ((s.regions.filter maps).map (·.node))).getD reader)

/-- A sector read as POISON is reported in the front die's error log (19 R409). -/
def State.poisonLog (s : State) (pa reader : Nat) : State :=
  s.logged (.poison pa (s.pageOwner pa reader) (if homeOf pa < 8 then (s.die (homeOf pa)).st else 0))

/-- The region of a warp's launch. -/
def State.nodeOf (s : State) (w : Warp) : Nat := ((s.launch? w.launch).map (·.node)).getD 0

/-- The poisoned sector of a waiting lane's word (08 R197). -/
def State.badWord (s : State) (x : ValueLane) : Option Nat :=
  match s.readThrough x.addr x.pte 4 with
  | .error p => some p
  | .ok _ => none

/-- The unsatisfied lanes of an entry that `p` picks read their words; with .acq, a read that satisfies is an acquire (08 R228).
A poisoned word is POISON, and no lane receives data (R197). Words of a window come by accesses of their own; one that an access
of the warp in flight is still to write is read after it (R212). -/
def State.rereadEntry (s : State) (uid e : Nat) (p : ValueLane → Bool) : State :=
  match s.warp? uid with
  | none => s
  | some w => match (w.entry e).wait with
    | .value v =>
      let p (x : ValueLane) : Bool := !x.satisfied && p x && !inWindow x.addr && !s.unperformed uid x.addr 4
      match (v.lanes.filter p).findSome? s.badWord with
      | some pa => (s.poisonLog pa (s.nodeOf w)).faultPolicy w.launch w.wg 0x14
      | none =>
        if !v.lanes.any p then s
        else
          let (s, u, lanes) := v.lanes.foldl (fun (acc : State × Warp × List ValueLane) x =>
            if !p x then (acc.1, acc.2.1, acc.2.2 ++ [x])
            else
              let (s, y, st, ss) := acc.1.readWord w v x
              (s, (acc.2.1.merge st).hearAll x.lane (v.acq && y.satisfied) (w.party x.lane v.scope) ss, acc.2.2 ++ [y])) (s, w, [])
          s.putWarp (u.setEntry e { u.entry e with wait := .value { v with lanes := lanes } })
    | _ => s

/-- Every waiting reader of the sectors of [k, k+n) reads again (08 R227). -/
def State.noticeWrite (s : State) (k n : Nat) : State :=
  let hit (x : ValueLane) : Bool := k / 32 ≤ x.addr / 32 && x.addr / 32 ≤ (k + n - 1) / 32
  let who := s.warps.flatMap fun w => (List.range 8).filterMap fun e => match (w.entry e).wait with
    | .value v => if v.lanes.any fun x => hit x && !x.satisfied then some (w.uid, e) else none
    | _ => none
  who.foldl (fun s p => s.rereadEntry p.1 p.2 hit) s

/-- Bytes written to the keys of one lane. -/
def State.writeKeys (s : State) (ks : List Nat) (bs : List Byte) : State :=
  if ks = (List.range ks.length).map (ks.headD 0 + ·) then s.write (ks.headD 0) bs
  else (ks.zip bs).foldl (fun s p => s.write p.1 [p.2]) s

/-- The keys between the first and the last of a rising list that are not in it. -/
def holesOf (ks : List Nat) : List Nat :=
  ((List.range ((ks.getLast?.getD 0) + 1 - ks.headD 0)).map (ks.headD 0 + ·)).filter fun k => !ks.contains k

/-- A bank performs a write to some keys of a sector, rising, as one store (08 R210; 09 R235): it is kept for the loads that may
miss it, and the waiting readers notice it. Spill is its own thread's and keeps no writes. -/
def State.storeKeys (s : State) (p : Writer) (ks : List Nat) (bs : List Byte) : State :=
  if ks.isEmpty then s
  else
    let k := ks.headD 0; let n := ks.getLast?.getD 0 + 1 - k
    let t := s.writeKeys ks bs
    if isKey k then (t.bankWrote p k (s.read k n) (holesOf ks)).noticeWrite k n else t

/-- The parts of [k, k+n) that lie in one sector each. -/
def sectorParts (k n : Nat) : List (Nat × Nat) :=
  if n = 0 then []
  else (List.range ((k + n - 1) / 32 - k / 32 + 1)).map fun i =>
    let a := max k (32 * (k / 32 + i))
    (a, min (k + n) (32 * (k / 32 + i) + 32) - a)

/-- Bytes that an engine, a station or the hardware itself stores in a bank, a sector at a time. -/
def State.storeBytes (s : State) (p : Option Party) (k : Nat) (bs : List Byte) : State :=
  (sectorParts k bs.length).foldl (fun s q =>
    s.storeKeys { who := p, number := s.fresh, acked := true } ((List.range q.2).map (q.1 + ·)) ((bs.drop (q.1 - k)).take q.2)) s

/-- Bytes read from the keys of one lane as a number. -/
def State.readKeys (s : State) (ks : List Nat) : Nat := leNat (ks.map fun k => Memory.get s.mem k)

/-- The first key that lies in a poisoned sector: the sector's address. -/
def State.poisonKeys (s : State) (ks : List Nat) : Option Nat :=
  (ks.find? fun k => s.poisoned.contains (k / 32)).map fun k => k / 32 * 32

/-! ### Global accesses -/

/-- The outcome of translating every effective lane of a global access (08 Table 8-1, orders 4 and 5). -/
inductive GlCheck where
  | blocked (s : State)
  | denied (s : State) (ea : DWord)
  | ok (s : State) (c : Ctx) (lanes : List (Nat × DWord × Nat × DWord))
  deriving Repr

/-- Translates the effective lanes: faulting lanes are held, or the split blocks; then a lane that is denied makes the split
wait (01 R24; 06 R167; 08 R199). Each lane comes with its address, physical address and leaf. Where the lanes fault on several
pages the spec does not say whose record the held split has: the lowest faulting lane's (log 38). -/
def State.glLanes (s : State) (c : Ctx) (adr : Nat) (off : Word) (need : Need) : GlCheck :=
  let asid := s.asidOf c.w
  let (s, xs) := (lanesOf c.eff).foldl (fun (acc : State × List (Nat × DWord × Xlate)) i =>
    let ea := effAddr c true adr off i
    let (t, x) := acc.1.xlate c.w.die asid ea need
    (t, acc.2 ++ [(i, ea, x)])) (s, [])
  let kind := if need.writes then 1 else 0
  let recOf (x : Nat × DWord × Xlate) : Option (BitVec 128) := match x.2.2 with
    | .fault l r => some (faultRecord x.2.1 asid kind l r c.w.die (threadOrigin c.w c.e))
    | _ => none
  let bad := maskOf fun i => xs.any fun x => x.1 == i && (recOf x).isSome
  let recs := xs.filterMap recOf
  let s : State := recs.foldl (fun s r => s.reportWalk r) s
  let okLanes := xs.filterMap fun x => match x.2.2 with
    | .ok pa p => some (x.1, x.2.1, pa, p)
    | _ => none
  let deniedAt := xs.findSome? fun x => match x.2.2 with
    | .denied => some x.2.1
    | _ => none
  let finishWith (s : State) (c : Ctx) : GlCheck := match deniedAt with
    | some ea => .denied s ea
    | none => .ok s c okLanes
  if bad = 0 then finishWith s c
  else
    let blocked : State :=
      let va := ((xs.find? fun x => bad.getLsbD x.1).map (·.2.1)).getD 0
      s.blockHere c (.pageFault asid (BitVec.ofNat 64 (va.toNat / 4096 * 4096)))
    if bad = c.run then .blocked blocked
    else match c.w.hold c.e bad c.pc (recs.headD 0) with
      | none => .blocked blocked
      | some w =>
        let c' := { c with w := w, run := c.run &&& ~~~bad, eff := c.eff &&& ~~~bad }
        finishWith (s.putWarp w) c'

end Sys2Proof.Machine
end

