-- ==== Sys2Proof/Machine/Float.lean ====
section
/-! DEFINITION. Machine/Float.lean: the floating-point formats, exact dyadic values and the one rounding of a result (03 R75 to
R80, R87, R89 to R91). A value is exact before it is rounded. -/

namespace Sys2Proof

/-- Fraction bits and exponent bits (03 Table 3-2). -/
def Ty.frac : Ty → Nat
  | .f16 => 10
  | .bf16 => 7
  | .f64 => 52
  | _ => 23
def Ty.expo : Ty → Nat
  | .f16 => 5
  | .f64 => 11
  | _ => 8
/-- Exponent bias (03 Table 3-2). -/
def Ty.bias (t : Ty) : Nat := 2 ^ (t.expo - 1) - 1
/-- The exponent of the smallest subnormal. -/
def Ty.qmin (t : Ty) : Int := 1 - (t.bias : Int) - t.frac
/-- The bits of +∞. -/
def Ty.infBits (t : Ty) : Nat := (2 ^ t.expo - 1) * 2 ^ t.frac
/-- The sign bit's weight. -/
def Ty.signBit (t : Ty) : Nat := 2 ^ (t.frac + t.expo)
/-- The canonical NaN (03 Table 3-4). -/
def Ty.nan (t : Ty) : Nat := t.infBits + 2 ^ (t.frac - 1)
/-- The largest finite value's bits. -/
def Ty.maxFinite (t : Ty) : Nat := t.infBits - 1
/-- The bits a lane holds of a type (03 R76). -/
def Ty.bits (t : Ty) (v : DWord) : Nat := v.toNat % 2 ^ t.width
/-- Magnitude bits and sign of a bit pattern. -/
def Ty.mag (t : Ty) (b : Nat) : Nat := b % t.signBit
def Ty.neg (t : Ty) (b : Nat) : Bool := t.signBit ≤ b
def Ty.isNan (t : Ty) (b : Nat) : Bool := t.infBits < t.mag b
/-- A magnitude with a sign. -/
def Ty.withSign (t : Ty) (neg : Bool) (m : Nat) : Nat := if neg then t.signBit + m else m

end Sys2Proof

namespace Sys2Proof.Machine

/-- A floating-point value: NaN, a signed infinity, or the exact number ±m × 2^e, where m = 0 is a signed zero (03 R75). -/
inductive FVal where
  | nan
  | inf (neg : Bool)
  | num (neg : Bool) (m : Nat) (e : Int)
  deriving DecidableEq, Repr

/-- The value of a bit pattern (03 R75). -/
def decodeF (t : Ty) (b : Nat) : FVal :=
  let m := t.mag b; let x := m / 2 ^ t.frac; let f := m % 2 ^ t.frac
  if t.infBits < m then .nan
  else if m = t.infBits then .inf (t.neg b)
  else if x = 0 then .num (t.neg b) f t.qmin
  else .num (t.neg b) (f + 2 ^ t.frac) (t.qmin + (x - 1))

/-- m × 2^sh rounded to a natural number by a mode, the sign of the value given; `sticky` says the value exceeds m × 2^sh by
less than one unit of m (00 R11; 03 R78). -/
def roundNat (r : Rnd) (neg : Bool) (m : Nat) (sh : Int) (sticky : Bool) : Nat :=
  match sh with
  | .ofNat k => m * 2 ^ k
  | .negSucc k =>
    let d := 2 ^ (k + 1)
    let q := m / d; let rest := m % d
    let inexact := rest != 0 || sticky
    let above := d < 2 * rest || (d == 2 * rest && sticky)
    let tie := d == 2 * rest && !sticky
    let up := match r with
      | .rne => above || (tie && q % 2 == 1)
      | .rna => above || tie
      | .rtz | .reserved => false
      | .rup => !neg && inexact
      | .rdn => neg && inexact
    if up then q + 1 else q

/-- The bits of a value out of range (03 R78, Table 3-3). -/
def overflowBits (t : Ty) (r : Rnd) (neg : Bool) : Nat :=
  match r with
  | .rtz => t.maxFinite
  | .rup => if neg then t.maxFinite else t.infBits
  | .rdn => if neg then t.infBits else t.maxFinite
  | _ => t.infBits

/-- The bits of ±m × 2^e rounded once (03 R78); subnormals are kept (R77). -/
def roundBits (t : Ty) (r : Rnd) (neg : Bool) (m : Nat) (e : Int) (sticky : Bool) : Nat :=
  let q : Int := max ((m.log2 : Int) + e - t.frac) t.qmin
  let b := ((q - t.qmin).toNat) * 2 ^ t.frac + roundNat r neg m (e - q) sticky
  t.withSign neg (if m = 0 && !sticky then 0 else if t.infBits ≤ b then overflowBits t r neg else b)

/-- A value rounded to a type (03 R78, R79). -/
def encodeF (t : Ty) (r : Rnd) : FVal → Nat
  | .nan => t.nan
  | .inf n => t.withSign n t.infBits
  | .num n m e => roundBits t r n m e false

/-- The exact product; 0 × ∞ is invalid (05 R126). -/
def mulF : FVal → FVal → FVal
  | .nan, _ | _, .nan => .nan
  | .inf a, .inf b => .inf (a != b)
  | .inf a, .num b m _ => if m = 0 then .nan else .inf (a != b)
  | .num a m _, .inf b => if m = 0 then .nan else .inf (a != b)
  | .num a m e, .num b n f => .num (a != b) (m * n) (e + f)

/-- A signed integer times a power of two. -/
def toScale (neg : Bool) (m : Nat) (e e0 : Int) : Int :=
  let v : Int := m * 2 ^ (e - e0).toNat
  if neg then -v else v

/-- The exact sum; an exact zero is +0 except in RDN, and two zeros of one sign keep it (05 R126). -/
def addF (r : Rnd) : FVal → FVal → FVal
  | .nan, _ | _, .nan => .nan
  | .inf a, .inf b => if a = b then .inf a else .nan
  | .inf a, .num .. => .inf a
  | .num .., .inf b => .inf b
  | .num a m e, .num b n f =>
    if m = 0 && n = 0 then .num (if a = b then a else r == .rdn) 0 0
    else if m = 0 then .num b n f
    else if n = 0 then .num a m e
    else
      let e0 := min e f
      let s := toScale a m e e0 + toScale b n f e0
      if s = 0 then .num (r == .rdn) 0 0 else .num (s < 0) s.natAbs e0

def negF : FVal → FVal
  | .nan => .nan
  | .inf a => .inf (!a)
  | .num a m e => .num (!a) m e

/-- An exact integer as a value. -/
def intF (x : Int) : FVal := .num (x < 0) x.natAbs 0

/-- The exact quotient's bits, correctly rounded (05 R137, Table 5-6). -/
def divBits (t : Ty) (r : Rnd) : FVal → FVal → Nat
  | .nan, _ | _, .nan => t.nan
  | .inf _, .inf _ => t.nan
  | .inf a, .num b _ _ => t.withSign (a != b) t.infBits
  | .num a _ _, .inf b => t.withSign (a != b) 0
  | .num a m e, .num b n f =>
    if n = 0 then (if m = 0 then t.nan else t.withSign (a != b) t.infBits)
    else
      let x := m * 2 ^ 128
      roundBits t r (a != b) (x / n) (e - f - 128) (x % n != 0)

/-- The integer square root, bit by bit from 2^k down. -/
def isqrtFrom : Nat → Nat → Nat → Nat
  | 0, _, acc => acc
  | k + 1, x, acc =>
    let a := acc + 2 ^ k
    isqrtFrom k x (if a * a ≤ x then a else acc)
def isqrt (x : Nat) : Nat := isqrtFrom (x.log2 / 2 + 1) x 0

/-- The exact square root's bits, correctly rounded (05 R137, Table 5-6). -/
def sqrtBits (t : Ty) (r : Rnd) : FVal → Nat
  | .nan => t.nan
  | .inf a => if a then t.nan else t.infBits
  | .num a m e =>
    if m = 0 then t.withSign a 0
    else if a then t.nan
    else
      let odd := e % 2 == 1
      let x := (if odd then 2 * m else m) * 2 ^ 128
      let q := isqrt x
      roundBits t r false q ((if odd then e - 1 else e) / 2 - 64) (q * q != x)

/-- A value rounded to an integer in a direction (05 R136). -/
def roundIntF (r : Rnd) (neg : Bool) (m : Nat) (e : Int) : Int :=
  let q : Int := roundNat r neg m e false
  if neg then -q else q

/-- The order of two bit patterns: `zeros` makes −0 less than +0 (05 R127), else they are equal (R129). -/
def orderKey (t : Ty) (zeros : Bool) (b : Nat) : Int :=
  if t.neg b then -(t.mag b : Int) - (if zeros then 1 else 0) else t.mag b

/-- fcmp (05 R129, Table 5-2). -/
def cmpF (t : Ty) (code : Nat) (u : Bool) (a b : Nat) : Bool :=
  if t.isNan a || t.isNan b then code == 7 || (code != 6 && u)
  else
    let x := orderKey t false a; let y := orderKey t false b
    match code with
    | 0 => x = y | 1 => x ≠ y | 2 => x < y | 3 => x ≤ y | 4 => y < x | 5 => y ≤ x | 6 => true | _ => false

/-- fmin, fmax (`num` false), fminn, fmaxn (05 R127): the operand's bits. -/
def pickF (t : Ty) (big num : Bool) (a b : Nat) : Nat :=
  match t.isNan a, t.isNan b with
  | true, true => t.nan
  | true, false => if num then b else t.nan
  | false, true => if num then a else t.nan
  | false, false =>
    let x := orderKey t true a; let y := orderKey t true b
    if (if big then y < x else x < y) then a else b

/-- fclass (05 R130, Table 5-3): the number of the class. -/
def classF (t : Ty) (b : Nat) : Nat :=
  let m := t.mag b
  if t.infBits < m then (if m / 2 ^ (t.frac - 1) % 2 = 1 then 9 else 8)
  else
    let k := if m = t.infBits then 3 else if m = 0 then 0 else if m < 2 ^ t.frac then 1 else 2
    if t.neg b then 3 - k else 4 + k

/-- The exponent of the leading bit. -/
def floorLog2 (m : Nat) (e : Int) : Int := m.log2 + e

/-! ### Plane codes -/

/-- The code of one element at exponent E (03 R87; 05 R143). -/
def planeCodeOf (E : Nat) (v : FVal) : Int :=
  if E = 0 || E = 255 then 0
  else match v with
    | .nan => 0
    | .inf n => if n then -128 else 127
    | .num n m e => satInt (roundIntF .rne n m (e - ((E : Int) - 133))) (-128) 127

/-- The exponent of a block (03 R87), from the bit patterns of its elements. -/
def blockExp (t : Ty) (bs : List Nat) : Nat :=
  let m := bs.foldl (fun a b => max a (t.mag b)) 0
  match decodeF t m with
  | .num _ v e => if v = 0 then 0 else max 1 (floorLog2 v e + 127).toNat
  | _ => 255

/-- Read at p planes: q_p × 2^(8−p) (03 R82). -/
def atPlanes (p : Nat) (q : Int) : Int := q / (2 ^ (8 - p) : Int) * 2 ^ (8 - p)

/-! ### Exact group accumulation -/

/-- One group of products added to an accumulator (03 R90): truncated to W bits below the largest, summed exactly, one
rounding. -/
def groupAdd (acc : Ty) (w : Nat) (c : FVal) (ps : List FVal) : FVal :=
  if c == .nan || ps.contains .nan then .nan
  else if ps.contains (.inf true) && ps.contains (.inf false) then .nan
  else if ps.contains (.inf true) then (if c == .inf false then .nan else .inf true)
  else if ps.contains (.inf false) then (if c == .inf true then .nan else .inf false)
  else match c with
    | .num .. =>
      let nz := ps.filter fun p => match p with
        | .num _ m _ => m != 0
        | _ => false
      let z := ps.all fun p => match p with
        | .num n _ _ => n
        | _ => false
      match nz with
      | [] => decodeF acc (encodeF acc .rne (addF .rne c (.num z 0 0)))
      | p :: r =>
        let top (v : FVal) : Int := match v with
          | .num _ m e => floorLog2 m e
          | _ => 0
        let e := r.foldl (fun a v => max a (top v)) (top p)
        let u := e - w + 1
        let part (v : FVal) : Int := match v with
          | .num n m x =>
            let k : Nat := match x - u with
              | .ofNat k => m * 2 ^ k
              | .negSucc k => m / 2 ^ (k + 1)
            if n then -(k : Int) else k
          | _ => 0
        let s := nz.foldl (fun a v => a + part v) 0
        decodeF acc (encodeF acc .rne (addF .rne c (.num (s < 0) s.natAbs u)))
    | _ => c

/-- One bit-plane group added to an accumulator (03 R91): exponents, exact integer sum, weight 2^(16 − pA − pB). -/
def planeAdd (c : FVal) (ea eb : Nat) (t : Int) (pa pb : Nat) : FVal :=
  let v : FVal := if ea = 255 || eb = 255 then .nan
    else if ea = 0 || eb = 0 || t = 0 then .num false 0 0
    else .num (t < 0) t.natAbs (16 - pa - pb + ((ea : Int) + eb - 266))
  decodeF .f32 (encodeF .f32 .rne (addF .rne c v))

end Sys2Proof.Machine
end

