-- ==== Sys2Proof/Machine/MemInstr.lean ====
section
/-! DEFINITION. Machine/MemInstr.lean: the meanings of classes 0x8 and 0x9 (08 R197 to R230). Accesses to .sh,
.co and .sp are performed at issue; one to .gl or .ds goes in flight and is performed and answered by later steps (log 3). -/

namespace Sys2Proof

/-- Bytes of an access (02 Table 2-8). -/
def FormM.bytes (f : FormM) : Nat := 2 ^ f.width.toNat
def FormM.spc (f : FormM) : Space := Space.ofCode f.space.toNat
def FormM.order (f : FormM) : MOrd := MOrd.ofCode f.ord.toNat
def FormM.scp (f : FormM) : Scope := Scope.ofCode f.scope.toNat
/-- Accesses of a space go in flight, and its banks or slices perform them in any order (13 R298; log 3). -/
def Space.flies (spc : Space) : Bool := spc == .gl || spc == .ds
/-- The address register, or pair for .gl (08 R198). -/
def FormM.adrRegs (f : FormM) : List Nat :=
  if f.space.toNat = 3 then [f.adr.toNat, f.adr.toNat + 1] else [f.adr.toNat]
/-- Registers that last-use marks name. -/
def FormM.marked (f : FormM) (dat aux : List Nat) : List Nat :=
  (if f.luadr then f.adrRegs else []) ++ (if f.ludat then dat else []) ++ (if f.lux then aux else [])

end Sys2Proof

namespace Sys2Proof.Machine

/-! ### Data -/

/-- The data registers of a lane as a number, low word in the lowest register. -/
def Warp.dataOf (w : Warp) (r n i : Nat) : Nat :=
  ((List.range (max 1 (n / 4))).foldl (fun a k => a + (w.lane (r + k) i).toNat * 2 ^ (32 * k)) 0) % 2 ^ (8 * n)

/-- Register word k of a loaded datum: extended to 32 bits below that width (08 R217). -/
def loadWord (n : Nat) (sx : Bool) (m k : Nat) : Nat :=
  if n < 4 then
    let h := 2 ^ (8 * n)
    if sx && 2 * m ≥ h then m + 2 ^ 32 - h else m
  else m / 2 ^ (32 * k) % 2 ^ 32

/-- Loaded data written to their registers (08 R217, R219). -/
def Warp.writeData (w : Warp) (r n : Nat) (sx : Bool) (eff : Mask) (full uni : Bool) (m : Nat → Nat) : Warp :=
  (List.range (max 1 (n / 4))).foldl (fun w k =>
    w.writeResult (r + k) false eff full uni none fun i => BitVec.ofNat 64 (loadWord n sx (m i) k)) w

/-- The new value of an atomic (08 R223). ATOP codes of Table 2-8. -/
def atomNew (op n : Nat) (signed : Bool) (old x cmp : Nat) : Nat :=
  let m := 2 ^ (8 * n)
  let key (v : Nat) : Nat := if signed then (v + m / 2) % m else v
  match op with
  | 1 => (old + x) % m
  | 2 => if key old ≤ key x then old else x
  | 3 => if key x ≤ key old then old else x
  | 4 => old &&& x
  | 5 => old ||| x
  | 6 => old ^^^ x
  | 7 => x
  | _ => if old = cmp then x else old

/-- The new value of a floating-point atomic (08 R224). -/
def atomfNew (op : Nat) (t : Ty) (old x : Nat) : Nat :=
  match op with
  | 1 => encodeF t .rne (addF .rne (decodeF t old) (decodeF t x))
  | 2 => pickF t false true old x
  | _ => pickF t true true old x

/-- The type of a floating-point atomic (08 R224). -/
def FormM.ftype (f : FormM) : Ty :=
  match f.width.toNat with
  | 1 => if f.sx then .bf16 else .f16
  | 2 => .f32
  | _ => .f64

/-- The result of an operation on memory: none where it only reads. -/
def AccOp.result (o : AccOp) (n : Nat) (sx : Bool) (old x cmp : Nat) : Option Nat :=
  match o with
  | .store | .storeStamp | .copyWrite _ | .frontWrite _ | .pageMove => some x
  | .atom op => some (atomNew op n sx old x cmp)
  | .red op => some (atomNew op n sx old x cmp)
  | .atomf op t => some (atomfNew op t old x)
  | .load | .asof | .waitRead _ | .copyRead _ => none

/-! ### Checks and waits -/

/-- What a memory instruction asks of its checks: space, address register, offset, bytes, need, the registers whose dead tags it
checks, and whether it is a release. One that `acts` takes its effect, or carries its clock, as of its issue. -/
structure MemAsk where
  spc : Space
  adr : Nat
  off : Word
  n : Nat
  need : Need
  reads : List Nat
  releases : Bool := false
  acts : Bool := true
  deriving DecidableEq, Repr

/-- ld, st, atomics, waitval and the instructions of class 0xD that access memory lane by lane, as they ask. -/
def FormM.ldAsk (f : FormM) : MemAsk :=
  { spc := f.spc, adr := f.adr.toNat, off := f.offs, n := f.bytes, need := .read, reads := f.adrRegs, acts := !f.spc.flies }
def FormM.stAsk (f : FormM) : MemAsk :=
  { spc := f.spc, adr := f.adr.toNat, off := f.offs, n := f.bytes, need := .write, reads := f.adrRegs ++ dataRegs f.dat.toNat f.bytes,
    releases := f.order.releases }
/-- The compare registers of a compare-and-swap. -/
def FormM.cmpRegs (f : FormM) : List Nat := if f.atop = 8 then dataRegs f.aux.toNat f.bytes else []
def FormM.atomAsk (f : FormM) (aux : List Nat) : MemAsk :=
  { spc := f.spc, adr := f.adr.toNat, off := f.offs, n := f.bytes, need := .atomic,
    reads := f.adrRegs ++ dataRegs f.dat.toNat f.bytes ++ aux, releases := f.order.releases }
def FormM.valAsk (f : FormM) : MemAsk :=
  { spc := f.spc, adr := f.adr.toNat, off := f.offs, n := 4, need := .read, reads := f.adrRegs ++ [f.aux.toNat, f.aux.toNat + 1] }
def FormM.asofAsk (f : FormM) : MemAsk :=
  { spc := .gl, adr := f.adr.toNat, off := f.offs, n := f.bytes, need := .read, reads := f.adrRegs ++ [f.aux.toNat, f.aux.toNat + 1],
    acts := false }
def FormM.floorAsk (f : FormM) : MemAsk :=
  { spc := .gl, adr := f.adr.toNat, off := f.offs, n := 1, need := .read, reads := f.adrRegs, acts := false }
def memAsk : Instr → Option MemAsk
  | .ld f => some (FormM.ldAsk f)
  | .st f => some (FormM.stAsk f)
  | .atom f => some (FormM.atomAsk f (FormM.cmpRegs f))
  | .atomf f | .red f => some (FormM.atomAsk f [])
  | .waitval f => some (FormM.valAsk f)
  | .ldAsof f => some (FormM.asofAsk f)
  | .stStamp f => some { FormM.stAsk f with spc := .gl }
  | .hfloor f => some (FormM.floorAsk f)
  | _ => none

/-- A lane of an access that goes in flight: lane, address, key, leaf. -/
abbrev FarLane := Nat × DWord × Nat × DWord

/-- What the first checks of a memory instruction come to: a trap, a wait at issue with its stall reason (06 Table 6-12), the
keys of its lanes, lanes that go in flight, or that the lanes translate. -/
inductive MemGate where
  | trap (cause : Nat) (tv : DWord)
  | wait (reason : Nat)
  | near (ks : List (Nat × List Nat))
  | far (lanes : List FarLane)
  | global

/-- The stall reason of an instruction that waits for its lanes' earlier accesses: the slice's, for those of an mloop (06 Table
6-12). -/
def State.holdReason (s : State) (c : Ctx) : Nat := if s.loopPending c.w.uid c.eff then 6 else 4

/-- Orders 1 to 3 of Table 8-1, then the waits: the range scoreboard (09 R245), a release for its thread's accesses (R213), and
what takes its effect now for an acquire still in flight (R211). -/
def State.memGate (s : State) (c : Ctx) (q : MemAsk) : MemGate :=
  match c.deadRead q.reads with
  | some r => .trap 6 (BitVec.ofNat 64 r)
  | none => match misaligned c q.spc q.adr q.off q.n with
    | some v => .trap 8 v
    | none =>
      let held := (q.acts && s.pendingAcquire c.w.uid c.eff) || (q.releases && s.pendingFor c.w.uid c.eff)
      let ea (i : Nat) : DWord := effAddr c (q.spc == .gl) q.adr q.off i
      let go (firsts : List Nat) (k : MemGate) : MemGate :=
        if c.w.rangeStall q.spc q.n q.need.writes firsts then .wait 20 else if held then .wait (s.holdReason c) else k
      if q.spc == .gl then go ((lanesOf c.eff).map fun i => (ea i).toNat) .global
      else match s.allKeys c q.spc q.adr q.off q.n with
        | .error (cause, v) => .trap cause v
        | .ok ks =>
          go (ks.map fun k => k.2.headD 0) (if q.spc.flies then .far (ks.map fun k => (k.1, ea k.1, k.2.headD 0, 0)) else .near ks)

/-- A memory instruction past its checks: it has stopped, or its lanes' accesses are known. -/
inductive MemPlan where
  | stop (s : State)
  | near (ks : List (Nat × List Nat))
  | far (s : State) (c : Ctx) (lanes : List FarLane)

/-- The data-time checks in the order of Table 8-1. -/
def State.memPlan (s : State) (c : Ctx) (q : MemAsk) : MemPlan :=
  match s.memGate c q with
  | .trap cause v => .stop (s.trapHere c cause v)
  | .wait _ => .stop s.wait
  | .near ks => .near ks
  | .far lanes => .far s c lanes
  | .global => match s.glLanes c q.adr q.off q.need with
    | .blocked t => .stop t
    | .denied t v => .stop (t.trapHere c 0x11 v)
    | .ok t d lanes => .far t d lanes

/-- A and D bits of the leaves that the lanes of an access use (13 R309), set before it by each lane's thread (22 Table 22-1). -/
def State.touchLanes (s : State) (c : Ctx) (q : MemAsk) (lanes : List FarLane) : State :=
  if q.spc == .gl then lanes.foldl (fun t x => t.touch c.w.die (s.asidOf c.w) x.2.1 q.need.writes
    { who := some (c.w.party x.1 .sys), number := t.fresh, acked := true }) s else s

/-- A key of a spill frame has no space clock (08 R203, R213). -/
def State.clockOfKey (s : State) (spc : Space) (ks : List Nat) : Stamp :=
  if spc == .sp then 0 else s.spaceClock (ks.headD 0)

/-- The first poisoned lane of keys to be read. -/
def State.poisonedLane (s : State) (ks : List (Nat × List Nat)) : Option Nat := ks.findSome? fun k => s.poisonKeys k.2

/-- POISON taken by an instruction at issue (08 R197). -/
def State.trapPoison (s : State) (c : Ctx) (pa : Nat) : State :=
  (s.poisonLog pa c.l.node).trapHere c 0x14 (BitVec.ofNat 64 pa)

/-! ### Windows -/

/-- A lane of an access through a host window is a packet of the device-to-host stream (20 R420). -/
def State.windowPacket (s : State) (a : Access) (x : LaneAcc) : List Packet :=
  let h := homeOf x.pa; let write := !a.op.reads
  if 8 ≤ h && h < 12 then
    [{ op := if write then 0x41 else 0x42, tag := (a.id * 32 + x.lane) % 2 ^ 16, region := a.node, len := a.n,
       addr := BitVec.ofNat 64 ((s.windows.getD (h - 8) {}).base + offsetOf x.pa),
       payload := if write then leBytes a.n x.data else [] }]
  else []

/-- The fabric ports that may carry a fabric window's traffic and are up (20 R421). -/
def State.livePorts (s : State) (pa : Nat) : List Nat :=
  (List.range 8).filter fun n => ((s.fabric.getD (homeOf pa - 12) 0).extractLsb' 32 8 &&& s.ports).getLsbD n

/-- A lane of an access through a fabric window asks the peer package, on the port that its 256-byte granule takes (20 R418,
R421; log 39). -/
def State.fabricAsk (s : State) (a : Access) (x : LaneAcc) : List FabricAsk :=
  let r := s.fabric.getD (homeOf x.pa - 12) 0; let ps := s.livePorts x.pa
  if 12 ≤ homeOf x.pa && homeOf x.pa < 16 then
    (ps[offsetOf x.pa / 256 % ps.length]?).toList.map fun p =>
      { access := a.id, lane := x.lane, peer := (r.extractLsb' 16 16).toNat, port := p, write := !a.op.reads,
        pa := (r.extractLsb' 76 52).toNat + offsetOf x.pa, len := a.n, data := if a.op.reads then [] else leBytes a.n x.data }
  else []

/-- It returns what it reads and modifies it, and takes POISON (08 R197). -/
def AccOp.fetches : AccOp → Bool
  | .atom _ | .atomf _ _ => true
  | _ => false

/-- What a read or an atomic returns may be an acquire (08 R211). -/
def Access.acquires (a : Access) : Bool := a.ord == .acq || a.ord == .ar

/-- A lane's access is not performed before an earlier one of its thread to an overlapping byte, a lower lane's of the same
access, or the answer of an acquire of its thread that came before it (08 R200, R211, R212). -/
def State.heldBack (s : State) (a : Access) (x : LaneAcc) : Bool :=
  s.accesses.any fun b => b.warp == a.warp && b.id ≤ a.id && b.lanes.any fun y =>
    (!y.done && overlaps x.pa a.n y.pa b.n && (if b.id = a.id then y.lane < x.lane && !a.op.reads else y.lane == x.lane))
    || (b.acquires && b.id != a.id && y.lane == x.lane)

/-- The first lane of an access in flight whose request through a window has not left and that nothing holds back. -/
def State.sendable? (s : State) : Option (Access × LaneAcc) :=
  s.accesses.findSome? fun a => (a.lanes.find? fun x => inWindow x.pa && !x.sent && !x.done && !s.heldBack a x).map fun x => (a, x)

/-- A lane of an access replaced. -/
def Access.setLane (a : Access) (x : LaneAcc) : Access :=
  { a with lanes := a.lanes.map fun y => if y.lane = x.lane then x else y }

/-- Requests through windows leave the package as soon as nothing that comes before them holds them back (08 R212; 20 R419 to
R421). -/
def State.sendWindows : Nat → State → State
  | 0, s => s
  | n + 1, s => match s.sendable? with
    | none => s
    | some (a, x) =>
      State.sendWindows n ({ s with outbound := s.outbound ++ s.windowPacket a x, fabricAsks := s.fabricAsks ++ s.fabricAsk a x }.putAccess
        (a.setLane { x with sent := true }))

/-- The lanes that may have a request to send. -/
def State.unsent (s : State) : Nat := (s.accesses.flatMap fun a => a.lanes.filter fun x => inWindow x.pa && !x.sent).length

/-- Requests through windows that nothing holds back any longer leave. -/
def State.releaseWindows (s : State) : State := State.sendWindows s.unsent s

/-- An access goes in flight. -/
def State.launchAccess (s : State) (a : Access) : State :=
  ({ s with accesses := s.accesses ++ [a], fresh := s.fresh + 1 } : State).releaseWindows

/-- An access of an instruction goes in flight (08 R213; 16 R353). Through a window it is performed at .sys (20 R419). -/
def State.send (s : State) (c : Ctx) (f : FormM) (op : AccOp) (n dst dst2 : Nat) (uniform : Bool)
    (lanes : List LaneAcc) : State :=
  s.launchAccess
    { id := s.fresh, warp := c.w.uid, launch := c.w.launch, wg := c.w.wg, node := c.l.node, asid := s.asidOf c.w,
      die := c.w.die, core := c.w.core, pc := c.pc, op := op, n := n, sx := f.sx, ord := f.order, scope := f.scp, clock := c.w.clock,
      eff := c.eff, full := c.full, uniform := uniform, dst := dst, dst2 := dst2, since := s.tick,
      lanes := lanes.map fun x =>
        { x with thread := c.w.thread x.lane, past := (c.w.sight x.lane).past,
                 rel := if op.reads then [] else c.w.relScopes x.lane s.fresh
                   (if f.order.releases then some (if inWindow x.pa then .sys else f.scp) else none) } }

/-- The address of a .gl access counts as U (08 R219). -/
def uniformRegs (c : Ctx) (rs : List Nat) : Bool := rs.all fun r => (c.w.reg r).countsU

/-! ### Loads and stores -/

/-- The lanes' reads of shared memory at issue: values, and the release sides read (08 R210 to R212). Lanes that share one
address read it once (R219). -/
def State.bankLanes (s : State) (c : Ctx) (f : FormM) (share : Bool) (ks : List (Nat × List Nat)) :
    State × List (Nat × Nat × List Sync) :=
  let read (s : State) (ls : List Nat) (k : List Nat) : State × List Byte × List Sync :=
    s.bankRead (ls.map fun i => (c.w.party i f.scp, (c.w.sight i).past)) s.fresh (k.headD 0) f.bytes
  if share then
    let (t, bs, ys) := read s (ks.map (·.1)) ((ks.headD (0, [])).2)
    (t, ks.map fun k => (k.1, leNat bs, ys))
  else ks.foldl (fun acc k =>
    let (t, bs, ys) := read acc.1 [k.1] k.2
    (t, acc.2 ++ [(k.1, leNat bs, ys)])) (s, [])

/-- The lanes' reads of a space whose accesses take effect at issue: spill is the thread's own (08 R202). -/
def State.nearLanes (s : State) (c : Ctx) (f : FormM) (share : Bool) (ks : List (Nat × List Nat)) :
    State × List (Nat × Nat × List Sync) :=
  if f.spc == .sp then (s, ks.map fun k => (k.1, s.readKeys k.2, [])) else s.bankLanes c f share ks

/-- A lane's read brings release sides (08 R211). -/
def Warp.hearLanes (w : Warp) (acq : Bool) (sc : Scope) (rs : List (Nat × Nat × List Sync)) : Warp :=
  rs.foldl (fun w r => w.hearAll r.1 acq (w.party r.1 sc) r.2.2) w

/-- ld (08 R217 to R219). -/
def execLd (f : FormM) (s : State) : Result :=
  match s.ctx? f.guard with
  | none => .next s
  | some c =>
    if c.eff = 0 then .next (s.finish c c.w)
    else
      let n := f.bytes; let d := f.dat.toNat
      let marks := f.marked [] []
      let uni (c : Ctx) : Bool := f.spc != .sp && uniformRegs c f.adrRegs
      match s.memPlan c (FormM.ldAsk f) with
      | .stop t => .next t
      | .near ks => match s.poisonedLane ks with
        | some pa => .next (s.trapPoison c pa)
        | none =>
          let (t, vals) := s.nearLanes c f (uni c && c.full) ks
          let clock := ks.foldl (fun a k => max a (s.clockOfKey f.spc k.2)) 0
          let w := (c.w.writeData d n f.sx c.eff c.full (uni c) fun i => (tget vals i (0, [])).1).merge clock
          .next (t.finish c ((w.hearLanes (f.order == .acq) f.scp vals).kill c.full marks (dataRegs d n)))
      | .far t c lanes =>
        let t := (t.touchLanes c (FormM.ldAsk f) lanes).send c f .load n d 0 (uni c)
          (lanes.map fun x => { lane := x.1, va := x.2.1, pa := x.2.2.1, pte := x.2.2.2 })
        .next (t.finish c (c.w.kill c.full marks (dataRegs d n)))

/-- A lane's store to shared or spill memory at issue: a release side where the order or an earlier fence makes it one (08 R211;
16 R356), and of the release sides whose values an atomic read, which is acknowledged by what it returns. -/
def State.storeLane (s : State) (c : Ctx) (f : FormM) (k : Nat × List Nat) (bs : List Byte) (carry : List Sync) (acked : Bool) : State :=
  let own := (c.w.relScopes k.1 s.fresh (if f.order.releases then some f.scp else none)).map fun y =>
    Sync.mk (c.w.party k.1 y.1) c.w.clock y.2
  let t := s.storeKeys { who := some (c.w.party k.1 f.scp), number := s.fresh, syncs := mergeSyncs carry own, acked := acked } k.2 bs
  if f.spc != .sp && !own.isEmpty then t.raiseSpace (k.2.headD 0) c.w.clock else t

/-- The acknowledgement of a store or reduction that its bank has performed at issue is on its way (08 R212, R213; log 3):
`first` is the number that the bank gave the first lane's write. Spill has none: no other thread reaches it (R202). -/
def State.awaitAck (s : State) (c : Ctx) (f : FormM) (op : AccOp) (first : Nat) (ks : List (Nat × List Nat)) : State :=
  if f.spc == .sp then s
  else s.send c f op f.bytes 0 0 false (ks.zipIdx.map fun k =>
    { lane := k.1.1, va := 0, pa := k.1.2.headD 0, done := true, number := first + k.2 })

/-- st (08 R217, R218). -/
def execSt (f : FormM) (s : State) : Result :=
  match s.ctx? f.guard with
  | none => .next s
  | some c =>
    if c.eff = 0 then .next (s.finish c c.w)
    else
      let n := f.bytes; let d := f.dat.toNat
      let marks := f.marked (dataRegs d n) []
      match s.memPlan c (FormM.stAsk f) with
      | .stop t => .next t
      | .near ks =>
        let t : State := ks.foldl (fun t k => t.storeLane c f k (leBytes n (c.w.dataOf d n k.1)) [] false) s
        let t := (t.coverSectors (ks.flatMap (·.2))).awaitAck c f .store s.fresh ks
        .next (t.finish c (((t.warp? c.w.uid).getD c.w).kill c.full marks []))
      | .far t c lanes =>
        let t := (t.touchLanes c (FormM.stAsk f) lanes).send c f .store n d 0 false
          (lanes.map fun x => { lane := x.1, va := x.2.1, pa := x.2.2.1, data := c.w.dataOf d n x.1 })
        .next (t.finish c (c.w.kill c.full marks []))

/-- prefetch (08 R220): no result changes. -/
def execPrefetch (f : FormM) (s : State) : Result :=
  match s.ctx? f.guard with
  | none => .next s
  | some c => .next (s.finish c (c.w.kill c.full (f.marked [] []) []))

/-- cctl (08 R221): no value that a load returns changes. A D address register under the dead-read check: R199's order 1 names
memory instructions, R221 says that cctl never faults; it does not trap (log 38). -/
def execCctl (f : FormM) (s : State) : Result :=
  match s.ctx? f.guard with
  | none => .next s
  | some c => .next (s.finish c (c.w.kill c.full (f.marked [] []) []))

/-! ### Atomics -/

/-- An atomic's lanes in ascending order on shared memory: the values read, with the release sides of what they read (08 R200,
R222 to R225). -/
def State.atomicLanes (s : State) (c : Ctx) (f : FormM) (op : AccOp) (cmp : Nat → Nat) (ks : List (Nat × List Nat)) :
    State × List (Nat × Nat × List Sync) :=
  ks.foldl (fun (acc : State × List (Nat × Nat × List Sync)) k =>
    let old := acc.1.readKeys k.2
    let carry := acc.1.carried (k.2.headD 0) f.bytes
    match op.result f.bytes f.sx old (c.w.dataOf f.dat.toNat f.bytes k.1) (cmp k.1) with
    | none => acc
    | some v => (acc.1.storeLane c f k (leBytes f.bytes v) carry op.fetches, acc.2 ++ [(k.1, old, carry)])) (s, [])

/-- An operation with .ar takes its lanes' places in the total order (08 R214). -/
def State.placed (s : State) (c : Ctx) (f : FormM) (w : Warp) : State × Warp :=
  if f.order == .ar then s.takePlaces w c.eff f.scp else (s, w)

/-- An atomic or reduction (08 R222 to R225). `ret` says that it returns the old value, and takes POISON (R197); `aux` are the
compare registers. -/
def State.atomic (s : State) (f : FormM) (op : AccOp) (ret : Bool) (aux : List Nat) : Result :=
  match s.ctx? f.guard with
  | none => .next s
  | some c =>
    if c.eff = 0 then .next (s.finish c c.w)
    else
      let n := f.bytes; let d := f.dat.toNat
      let dat := dataRegs d n
      let marks := f.marked dat aux
      let cmp (c : Ctx) (i : Nat) : Nat := match aux with
        | [] => 0
        | r :: _ => c.w.dataOf r n i
      match s.memPlan c (FormM.atomAsk f aux) with
      | .stop t => .next t
      | .near ks => match (if ret then s.poisonedLane ks else none) with
        | some pa => .next (s.trapPoison c pa)
        | none =>
          let (t, olds) := s.atomicLanes c f op (cmp c) ks
          let t := if ret then t else (t.coverSectors (ks.flatMap (·.2))).awaitAck c f op s.fresh ks
          let clock := ks.foldl (fun a k => max a (t.clockOfKey f.spc k.2)) 0
          let w := (t.warp? c.w.uid).getD c.w
          let w := if ret then
              ((w.writeData d n false c.eff false false fun i => (tget olds i (0, [])).1).merge clock).hearLanes
                (f.order == .acq || f.order == .ar) f.scp olds
            else w
          let (t, w) := t.placed c f w
          .next (t.finish c (w.kill c.full marks (if ret then dat else [])))
      | .far t c lanes =>
        let t := t.touchLanes c (FormM.atomAsk f aux) lanes
        let (t, w) := t.placed c f c.w
        let t := t.send { c with w := w } f op n d 0 false
          (lanes.map fun x => { lane := x.1, va := x.2.1, pa := x.2.2.1, data := c.w.dataOf d n x.1, cmp := cmp c x.1 })
        .next (t.finish c (w.kill c.full marks (if ret then dat else [])))

/-- atom (08 R223). -/
def execAtom (f : FormM) (s : State) : Result := s.atomic f (.atom f.atop.toNat) true (FormM.cmpRegs f)
/-- atomf (08 R224). -/
def execAtomf (f : FormM) (s : State) : Result := s.atomic f (.atomf f.atop.toNat (FormM.ftype f)) true []
/-- red (08 R225). -/
def execRed (f : FormM) (s : State) : Result := s.atomic f (.red f.atop.toNat) false []

/-- A fence waits: a release for the thread's earlier accesses, an acquire for what they return (08 R211, R213, R226). -/
def State.fenceWaits (s : State) (c : Ctx) (f : FormM) : Bool :=
  if f.order.releases then s.pendingFor c.w.uid c.eff else s.pendingReads c.w.uid c.eff

/-- fence (08 R226): after its wait; .ar takes a place in the total order of R214. -/
def execFence (f : FormM) (s : State) : Result :=
  match s.ctx? f.guard with
  | none => .next s
  | some c =>
    if c.eff = 0 then .next (s.finish c c.w)
    else if s.fenceWaits c f then .next s.wait
    else
      let w := if f.order == .rel then c.w else c.w.acquire c.eff f.scp
      let (t, w) := s.placed c f w
      let w := if f.order.releases then w.passFence f.scp c.eff s.fresh else w
      .next (t.finish c w)

/-! ### waitval -/

/-- A waitval starts waiting (08 R227): the lanes' first reads, a window's lanes reading by an access of their own. -/
def State.startValueWait (s : State) (c : Ctx) (f : FormM) (lanes : List FarLane) : State :=
  let x := f.aux.toNat
  let ctl := (c.w.lane (x + 1) c.low).toNat
  let limit := ctl / 256
  let v : ValueWait :=
    { dat := f.dat.toNat, gl := f.spc == .gl, scope := f.scp, acq := f.order == .acq, cmp := ctl % 8,
      limit := if limit = 0 then none else some (s.cycle + 64 * limit), eff := c.eff,
      marks := f.marked [] [x, x + 1],
      lanes := lanes.map fun l => { lane := l.1, va := l.2.1, addr := l.2.2.1, expected := c.w.lane x l.1, last := 0, satisfied := false,
                                    pte := l.2.2.2 } }
  let out := lanes.filter fun l => inWindow l.2.2.1
  let t := if out.isEmpty then s else s.send c f (.waitRead c.e) 4 0 0 false
    (out.map fun l => { lane := l.1, va := l.2.1, pa := l.2.2.1 })
  let t := ({ t with issue := none }.putWarp c.w).block c.w.uid c.e c.pc (.value v)
  State.done (t.rereadEntry c.w.uid c.e fun _ => true)

/-- The first reads of a waitval meet a poisoned word (08 R197): that of a lane whose word the warp is still to write does not
count yet. -/
def State.firstBadWord (s : State) (c : Ctx) (lanes : List FarLane) : Option Nat :=
  lanes.findSome? fun l => if inWindow l.2.2.1 || s.unperformed c.w.uid l.2.2.1 4 then none
    else s.badWord { lane := l.1, addr := l.2.2.1, expected := 0, last := 0, pte := l.2.2.2, satisfied := false }

/-- waitval (08 R227, R228). -/
def execWaitval (f : FormM) (s : State) : Result :=
  match s.ctx? f.guard with
  | none => .next s
  | some c =>
    if c.eff = 0 then .next (s.finish c c.w)
    else
      let go (t : State) (c : Ctx) (lanes : List FarLane) : Result := match t.firstBadWord c lanes with
        | some pa => .next (t.trapPoison c pa)
        | none => .next ((t.touchLanes c (FormM.valAsk f) lanes).startValueWait c f lanes)
      match s.memPlan c (FormM.valAsk f) with
      | .stop t => .next t
      | .near ks => go s c (ks.map fun k => (k.1, effAddr c false f.adr.toNat f.offs k.1, k.2.headD 0, 0))
      | .far t c lanes => go t c lanes

end Sys2Proof.Machine
end

