-- ==== Sys2Proof/Machine/Perform.lean ====
section
/-! DEFINITION. Machine/Perform.lean: global accesses performed at their slices and answered (08 R200, R210 to R213; 16 R352 to
R356), accesses through windows (20 R419, R420), the returns of waitval and sleep (08 R227, R228; 04 R99), and lanes that
become triggered (14 R336). An event whose condition does not hold changes nothing (log 4). -/

namespace Sys2Proof.Machine

/-- A blocked split goes on at the next PC with its warp changed. -/
def State.resume (s : State) (uid e : Nat) (f : Warp → Warp) : State :=
  match s.warp? uid with
  | none => s
  | some w =>
    let w := f w
    let x := w.entry e
    State.stabilise ((s.putWarp (w.setEntry e { x with st := .run, wait := .none })).advance uid e [(nextSlot x.pc, x.mask)])

/-- A lane of an access at its scope (08 R209): .sys through a window (20 R419). -/
def Access.party (a : Access) (x : LaneAcc) : Party :=
  { thread := x.thread, warp := a.warp, wg := a.wg, die := a.die, core := a.core, scope := if inWindow x.pa then .sys else a.scope }

/-- It stores and reads nothing. -/
def AccOp.stores : AccOp → Bool
  | .store | .storeStamp | .copyWrite _ | .frontWrite _ | .pageMove => true
  | _ => false

/-- The release sides that a lane's write belongs to, with its stamp: its own and, of an atomic, those of the write it reads (08
R211). -/
def Access.releaseSides (a : Access) (x : LaneAcc) (st : Stamp) (carry : List Sync) : List Sync :=
  mergeSyncs carry (x.rel.map fun y => Sync.mk { a.party x with scope := y.1 } st y.2)

/-- A lane's write as its writer's: acknowledged by the access's reply (08 R212). -/
def Access.writer (a : Access) (x : LaneAcc) (ys : List Sync) : Writer := { who := some (a.party x), number := a.id, syncs := ys }

/-- A bank performs one lane's write to a die store (08 R210; 16 R356). -/
def State.performBank (s : State) (a : Access) (x : LaneAcc) (v : Nat) (carry : List Sync) : State × LaneAcc :=
  let t := s.storeKeys (a.writer x (a.releaseSides x a.clock carry)) ((List.range a.n).map (x.pa + ·)) (leBytes a.n v)
  let t := if x.rel.isEmpty then t else t.raiseSpace x.pa a.clock
  (t, { x with stamp := if a.op.fetches then t.spaceClock x.pa else 0, number := s.fresh })

/-- A slice performs one lane's write to global memory (16 R352). -/
def State.performSlice (s : State) (a : Access) (x : LaneAcc) (v : Nat) (carry : List Sync) : State × LaneAcc :=
  let (t, st) := s.performWrite x.pa (leBytes a.n v) a.clock
  (t.signed (a.writer x (a.releaseSides x st carry)) x.pa [], { x with stamp := st })

/-- The keys of a store whose lanes are all performed: a sector that they write whole is no longer poisoned (08 R197). -/
def State.coverAccess (s : State) (a : Access) : State :=
  if a.lanes.all (·.done) then s.coverSectors (a.lanes.flatMap fun x => (List.range a.n).map (x.pa + ·)) else s

/-- The sector whose data an atomic of some lanes cannot read: one that is poisoned, or of an unreachable home (08 R197; 19
R403). -/
def State.spoils (s : State) (n : Nat) (xs : List LaneAcc) : Option Nat :=
  xs.findSome? fun x => if s.gone x.pa then some (x.pa / 32 * 32) else s.poisonAt x.pa n

/-- A slice or bank performs one lane of a store, atomic or reduction; one to an unreachable home is dropped, its atomic reading
POISON (19 R403). An atomic's lanes are read before any is written: POISON in one, and none stores (00 R11; 08 R197). A sector
that an error strikes between two of its lanes is POISON for the lanes still to come (log 41). -/
def State.performLane (s : State) (a : Access) (x : LaneAcc) : State :=
  let spoilt : Option Nat := a.lanes.findSome? (·.bad)
    <|> if a.op.fetches then s.spoils a.n (if a.lanes.any (·.done) then [x] else a.lanes) else none
  if spoilt.isSome then s.putAccess (a.setLane { x with done := true, bad := spoilt })
  else if s.gone x.pa then s.putAccess (a.setLane { x with done := true })
  else
    let old := s.readNat x.pa a.n
    match a.op.result a.n a.sx old x.data x.cmp with
    | none => s
    | some v =>
      let carry := if a.op.stores then [] else s.carried x.pa a.n
      let (t, y) := if isKey x.pa then s.performBank a x v carry else s.performSlice a x v carry
      let b := a.setLane { y with done := true, old := old, syncs := if a.op.fetches then carry else [] }
      ((t.putAccess b).coverAccess b).noticeWrite x.pa a.n

/-- GL_WRITE_PERFORMED (16 R352; 08 R210), for a die store too (log 3). -/
def execEvGlWritePerformed (acc lane : Nat) (s : State) : Result :=
  match s.access? acc with
  | none => .next s
  | some a => match a.lanes.find? fun x => x.lane == lane with
    | none => .next s
    | some x =>
      if a.op.reads || x.done || inWindow x.pa || s.heldBack a x then .next s
      else .next (State.stabilise (s.performLane a x).releaseWindows)

/-- Waiting triggers of a warp's lanes take effect once their earlier accesses are acknowledged (14 R336). -/
def State.settleTriggers (s : State) (uid : Nat) : State :=
  match s.warp? uid with
  | none => s
  | some w =>
    let due := w.trigWait.filter fun t => !s.accesses.any fun a =>
      a.warp == uid && a.id < t.at_ && !a.op.reads && a.lanes.any fun x => x.lane == t.lane
    if due.isEmpty then s
    else
      let m := due.foldl (fun a t => a ||| maskOf fun i => i == t.lane) (0 : Mask)
      let s : State := s.putWarp { w with triggered := w.triggered ||| m,
                                          trigWait := w.trigWait.filter fun t => !due.contains t }
      let s : State := s.modWg w.wg fun g => { g with trigClock := max g.trigClock w.clock }
      s.modLaunch w.launch fun l => { l with trigClock := max l.trigClock w.clock,
                                             trigPast := due.foldl (fun p t => joinPast p t.past) l.trigPast }

/-- A lane as a reader (08 R212). -/
def Access.reader (a : Access) (x : LaneAcc) : Reader := (a.party x, x.past)

/-- A load's lane read at its reply, for the threads `ps` that share it (08 R212; 16 Table 16-2, R355): the value and the stamp,
or the poisoned address. A load may miss writes (log 3); one of a compressed page misses none (08 R208). -/
def State.readLane (s : State) (a : Access) (ps : List Reader) (x : LaneAcc) : State × LaneAcc :=
  if inWindow x.pa then (s, x)
  else
    let (t, st) := if isKey x.pa then (s, s.spaceClock x.pa)
      else if a.scope.wide then s.readStamp x.pa a.clock
      else (s, s.versionStamp (if pteC x.pte then pteAddr x.pte else x.pa))
    match t.readThrough x.pa x.pte a.n with
    | .error p => (t, { x with done := true, bad := some p })
    | .ok bs =>
      if pteC x.pte then (t, { x with done := true, old := leNat bs, stamp := st, syncs := t.chunkSyncs x.pte })
      else
        let (t, xs, bs, st') := t.loadFrom ps a.id x.pa bs st
        (t, { x with done := true, old := leNat bs, stamp := if isKey x.pa then st else st', syncs := xs.flatMap (·.syncs) })

/-- What lane `x` of a uniform load has of the one read that its lanes share (08 R219). -/
def LaneAcc.like (x y : LaneAcc) : LaneAcc := { x with done := y.done, bad := y.bad, old := y.old, stamp := y.stamp, syncs := y.syncs }

/-- The lanes of a load read. -/
def State.readLanes (s : State) (a : Access) : State × List LaneAcc :=
  match a.lanes with
  | [] => (s, [])
  | x :: r =>
    if a.uniform && a.full && !inWindow x.pa then
      let (t, y) := s.readLane a (a.lanes.map a.reader) x
      (t, y :: r.map (·.like y))
    else a.lanes.foldl (fun (acc : State × List LaneAcc) x =>
      let (t, y) := acc.1.readLane a [a.reader x] x
      (t, acc.2 ++ [y])) (s, [])

/-- A reply whose data is poisoned applies the region's fault policy (08 R197; 06 Table 6-5); no lane receives data. Every
poisoned sector read is logged (19 R409). -/
def State.poisonReply (s : State) (a : Access) (pas : List Nat) : State :=
  let t : State := pas.eraseDups.foldl (fun (s : State) pa => s.poisonLog pa a.node) s
  { t with accesses := t.accesses.filter fun b => b.id != a.id }.faultPolicy a.launch a.wg 0x14

/-- The registers a reply writes (08 R217, R222, R223; 16 R373): a lane that has exited receives nothing (04 R97). A lane whose
store received no stamp gets a free value (log 17). -/
def Warp.takeReply (w : Warp) (a : Access) (free : Nat) : Warp :=
  let val (i : Nat) : Nat := ((a.lanes.find? fun x => x.lane == i).map (·.old)).getD 0
  let st (i : Nat) : DWord := match a.lanes.find? fun x => x.lane == i with
    | some x => if x.stamp = 0 then Config.freeStamp (free + i) else BitVec.ofNat 64 x.stamp
    | none => 0
  match a.op with
  | .load | .asof => w.writeData a.dst a.n a.sx (a.eff &&& w.living) a.full a.uniform val
  | .atom _ | .atomf _ _ => w.writeData a.dst a.n false (a.eff &&& w.living) false false val
  | .storeStamp => w.writeResult a.dst2 true (a.eff &&& w.living) false false none st
  | _ => w

/-- What a reply brings along happens-before (08 R211): the release sides whose values its living lanes read. -/
def Warp.takeSyncs (w : Warp) (a : Access) : Warp :=
  (a.lanes.filter fun x => w.living.getLsbD x.lane).foldl (fun w x => w.hearAll x.lane a.acquires (a.party x) x.syncs) w

/-- The writes of an access have been acknowledged (08 R212). -/
def State.acknowledgeAll (s : State) (a : Access) : State :=
  if a.op.reads then s
  else a.lanes.foldl (fun s x => s.acknowledge x.pa (if isKey x.pa || inWindow x.pa then x.number else x.stamp)) s

/-- A reply reaches the record of a lane that has departed (11 R279, R280): the registers it writes, its stamp, what it heard. -/
def Departure.take (d : Departure) (a : Access) (free : Nat) (limit : Nat) : Departure :=
  match a.lanes.find? fun x => x.lane == d.lane with
  | none => d
  | some x =>
    if a.warp ≠ d.warp then d
    else
      let r := d.record
      let words : List (Nat × Word) := match a.op with
        | .load | .asof => (List.range (max 1 (a.n / 4))).map fun k => (a.dst + k, BitVec.ofNat 32 (loadWord a.n a.sx x.old k))
        | .atom _ | .atomf _ _ => (List.range (max 1 (a.n / 4))).map fun k => (a.dst + k, BitVec.ofNat 32 (loadWord a.n false x.old k))
        | .storeStamp =>
          let st : DWord := if x.stamp = 0 then Config.freeStamp (free + x.lane) else BitVec.ofNat 64 x.stamp
          [(a.dst2, lo32 st), (a.dst2 + 1, hi32 st)]
        | _ => []
      let r : ThreadRecord := words.foldl (fun r p =>
        if p.1 < limit then { r with regs := r.regs.set p.1 p.2, shipped := r.shipped ||| BitVec.ofNat 64 (2 ^ p.1) } else r) r
      let go (r : ThreadRecord) (y : Sync) : ThreadRecord :=
        let r := { r with sight := { r.sight with heard := hearIn r.sight.heard y } }
        if a.acquires && y.reaches (a.party x) then
          { r with clock := max r.clock y.stamp, sight := { r.sight with past := joinPast r.sight.past y.past } }
        else r
      { d with record := x.syncs.foldl go { r with clock := max r.clock x.stamp } }

/-- The register limit of a segment of a launch. -/
def State.segLimit (s : State) (launch seg : Nat) : Nat := (((s.launch? launch).bind fun l => l.segments[seg]?).map (·.limit)).getD 0

/-- A reply reaches its warp (16 R354): registers, the merged stamp, triggers; its later accesses in flight take what an acquire
brings. Operations of the warp that wait for acknowledgements carry the stamp (16 R353). An exited warp's late acknowledgement
counts for its launch's stamps (16 R357, R358; log 18), an exited lane's for its launch's triggers (14 R336), and a departed
lane's record takes its part. -/
def State.answer (s : State) (a : Access) : State :=
  let st := if a.op == .asof then 0 else a.lanes.foldl (fun m x => max m x.stamp) 0
  let s := s.acknowledgeAll a
  let t : State := { s with
    accesses := s.accesses.filter (fun b => b.id != a.id),
    free := (if a.op == .storeStamp then s.free + 32 else s.free),
    stages := s.stages.map (fun d => d.take a s.free (s.segLimit d.launch d.seg)),
    copies := s.copies.map (fun c => if c.warp = a.warp && !c.started then { c with clock := max c.clock st } else c),
    lineOps := s.lineOps.map (fun o => if o.warp = a.warp && o.stage = .waiting then { o with clock := max o.clock st } else o),
    launches := s.launches.map (fun l => if l.issuedBy a.warp then { l with carried := max l.carried st } else l) }
  match t.warp? a.warp with
  | none => t.modLaunch a.launch fun l => { l with endStamp := max l.endStamp st, trigClock := max l.trigClock st }
  | some w =>
    let v := ((w.takeReply a s.free).merge st).takeSyncs a
    let later (b : Access) : Access :=
      if a.acquires && b.warp = a.warp && a.id < b.id then
        { b with lanes := b.lanes.map fun x => { x with past := joinPast x.past (v.sight x.lane).past } } else b
    let u : State := { t with accesses := t.accesses.map later }.putWarp v
    let u : State := if a.lanes.all fun x => w.living.getLsbD x.lane then u
      else u.modLaunch a.launch fun l => { l with trigClock := max l.trigClock st }
    u.settleTriggers w.uid

/-- ACCESS_REPLY (16 R354; 08 R212, R213): a load reads and answers; a store, atomic or reduction answers once every lane is
performed. -/
def execEvAccessReply (acc : Nat) (s : State) : Result :=
  match s.access? acc with
  | none => .next s
  | some a =>
    let ready := match a.op with
      | .load => a.lanes.all fun x => if inWindow x.pa then x.done else !s.heldBack a x
      | .asof | .waitRead _ | .copyRead _ | .copyWrite _ | .frontWrite _ | .pageMove => false
      | _ => a.lanes.all (·.done)
    if !ready then .next s
    else
      let (t, lanes) := if a.op == .load then s.readLanes a else (s, a.lanes)
      match lanes.filterMap (·.bad) with
      | [] => .next (State.stabilise (t.answer { a with lanes := lanes }).releaseWindows)
      | ps => .next (State.stabilise (t.poisonReply a ps).releaseWindows)

/-! ### Windows -/

/-- The host die or the peer has applied a write of this package through a window (20 R419): what it wrote, with the release
sides it belongs to. The model keeps the bytes that this package last wrote (log 40). -/
def State.windowWrote (s : State) (a : Access) (x : LaneAcc) : State × Nat :=
  let bs := leBytes a.n x.data
  let p : Writer := match a.op with
    | .copyWrite op => { s.engineWriter op with acked := false }
    | .frontWrite op =>
      let p := if op = 0 then frontParty else mailParty
      { who := some p, number := a.id, syncs := x.rel.map fun y => Sync.mk p a.clock y.2 }
    | _ => a.writer x (a.releaseSides x a.clock [])
  let t := (sectorParts x.pa a.n).foldl (fun (t : State) q =>
    (t.write q.1 ((bs.drop (q.1 - x.pa)).take q.2)).bankWrote p q.1 (t.read q.1 q.2) []) s
  (t, s.fresh)

/-- The release sides whose values a read through a window returns: those of this package's last write there, where the value is
the one it wrote (08 R211; log 40). -/
def State.windowHeard (s : State) (pa n v : Nat) : List Sync := if s.readNat pa n = v then s.carried pa n else []

/-- A waiting reader's word arrives through a window (08 R227; 20 R419); with .acq, one that satisfies is an acquire (R228). -/
def State.windowWord (s : State) (a : Access) (e : Nat) (x : LaneAcc) (v : Word) : State :=
  let ys := s.windowHeard x.pa 4 v.toNat
  s.modWarp a.warp fun w => match (w.entry e).wait with
    | .value q =>
      let lanes := q.lanes.map fun y => if y.lane = x.lane then y.take q.cmp v else y
      let good := lanes.any fun y => y.lane == x.lane && y.satisfied
      let w := w.hearAll x.lane (q.acq && good) (a.party x) ys
      w.setEntry e { w.entry e with wait := .value { q with lanes := lanes } }
    | _ => w

/-- An access whose last lane is answered is gone. -/
def State.putOrDrop (s : State) (a : Access) : State :=
  if a.lanes.all (·.done) then { s with accesses := s.accesses.filter fun b => b.id != a.id } else s.putAccess a

/-- One lane of a window access is answered: `v` the data read, none after a timeout (20 R419, R420). What a moved page brings
stands there since the move, its poison too (19 R405, R409). -/
def State.windowLane (s : State) (a : Access) (x : LaneAcc) (v : Option Nat) : State :=
  match a.op, v with
  | .waitRead _, none => s.poisonReply a [x.pa]
  | .waitRead e, some d =>
    if (s.poisonAt x.pa a.n).isSome then s.poisonReply a [x.pa]
    else (s.windowWord a e x (BitVec.ofNat 32 d)).putOrDrop (a.setLane { x with done := true })
  | .load, none | .copyRead _, none => s.putAccess (a.setLane { x with done := true, bad := some x.pa })
  | .load, some d | .copyRead _, some d =>
    let d := d % 2 ^ (8 * a.n)
    s.putAccess (a.setLane { x with done := true, bad := s.poisonAt x.pa a.n, old := d, syncs := s.windowHeard x.pa a.n d })
  | .copyWrite _, none | .frontWrite _, none | .pageMove, none =>
    (s.logged (.windowTimeout x.pa)).putOrDrop (a.setLane { x with done := true })
  | .pageMove, some _ => s.putOrDrop (a.setLane { x with done := true })
  | .copyWrite _, some _ | .frontWrite _, some _ => (s.windowWrote a x).1.putOrDrop (a.setLane { x with done := true })
  | _, none => (s.logged (.windowTimeout x.pa)).putAccess (a.setLane { x with done := true })
  | _, some _ =>
    let (t, n) := s.windowWrote a x
    t.putAccess (a.setLane { x with done := true, number := n })

/-- WINDOW_ACCESS_REPLY (20 R419, R420): the host die or the peer answers one lane. -/
def State.windowReply (s : State) (acc lane : Nat) (data : BitVec 128) : State :=
  match s.access? acc with
  | none => s
  | some a => match a.lanes.find? fun x => x.lane == lane with
    | none => s
    | some x => if x.done || !inWindow x.pa || !x.sent then s else (s.windowLane a x (some data.toNat)).releaseWindows

/-- A fabric window has no live port (20 R421). -/
def State.noPort (s : State) (pa : Nat) : Bool :=
  homeOf pa ≥ 12 && (s.livePorts pa).isEmpty

/-- WINDOW_TIMEOUT (20 R420, R421): 1,000,000 ticks without an answer, or a window with no live port. -/
def State.windowExpire (s : State) (acc lane : Nat) : State :=
  match s.access? acc with
  | none => s
  | some a => match a.lanes.find? fun x => x.lane == lane with
    | none => s
    | some x =>
      if x.done || !inWindow x.pa || !x.sent || (s.tick < a.since + 1000000 && !s.noPort x.pa) then s
      else (s.windowLane a x none).releaseWindows

/-! ### Returns from BLOCK -/

/-- The waitval an entry waits in. -/
def State.valueWait? (s : State) (uid e : Nat) : Option (Warp × ValueWait) :=
  match s.warp? uid with
  | none => none
  | some w =>
    let x := w.entry e
    match x.st, x.wait with
    | .block, .value v => some (w, v)
    | _, _ => none

/-- waitval returns (08 R227): each effective lane receives the last value it read. -/
def State.endValueWait (s : State) (w : Warp) (e : Nat) (v : ValueWait) : State :=
  s.resume w.uid e fun w =>
    let val (i : Nat) : Word := ((v.lanes.find? fun x => x.lane == i).map (·.last)).getD 0
    (w.setLanes v.dat v.eff val).kill (v.eff == w.living) v.marks [v.dat]

/-- WAITVAL_WAKE (08 R227, R228): every effective lane has been satisfied. -/
def execEvWaitvalWake (wid entry : Nat) (s : State) : Result :=
  match s.valueWait? wid entry with
  | none => .next s
  | some (w, v) => if v.lanes.all (·.satisfied) then .next (s.endValueWait w entry v) else .next s

/-- A window's word is still on its way to an entry. -/
def State.wordPending (s : State) (uid e : Nat) : Bool :=
  s.accesses.any fun a => a.warp == uid && a.op == .waitRead e

/-- Lanes of a waitval read a window's words by an access of their own. -/
def State.sendWords (s : State) (w : Warp) (e : Nat) (v : ValueWait) (ls : List ValueLane) : State :=
  s.launchAccess
    { id := s.fresh, warp := w.uid, launch := w.launch, wg := w.wg, node := s.nodeOf w, asid := s.asidOf w, die := w.die, core := w.core,
      pc := (w.entry e).pc, op := .waitRead e, n := 4, sx := false, ord := .rlx, scope := v.scope, clock := w.clock, eff := v.eff,
      full := false, uniform := false, dst := 0, dst2 := 0, since := s.tick,
      lanes := ls.map fun x => { lane := x.lane, thread := w.thread x.lane, va := x.va, pa := x.addr } }

/-- The lanes of a waitval that a window's words have to satisfy. -/
def ValueWait.far (v : ValueWait) : List ValueLane := v.lanes.filter fun x => !x.satisfied && inWindow x.addr

/-- WAITVAL_LIMIT (08 R227): the first read at or after the limit ends the wait. Words of a window are asked for first. -/
def execEvWaitvalLimit (wid entry : Nat) (s : State) : Result :=
  match s.valueWait? wid entry with
  | none => .next s
  | some (w, v) => match v.limit with
    | none => .next s
    | some t =>
      if s.cycle < t || s.wordPending wid entry || v.lanes.any (fun x => !x.satisfied && s.unperformed wid x.addr 4) then .next s
      else if !v.closing && !v.far.isEmpty then
        .next ((s.putWarp (w.setEntry entry { w.entry entry with wait := .value { v with closing := true } })).sendWords w entry v v.far)
      else
        let s1 := s.rereadEntry wid entry fun _ => true
        match s1.valueWait? wid entry with
        | none => .next (State.stabilise s1)
        | some (w, v) => .next (s1.endValueWait w entry v)

/-- WAITVAL_REREAD (08 R227): an unsatisfied lane reads its word again; a poisoned word is POISON (R197). -/
def execEvWaitvalReread (wid entry lane : Nat) (s : State) : Result :=
  match s.valueWait? wid entry with
  | none => .next s
  | some (w, v) => match v.lanes.find? fun x => x.lane == lane && !x.satisfied with
    | none => .next s
    | some x =>
      if inWindow x.addr then
        if s.wordPending wid entry then .next s else .next (s.sendWords w entry v [x])
      else .next (State.stabilise (s.rereadEntry wid entry fun y => y.lane == lane))

/-- SLEEP_EXPIRY (04 R99): the split runs on at the PC after the sleep. -/
def execEvSleepExpiry (wid entry : Nat) (s : State) : Result :=
  match s.warp? wid with
  | none => .next s
  | some w =>
    let x := w.entry entry
    match x.st, x.wait with
    | .block, .sleep t =>
      if s.cycle < t then .next s
      else .next (State.stabilise ((s.putWarp (w.setEntry entry { x with st := .run, wait := .none })).advance wid entry
        [(x.pc, x.mask)]))
    | _, _ => .next s

end Sys2Proof.Machine
end

