-- ==== Sys2Proof/Machine/Barriers.lean ====
section
/-! DEFINITION. Machine/Barriers.lean: bar, barc, bard, pbar and the release of a package barrier (06 R156 to R160; 11 R269 to
R272; 13 R301 to R304; 14 R339, R340). What an arrival completes comes about in the same step (`State.readyBarrier`). -/

namespace Sys2Proof.Machine

/-- The effective lanes arrive at an instance, after the wait of a release; lanes that are guarded off go to the next PC. -/
def State.barrier (s : State) (f : FormV) (kind : GroupKind) : Result :=
  match s.ctx? f.guard with
  | none => .next s
  | some c =>
    if c.eff = 0 then .next (s.finish c c.w)
    else if s.pendingFor c.w.uid c.eff then .next s.wait
    else .next (State.done (s.putWarp (c.w.arrive c.e c.pc c.eff kind [(nextSlot c.pc, c.run &&& ~~~c.eff)])))

/-- The instance number, OPS[86:84]. -/
def FormV.inst (f : FormV) : Nat := f.opsAt 86 84

/-- bar (06 R156, R157). -/
def execBar (f : FormV) (s : State) : Result := s.barrier f (.bar (FormV.inst f))
/-- barc (11 R269, R270). -/
def execBarc (f : FormV) (s : State) : Result := s.barrier f (.barc (FormV.inst f) f.dst.toNat)
/-- bard (13 R301, R302). -/
def execBard (f : FormV) (s : State) : Result := s.barrier f (.bard (FormV.inst f) f.dst.toNat)

/-- pbar (14 R339): in a launch that is not resident it does not wait, and pd receives 0. -/
def execPbar (f : FormV) (s : State) : Result :=
  match s.ctx? f.guard with
  | none => .next s
  | some c =>
    if c.l.packet.resident then s.barrier f (.pbar (FormV.inst f) f.dst.toNat)
    else if c.eff != 0 && s.pendingFor c.w.uid c.eff then .next s.wait
    else .next (s.finish c (c.w.setPred f.dst.toNat c.eff 0))

/-- PBAR_RELEASE (14 R339): the groups that wait at a complete instance rejoin. -/
def execEvPbarRelease (launch inst : Nat) (s : State) : Result :=
  match s.launch? launch with
  | none => .next s
  | some l =>
    if !l.whole || !l.pbarReady.contains inst then .next s
    else
      let t := s.modLaunch launch fun l => { l with pbarReady := l.pbarReady.filter (· != inst) }
      .next (State.stabilise (t.releaseBarrier (·.launch == launch) (isPbarN inst) (!l.pbarBroken)))

end Sys2Proof.Machine
end

