-- ==== Sys2Proof/Machine/FloatArith.lean ====
section
/-! DEFINITION. Machine/FloatArith.lean: the meanings of class 0x4 (05 R125 to R132). -/

namespace Sys2Proof.Machine

/-- A result of bits under a type. -/
def fbits (n : Nat) : DWord := BitVec.ofNat 64 n

/-- A two-operand instruction on bit patterns; U when both operands count as U (05 R131). -/
def State.float2 (s : State) (guard : Nat × Bool) (t : Ty) (dst : Nat) (a b : Opd) (marks : List Nat)
    (op : Nat → Nat → Nat) : Result :=
  s.alu guard (a.regs ++ b.regs) marks (dstRegs dst t.wide) fun c =>
    .ok (c.w.writeResult dst t.wide c.eff c.full (allU c [a, b]) none
      fun i => fbits (op (t.bits (a.val c i)) (t.bits (b.val c i))))

def FormV.float2 (f : FormV) (s : State) (op : Nat → Nat → Nat) : Result :=
  let a := f.a f.type.wide; let b := f.b f.type.wide
  s.float2 f.guard f.type f.dst.toNat (.src a) (.src b) (f.marked [(0, a), (1, b)]) op
/-- Its I twin (02 R57). -/
def FormI.float2 (f : FormI) (s : State) (op : Nat → Nat → Nat) : Result :=
  let a := f.a f.type.wide
  s.float2 f.guard f.type f.dst.toNat (.src a) (.imm f.immVal) (f.marked a) op

/-- fadd, fsub, fmul on values, rounded once (05 R126). -/
def arithF (t : Ty) (r : Rnd) (op : FVal → FVal → FVal) (a b : Nat) : Nat :=
  encodeF t r (op (decodeF t a) (decodeF t b))

/-- The rounding modes of formats V and I (02 R55). -/
def FormV.mode (f : FormV) : Rnd := Rnd.ofCode f.rnd.toNat
def FormI.mode (f : FormI) : Rnd := Rnd.ofCode f.rnd.toNat

/-- fadd (05 R126). -/
def execFadd (f : FormV) (s : State) : Result :=
  FormV.float2 f s (arithF f.type (FormV.mode f) (addF (FormV.mode f)))
def execFaddI (f : FormI) (s : State) : Result :=
  FormI.float2 f s (arithF f.type (FormI.mode f) (addF (FormI.mode f)))
/-- fsub (05 R126). -/
def execFsub (f : FormV) (s : State) : Result :=
  FormV.float2 f s (arithF f.type (FormV.mode f) fun a b => addF (FormV.mode f) a (negF b))
def execFsubI (f : FormI) (s : State) : Result :=
  FormI.float2 f s (arithF f.type (FormI.mode f) fun a b => addF (FormI.mode f) a (negF b))
/-- fmul (05 R126). -/
def execFmul (f : FormV) (s : State) : Result := FormV.float2 f s (arithF f.type (FormV.mode f) mulF)
def execFmulI (f : FormI) (s : State) : Result := FormI.float2 f s (arithF f.type (FormI.mode f) mulF)

/-- ffma (05 R126): exact product and sum, one rounding. -/
def execFfma (f : FormV) (s : State) : Result :=
  let t := f.type; let r := FormV.mode f
  let a := f.a t.wide; let b := f.b t.wide; let c3 := f.c t.wide
  s.alu f.guard (a.regs ++ b.regs ++ c3.regs) (f.marked [(0, a), (1, b), (2, c3)]) (dstRegs f.dst.toNat t.wide) fun c =>
    .ok (c.w.writeResult f.dst.toNat t.wide c.eff c.full (allU c [.src a, .src b, .src c3]) none
      fun i => fbits (encodeF t r (addF r (mulF (decodeF t (t.bits (a.val c i))) (decodeF t (t.bits (b.val c i))))
        (decodeF t (t.bits (c3.val c i))))))

/-- fmin, fmax, fminn, fmaxn (05 R127). -/
def execFmin (f : FormV) (s : State) : Result := FormV.float2 f s (pickF f.type false false)
def execFminI (f : FormI) (s : State) : Result := FormI.float2 f s (pickF f.type false false)
def execFmax (f : FormV) (s : State) : Result := FormV.float2 f s (pickF f.type true false)
def execFmaxI (f : FormI) (s : State) : Result := FormI.float2 f s (pickF f.type true false)
def execFminn (f : FormV) (s : State) : Result := FormV.float2 f s (pickF f.type false true)
def execFminnI (f : FormI) (s : State) : Result := FormI.float2 f s (pickF f.type false true)
def execFmaxn (f : FormV) (s : State) : Result := FormV.float2 f s (pickF f.type true true)
def execFmaxnI (f : FormI) (s : State) : Result := FormI.float2 f s (pickF f.type true true)

/-- A one-source instruction on bit patterns with a destination of `wide` registers. -/
def FormV.float1 (f : FormV) (s : State) (wide : Bool) (op : Nat → Nat) : Result :=
  let t := f.type; let a := f.a t.wide
  s.alu f.guard a.regs (f.marked [(0, a)]) (dstRegs f.dst.toNat wide) fun c =>
    .ok (c.w.writeResult f.dst.toNat wide c.eff c.full (allU c [.src a]) none fun i => fbits (op (t.bits (a.val c i))))

/-- fabs and fneg (05 R128): the sign bit only. -/
def execFabs (f : FormV) (s : State) : Result := FormV.float1 f s f.type.wide f.type.mag
def execFneg (f : FormV) (s : State) : Result :=
  FormV.float1 f s f.type.wide fun a => f.type.withSign (!f.type.neg a) (f.type.mag a)

/-- fclass (05 R130): one bit of a 32-bit mask. -/
def execFclass (f : FormV) (s : State) : Result := FormV.float1 f s false fun a => 2 ^ classF f.type a

/-- fcmp (05 R129): OPS[86:84] is the comparison, OPS[87] its result when unordered. -/
def State.floatCmp (s : State) (guard : Nat × Bool) (t : Ty) (pd : Nat) (a b : Opd) (marks : List Nat) (ops : Nat) :
    Result :=
  s.alu guard (a.regs ++ b.regs) marks [] fun c =>
    .ok (c.w.setPred pd c.eff (maskOf fun i =>
      c.eff.getLsbD i && cmpF t (ops % 8) (ops.testBit 3) (t.bits (a.val c i)) (t.bits (b.val c i))))
def execFcmp (f : FormV) (s : State) : Result :=
  let a := f.a f.type.wide; let b := f.b f.type.wide
  s.floatCmp f.guard f.type f.dst.toNat (.src a) (.src b) (f.marked [(0, a), (1, b)]) (f.opsAt 87 84)
def execFcmpI (f : FormI) (s : State) : Result :=
  let a := f.a f.type.wide
  s.floatCmp f.guard f.type f.dst.toNat (.src a) (.imm f.immVal) (f.marked a) (f.opsAt 87 84)

end Sys2Proof.Machine
end

