-- ==== Sys2Proof/Machine/Special.lean ====
section
/-! DEFINITION. Machine/Special.lean: the special functions of class 0x5 (05 R137, R138). Each is evaluated in fixed point with
512 fraction bits. f16 and bf16 results are correctly rounded; for f32 and f64 the bits are open within Table 5-5 and come from
Config, kept only within the bound (log 7). -/

namespace Sys2Proof.Machine

/-- The special functions whose bits are open. -/
inductive SpecialFn where
  | rcp | rsq | ex2 | lg2 | sin | cos | tanh
  deriving DecidableEq, Repr

def SpecialFn.code : SpecialFn → Nat
  | .rcp => 0 | .rsq => 1 | .ex2 => 2 | .lg2 => 3 | .sin => 4 | .cos => 5 | .tanh => 6

/-- ln 2 × 2^512. -/
def ln2Fix : Nat := 0xb17217f7d1cf79abc9e3b39803f2f6af40f343267298b62d8a0d175b8baafa2be7b876206debac98559552fb4afa1b10ed2eae35c138214427573b291169b825
/-- π/2 × 2^704. -/
def halfPiFix : Nat := 0x1921fb54442d18469898cc51701b839a252049c1114cf98e804177d4c76273644a29410f31c6809bbdf2a33679a748636605614dbe4be286e9fc26adadaa3848bc90b6aecc4bcfd8de89885d34c6fdad617feb96de80d6fdb
/-- 1 in fixed point. -/
def oneFix : Nat := 2 ^ 512

/-- m × 2^e in fixed point with `k` fraction bits, cut. -/
def toFix (k : Nat) (m : Nat) (e : Int) : Nat :=
  match e + k with
  | .ofNat j => m * 2 ^ j
  | .negSucc j => m / 2 ^ (j + 1)

/-- exp t for 0 ≤ t < 1, n terms. -/
def expFix (t : Nat) : Nat → Nat → Nat
  | 0, acc => acc
  | k + 1, acc => expFix t k (oneFix + t * acc / oneFix / (k + 1))

/-- 2^x for x = n + f/2^512: the fixed-point power of the fraction, in [1, 2). -/
def exp2Fix (f : Nat) : Nat := expFix (f * ln2Fix / oneFix) 110 oneFix

/-- The sine (d = 0) or cosine (d = 1) of 0 ≤ r < π/2 by its series. -/
def sinTail (x2 d : Nat) : Nat → Nat → Nat
  | 0, acc => acc
  | k + 1, acc =>
    let n := 2 * (k + 1)
    sinTail x2 d k (oneFix - x2 * acc / oneFix / (n * (if d = 0 then n + 1 else n - 1)))
def sinFix (r : Nat) : Nat := r * sinTail (r * r / oneFix) 0 64 oneFix / oneFix
def cosFix (r : Nat) : Nat := sinTail (r * r / oneFix) 1 64 oneFix

/-- The quadrant of an angle and the angle within it (exact argument reduction). -/
def reduceAngle (m : Nat) (e : Int) : Nat × Nat :=
  let x := toFix 704 m e
  (x / halfPiFix % 4, x % halfPiFix / 2 ^ 192)

/-- ln((1+z)/(1−z)) / 2 for z = num/den by its series. -/
def atanhFix (z z2 : Nat) : Nat → Nat → Nat
  | 0, acc => z * acc / oneFix
  | k + 1, acc => atanhFix z z2 k (oneFix / (2 * k + 1) + z2 * acc / oneFix)

/-- log₂ of m × 2^e as a signed fixed-point number. -/
def log2Fix (m : Nat) (e : Int) : Int :=
  let l := m.log2
  let num := m - 2 ^ l; let den := m + 2 ^ l
  let z := num * oneFix / den
  let ln := 2 * atanhFix z (z * z / oneFix) 170 0
  (l + e) * oneFix + ((ln * oneFix / ln2Fix : Nat) : Int)

/-- An approximation of an exact result: ±m × 2^e, more by less than a unit of m where `sticky`. -/
structure Approx where
  neg    : Bool
  m      : Nat
  e      : Int
  sticky : Bool
  deriving DecidableEq, Repr

/-- A signed fixed-point number as an approximation, or as exact. -/
def Approx.ofFix (v : Int) (sticky : Bool) : Approx := ⟨v < 0, v.natAbs, -512, sticky⟩

/-- tanh of a nonzero magnitude: (2^y − 1)/(2^y + 1), y = 2x/ln 2. -/
def tanhFix (m : Nat) (e : Int) : Nat :=
  let x := toFix 512 m e
  if 16 * oneFix ≤ x then oneFix - 1
  else
    let y := 2 * x * oneFix / ln2Fix
    let p := exp2Fix (y % oneFix) * 2 ^ (y / oneFix)
    (p - oneFix) * oneFix / (p + oneFix)

/-- The exact result for a finite operand that Table 5-6 does not name. -/
def SpecialFn.exact (fn : SpecialFn) (neg : Bool) (m : Nat) (e : Int) : Approx :=
  match fn with
  | .rcp =>
    let x := 2 ^ (m.log2 + 512)
    ⟨neg, x / m, -e - (m.log2 + 512 : Nat), x % m != 0⟩
  | .rsq =>
    let odd := e % 2 == 1
    let n := if odd then 2 * m else m
    let k := n.log2 + 256
    let x := 2 ^ (2 * k)
    let q := isqrt (x / n)
    ⟨false, q, -((if odd then e - 1 else e) / 2) - k, q * q * n != x⟩
  | .ex2 =>
    let x : Int := toFix 512 m e
    let v := if neg then -x else x
    ⟨false, exp2Fix (v % oneFix).toNat, v / oneFix - 512, v % oneFix != 0⟩
  | .lg2 => Approx.ofFix (log2Fix m e) (m != 2 ^ m.log2)
  | .sin =>
    let (q, r) := reduceAngle m e
    let v := if q % 2 = 0 then sinFix r else cosFix r
    ⟨neg != (2 ≤ q), v, -512, true⟩
  | .cos =>
    let (q, r) := reduceAngle m e
    let v := if q % 2 = 0 then cosFix r else sinFix r
    ⟨q == 1 || q == 2, v, -512, true⟩
  | .tanh => ⟨neg, tanhFix m e, -512, true⟩

/-- Table 5-6, and the other results that are exact: the bits, for operands it names. -/
def SpecialFn.special (fn : SpecialFn) (t : Ty) (v : FVal) : Option Nat :=
  let one := encodeF t .rne (.num false 1 0)
  match fn, v with
  | _, .nan => some t.nan
  | .rcp, .inf n => some (t.withSign n 0)
  | .rcp, .num n 0 _ => some (t.withSign n t.infBits)
  | .rsq, .inf n => some (if n then t.nan else 0)
  | .rsq, .num n 0 _ => some (t.withSign n t.infBits)
  | .rsq, .num true _ _ => some t.nan
  | .ex2, .inf n => some (if n then 0 else t.infBits)
  | .ex2, .num _ 0 _ => some one
  | .ex2, .num n m e =>
    if floorLog2 m e > 12 then some (if n then 0 else t.infBits)
    else
      let x : Int := toFix 512 m e
      if x % oneFix = 0 && e > -512 then some (encodeF t .rne (.num false 1 ((if n then -x else x) / oneFix))) else none
  | .lg2, .inf n => some (if n then t.nan else t.infBits)
  | .lg2, .num _ 0 _ => some (t.withSign true t.infBits)
  | .lg2, .num true _ _ => some t.nan
  | .lg2, .num false m e => if m = 2 ^ m.log2 && (m.log2 : Int) + e = 0 then some 0 else none
  | .sin, .inf _ | .cos, .inf _ => some t.nan
  | .sin, .num n 0 _ => some (t.withSign n 0)
  | .cos, .num _ 0 _ => some one
  | .tanh, .inf n => some (t.withSign n one)
  | .tanh, .num n 0 _ => some (t.withSign n 0)
  | _, _ => none

/-- |candidate − exact| ≤ bound, the candidate ±n × 2^f, the bound b × 2^g (Table 5-5). -/
def Approx.within (y : Approx) (n : Int) (f : Int) (b : Nat) (g : Int) : Bool :=
  let e0 := min y.e (min f g)
  let c : Int := n * 2 ^ (f - e0).toNat
  let s : Int := if y.neg then -1 else 1
  let lo : Int := s * y.m * 2 ^ (y.e - e0).toNat
  let hi : Int := s * (y.m + if y.sticky then 1 else 0) * 2 ^ (y.e - e0).toNat
  let bound : Nat := b * 2 ^ (g - e0).toNat
  (c - lo).natAbs ≤ bound && (c - hi).natAbs ≤ bound

/-- The bound of Table 5-5 for f32 and f64, as b × 2^g. Which two representable numbers bracket an exact result that is itself
one is open: at a power of two the model takes the larger spacing, that of the binade above (log 38). -/
def SpecialFn.bound (fn : SpecialFn) (t : Ty) (m : Nat) (e : Int) (y : Approx) : Nat × Int :=
  let ulp : Int := floorLog2 y.m y.e - t.frac
  match fn with
  | .rcp | .rsq => (1, ulp)
  | .ex2 | .tanh => (2, ulp)
  | .sin | .cos => (1, -22)
  | .lg2 =>
    -- inside [0.5, 2] the bound is absolute
    let k := floorLog2 m e
    if k = -1 || k = 0 || (k = 1 && m = 2 ^ m.log2) then (1, -22) else (2, ulp)

/-- The bits a special function delivers (05 R137): the special values; the correctly rounded result for f16 and bf16; for f32
and f64 the open bits where they are a value within the bound, else the correctly rounded result (log 7). -/
def SpecialFn.bits (fn : SpecialFn) (t : Ty) (b : Nat) : Nat :=
  let v := decodeF t b
  match fn.special t v with
  | some r => r
  | none => match v with
    | .num n m e =>
      let y := fn.exact n m e
      let rne := roundBits t .rne y.neg y.m y.e y.sticky
      if t == .f16 || t == .bf16 || t.mag rne = t.infBits || (fn == .ex2 && t.mag rne = 0) then rne
      else
        let c := Config.specialBits fn.code t.width b % 2 ^ t.width
        match decodeF t c with
        | .num cn cm ce =>
          let (k, g) := fn.bound t m e y
          if y.within (if cn then -(cm : Int) else cm) ce k g then c else rne
        | _ => rne
    | _ => t.nan

end Sys2Proof.Machine
end

