-- ==== Sys2Proof/Machine/Convert.lean ====
section
/-! DEFINITION. Machine/Convert.lean: the meanings of class 0x5 (05 R133 to R140). -/

namespace Sys2Proof.Machine

/-- The converted bits of fcvt (05 R133). -/
def cvtBits (d st : Ty) (r : Rnd) (sat : Bool) (b : Nat) : Nat :=
  let v := decodeF st b
  let y := encodeF d r v
  if v != .nan && sat && d.mag y = d.infBits then d.withSign (d.neg y) d.maxFinite else y

/-- fcvt (05 R133, R134): OPS[89:88] places a 16-bit result, OPS[90] reads the high half of the source. -/
def execFcvt (f : FormV) (s : State) : Result :=
  let d := f.type; let st := f.stype; let place := f.opsAt 89 88; let hi := f.opsAt 90 90 == 1
  let a := f.a st.wide
  let old : Src := { n := f.dst.toNat }
  let keep := place == 1 || place == 2
  s.alu f.guard (a.regs ++ if keep then old.regs else []) (f.marked [(0, a)]) (dstRegs f.dst.toNat d.wide) fun c =>
    .ok (c.w.writeResult f.dst.toNat d.wide c.eff c.full (allU c (.src a :: if keep then [.src old] else [])) none
      fun i =>
        let x := (a.val c i).toNat
        let y := cvtBits d st (FormV.mode f) f.sat ((if hi then x / 2 ^ 16 else x) % 2 ^ st.width)
        let o := (old.val c i).toNat
        fbits (if place = 1 then o / 2 ^ 16 * 2 ^ 16 + y else if place = 2 then y * 2 ^ 16 + o % 2 ^ 16 else y))

/-- icvt (05 R135). -/
def execIcvt (f : FormV) (s : State) : Result :=
  let d := f.type; let st := f.stype; let a := f.a st.wide
  s.alu f.guard a.regs (f.marked [(0, a)]) (dstRegs f.dst.toNat d.wide) fun c =>
    .ok (c.w.writeResult f.dst.toNat d.wide c.eff c.full (allU c [.src a]) none fun i =>
      let x := st.read (a.val c i)
      if d.isFloat then fbits (encodeF d (FormV.mode f) (intF x)) else d.result f.sat x)

/-- The integer of fcvti (05 R136). -/
def cvtInt (d st : Ty) (r : Rnd) (sat : Bool) (b : Nat) : DWord :=
  let indefinite := d.hold (d.wrap (2 ^ (d.width - 1) : Int))
  match decodeF st b with
  | .nan => if sat then 0 else indefinite
  | .inf n => if sat then d.hold (if n then d.lo else d.hi) else indefinite
  | .num n m e => d.result sat (roundIntF r n m e)

/-- fcvti (05 R136). -/
def execFcvti (f : FormV) (s : State) : Result :=
  let d := f.type; let st := f.stype; let a := f.a st.wide
  s.alu f.guard a.regs (f.marked [(0, a)]) (dstRegs f.dst.toNat d.wide) fun c =>
    .ok (c.w.writeResult f.dst.toNat d.wide c.eff c.full (allU c [.src a]) none fun i =>
      cvtInt d st (FormV.mode f) f.sat (st.bits (a.val c i)))

/-- fsqrt (05 R137): correctly rounded in the mode RND selects. R137 also gives every special function of f16 and bf16 the RNE
result: for fsqrt and fdiv the model takes RND there too (log 38). -/
def execFsqrt (f : FormV) (s : State) : Result :=
  FormV.float1 f s f.type.wide fun a => sqrtBits f.type (FormV.mode f) (decodeF f.type a)
/-- fdiv (05 R137), its rounding as for fsqrt (log 38). -/
def execFdiv (f : FormV) (s : State) : Result :=
  FormV.float2 f s fun a b => divBits f.type (FormV.mode f) (decodeF f.type a) (decodeF f.type b)

/-- A special function (05 R137, R138). -/
def FormV.special (f : FormV) (s : State) (fn : SpecialFn) : Result := FormV.float1 f s f.type.wide (fn.bits f.type)
def execFrcp (f : FormV) (s : State) : Result := FormV.special f s .rcp
def execFrsq (f : FormV) (s : State) : Result := FormV.special f s .rsq
def execFex2 (f : FormV) (s : State) : Result := FormV.special f s .ex2
def execFlg2 (f : FormV) (s : State) : Result := FormV.special f s .lg2
def execFsin (f : FormV) (s : State) : Result := FormV.special f s .sin
def execFcos (f : FormV) (s : State) : Result := FormV.special f s .cos
def execFtanh (f : FormV) (s : State) : Result := FormV.special f s .tanh

end Sys2Proof.Machine
end

