-- ==== Sys2Proof/Machine/Crypto.lean ====
section
/-! DEFINITION. Machine/Crypto.lean: the hash functions and signature schemes that the boot ROM's checks name (20 R423, R424): SHA-256,
SHA-384 and SHA-512 (FIPS 180-4), RSASSA-PSS verification (RFC 8017) and SLH-DSA-SHA2-192s verification (FIPS 205), written from
those standards (PRESUMED, log 43). -/

namespace Sys2Proof.Machine

/-- A big-endian number. -/
def beNat (bs : List Byte) : Nat := bs.foldl (fun a b => 256 * a + b.toNat) 0

/-! ### FIPS 180-4 -/

/-- The 80 constants of the rounds (FIPS 180-4, 4.2.3): the first 64 fraction bits of the cube roots of the first 80 primes. -/
def shaK : List Nat :=
  [0x428A2F98D728AE22, 0x7137449123EF65CD, 0xB5C0FBCFEC4D3B2F, 0xE9B5DBA58189DBBC,
   0x3956C25BF348B538, 0x59F111F1B605D019, 0x923F82A4AF194F9B, 0xAB1C5ED5DA6D8118,
   0xD807AA98A3030242, 0x12835B0145706FBE, 0x243185BE4EE4B28C, 0x550C7DC3D5FFB4E2,
   0x72BE5D74F27B896F, 0x80DEB1FE3B1696B1, 0x9BDC06A725C71235, 0xC19BF174CF692694,
   0xE49B69C19EF14AD2, 0xEFBE4786384F25E3, 0x0FC19DC68B8CD5B5, 0x240CA1CC77AC9C65] ++
  [0x2DE92C6F592B0275, 0x4A7484AA6EA6E483, 0x5CB0A9DCBD41FBD4, 0x76F988DA831153B5,
   0x983E5152EE66DFAB, 0xA831C66D2DB43210, 0xB00327C898FB213F, 0xBF597FC7BEEF0EE4,
   0xC6E00BF33DA88FC2, 0xD5A79147930AA725, 0x06CA6351E003826F, 0x142929670A0E6E70,
   0x27B70A8546D22FFC, 0x2E1B21385C26C926, 0x4D2C6DFC5AC42AED, 0x53380D139D95B3DF,
   0x650A73548BAF63DE, 0x766A0ABB3C77B2A8, 0x81C2C92E47EDAEE6, 0x92722C851482353B] ++
  [0xA2BFE8A14CF10364, 0xA81A664BBC423001, 0xC24B8B70D0F89791, 0xC76C51A30654BE30,
   0xD192E819D6EF5218, 0xD69906245565A910, 0xF40E35855771202A, 0x106AA07032BBD1B8,
   0x19A4C116B8D2D0C8, 0x1E376C085141AB53, 0x2748774CDF8EEB99, 0x34B0BCB5E19B48A8,
   0x391C0CB3C5C95A63, 0x4ED8AA4AE3418ACB, 0x5B9CCA4F7763E373, 0x682E6FF3D6B2B8A3,
   0x748F82EE5DEFB2FC, 0x78A5636F43172F60, 0x84C87814A1F0AB72, 0x8CC702081A6439EC] ++
  [0x90BEFFFA23631E28, 0xA4506CEBDE82BDE9, 0xBEF9A3F7B2C67915, 0xC67178F2E372532B,
   0xCA273ECEEA26619C, 0xD186B8C721C0C207, 0xEADA7DD6CDE0EB1E, 0xF57D4F7FEE6ED178,
   0x06F067AA72176FBA, 0x0A637DC5A2C898A6, 0x113F9804BEF90DAE, 0x1B710B35131C471B,
   0x28DB77F523047D84, 0x32CAAB7B40C72493, 0x3C9EBE0A15C9BEBC, 0x431D67C49C100D4C,
   0x4CC5D4BECB3E42B6, 0x597F299CFC657E2A, 0x5FCB6FAB3AD6FAEC, 0x6C44198C4A475817]

/-- Where SHA-512 starts (5.3.5): the first 64 fraction bits of the square roots of the first eight primes. -/
def shaStart512 : List Nat :=
  [0x6A09E667F3BCC908, 0xBB67AE8584CAA73B, 0x3C6EF372FE94F82B, 0xA54FF53A5F1D36F1,
   0x510E527FADE682D1, 0x9B05688C2B3E6C1F, 0x1F83D9ABFB41BD6B, 0x5BE0CD19137E2179]

/-- Where SHA-384 starts (5.3.4): those of the ninth to the sixteenth prime. -/
def shaStart384 : List Nat :=
  [0xCBBB9D5DC1059ED8, 0x629A292A367CD507, 0x9159015A3070DD17, 0x152FECD8F70E5939,
   0x67332667FFC00B31, 0x8EB44A8768581511, 0xDB0C2E0D64F98FA7, 0x47B5481DBEFA4FA4]

/-- A word of `w` bits rotated right by `n` (3.2). -/
def rotr (w n x : Nat) : Nat := (x >>> n) ||| ((x % 2 ^ n) <<< (w - n))

/-- The functions Ch, Maj, and the large and small sigmas of words of 32 or 64 bits (4.1.2, 4.1.3). -/
def shaCh (e f g : Nat) : Nat := (e &&& f) ^^^ (e &&& g) ^^^ g
def shaMaj (a b c : Nat) : Nat := (a &&& b) ^^^ (a &&& c) ^^^ (b &&& c)
def shaSum0 (w x : Nat) : Nat :=
  if w = 32 then rotr w 2 x ^^^ rotr w 13 x ^^^ rotr w 22 x else rotr w 28 x ^^^ rotr w 34 x ^^^ rotr w 39 x
def shaSum1 (w x : Nat) : Nat :=
  if w = 32 then rotr w 6 x ^^^ rotr w 11 x ^^^ rotr w 25 x else rotr w 14 x ^^^ rotr w 18 x ^^^ rotr w 41 x
def shaSig0 (w x : Nat) : Nat :=
  if w = 32 then rotr w 7 x ^^^ rotr w 18 x ^^^ (x >>> 3) else rotr w 1 x ^^^ rotr w 8 x ^^^ (x >>> 7)
def shaSig1 (w x : Nat) : Nat :=
  if w = 32 then rotr w 17 x ^^^ rotr w 19 x ^^^ (x >>> 10) else rotr w 19 x ^^^ rotr w 61 x ^^^ (x >>> 6)

/-- The round constants of words of 32 or 64 bits (4.2.2, 4.2.3): the shorter ones are the upper halves of the first 64. -/
def shaConsts (w : Nat) : List Nat := if w = 32 then (shaK.take 64).map (· >>> 32) else shaK

/-- One round with its constant and its word of the schedule (6.2.2, 6.4.2, step 3). -/
def shaRound (w k x : Nat) : List Nat → List Nat
  | [a, b, c, d, e, f, g, h] =>
    let t := h + shaSum1 w e + shaCh e f g + k + x
    [(t + shaSum0 w a + shaMaj a b c) % 2 ^ w, a, b, c, (d + t) % 2 ^ w, e, f, g]
  | v => v

/-- The schedule moves on: its next 16 words (6.2.2, 6.4.2, step 1). -/
def shaNext (w : Nat) (x : List Nat) : List Nat :=
  x.drop 1 ++ [(shaSig1 w (x.getD 14 0) + x.getD 9 0 + shaSig0 w (x.getD 1 0) + x.getD 0 0) % 2 ^ w]

/-- The rounds of one block: the working variables and the words of the schedule that come next. -/
def shaRounds (w : Nat) : List Nat → List Nat → List Nat → List Nat
  | [], v, _ => v
  | k :: r, v, x => shaRounds w r (shaRound w k (x.headD 0) v) (shaNext w x)

/-- One block of 16 words (6.2.2, 6.4.2). -/
def shaBlock (w : Nat) (h x : List Nat) : List Nat :=
  (h.zip (shaRounds w (shaConsts w) h x)).map fun p => (p.1 + p.2) % 2 ^ w

/-- The padding of a message (5.1.1, 5.1.2) to blocks of 2 w bytes, ending in its length in bits, a number of w/4 bytes. -/
def shaPad (w : Nat) (m : List Byte) : List Byte :=
  m ++ 0x80 :: List.replicate ((4 * w - (m.length + 1 + w / 4) % (2 * w)) % (2 * w)) 0 ++ beBytes (w / 4) (8 * m.length)

/-- The words of a block's bytes. -/
def shaWords (w : Nat) (bs : List Byte) : List Nat :=
  (List.range 16).map fun i => beNat ((bs.drop (w / 8 * i)).take (w / 8))

/-- `n` blocks of a padded message. -/
def shaBlocks (w : Nat) : Nat → List Nat → List Byte → List Nat
  | 0, h, _ => h
  | n + 1, h, bs => shaBlocks w n (shaBlock w h (shaWords w bs)) (bs.drop (2 * w))

/-- The hash of a message from a start value, all words of it. -/
def shaHash (w : Nat) (start : List Nat) (m : List Byte) : List Byte :=
  let bs := shaPad w m
  (shaBlocks w (bs.length / (2 * w)) start bs).flatMap (beBytes (w / 8))

/-- SHA-256, SHA-512 and SHA-384 (6.2, 6.4, 6.5). -/
def sha256 (m : List Byte) : List Byte := shaHash 32 (shaStart512.map (· >>> 32)) m
def sha512 (m : List Byte) : List Byte := shaHash 64 shaStart512 m
def sha384 (m : List Byte) : List Byte := (shaHash 64 shaStart384 m).take 48

/-! ### RFC 8017 -/

/-- The mask generation function MGF1 (B.2.1) of a hash of `len` bytes. -/
def mgf1 (hash : List Byte → List Byte) (len : Nat) (seed : List Byte) (n : Nat) : List Byte :=
  ((List.range ((n + len - 1) / len)).flatMap fun i => hash (seed ++ beBytes 4 i)).take n

/-- b to the e modulo m, for an exponent of at most `bits` bits. -/
def powMod (b m : Nat) : Nat → Nat → Nat
  | 0, _ => 1 % m
  | bits + 1, e =>
    let r := powMod b m bits (e / 2)
    r * r % m * (if e % 2 = 1 then b else 1) % m

/-- EMSA-PSS-VERIFY with SHA-384, MGF1 with SHA-384 and a salt of 48 bytes (9.1.2): `em` is the encoded message, of which the
first `8 · em.length - bits` bits are zero. -/
def pssVerifies (m em : List Byte) (bits : Nat) : Bool :=
  let n := em.length - 49; let spare := 8 * em.length - bits
  let masked := em.take n; let h := (em.drop n).take 48
  let db := (masked.zip (mgf1 sha384 48 h n)).map fun p => p.1 ^^^ p.2
  let db := (db.headD 0 &&& BitVec.ofNat 8 (2 ^ (8 - spare) - 1)) :: db.drop 1
  em.length ≥ 98 && em.getLast? == some 0xBC && (masked.headD 0).toNat < 2 ^ (8 - spare)
  && (db.take (n - 49)).all (· == 0) && (db.drop (n - 49)).headD 0 == 1
  && sha384 (List.replicate 8 0 ++ sha384 m ++ db.drop (n - 48)) == h

/-- RSASSA-PSS-VERIFY (8.1.2) of a key of 388 bytes: the modulus big-endian, then the exponent (20 Table 20-8), a number of 4
bytes as 00 R6 has numbers. -/
def rsaVerifies (key m sig : List Byte) : Bool :=
  let n := beNat (key.take 384); let e := leNat (key.drop 384); let s := beNat sig; let bits := Nat.log2 n
  0 < n && s < n && sig.length == 384
  && pssVerifies m (beBytes ((bits + 7) / 8) (powMod s n 32 e)) bits

/-! ### FIPS 205, with the parameters of SLH-DSA-SHA2-192s: n = 24, h = 63, d = 7, h' = 9, a = 14, k = 17, w = 16 (Table 2) -/

/-- An address (4.2) in its compressed form of 22 bytes (11.2): layer, tree, type, and three words. -/
def slhAdrs (layer tree type x y z : Nat) : List Byte :=
  beBytes 1 layer ++ beBytes 8 tree ++ beBytes 1 type ++ beBytes 4 x ++ beBytes 4 y ++ beBytes 4 z

/-- The functions F, and H and T, of security category 3 (11.2.2). -/
def slhF (seed adrs m : List Byte) : List Byte := (sha256 (seed ++ List.replicate 40 0 ++ adrs ++ m)).take 24
def slhT (seed adrs m : List Byte) : List Byte := (sha512 (seed ++ List.replicate 104 0 ++ adrs ++ m)).take 24

/-- The message digest H_msg, 39 bytes (11.2.2). -/
def slhMsg (r seed root m : List Byte) : List Byte :=
  mgf1 sha512 64 (r ++ seed ++ sha512 (r ++ seed ++ root ++ m)) 39

/-- The `len` numbers of `b` bits that a byte string begins with (algorithm 4). -/
def slhBase (bs : List Byte) (b len : Nat) : List Nat :=
  let v := beNat bs; let total := 8 * bs.length
  (List.range len).map fun i => v / 2 ^ (total - b * (i + 1)) % 2 ^ b

/-- The `i`-th string of 24 bytes. -/
def slhPart (bs : List Byte) (i : Nat) : List Byte := (bs.drop (24 * i)).take 24

/-- The chain function (algorithm 5): `s` steps from the `i`-th. -/
def slhChain (seed : List Byte) (adrs : Nat → List Byte) : Nat → Nat → List Byte → List Byte
  | 0, _, x => x
  | s + 1, i, x => slhChain seed adrs s (i + 1) (slhF seed (adrs i) x)

/-- The numbers that a message of 24 bytes signs, with its checksum (algorithm 8). -/
def wotsDigits (m : List Byte) : List Nat :=
  let ds := slhBase m 4 48
  let csum := ds.foldl (fun a x => a + (15 - x)) 0
  ds ++ slhBase (beBytes 2 (csum * 16)) 4 3

/-- The WOTS+ public key of a signature (algorithm 8). -/
def wotsKey (seed : List Byte) (layer tree pair : Nat) (sig m : List Byte) : List Byte :=
  let ends := (wotsDigits m).zipIdx.flatMap fun p =>
    slhChain seed (slhAdrs layer tree 0 pair p.2) (15 - p.1) p.1 (slhPart sig p.2)
  slhT seed (slhAdrs layer tree 1 pair 0 0) ends

/-- The root over a node and its authentication path: `adrs` gives the address of a height and an index (algorithms 11, 17). -/
def slhClimb (seed : List Byte) (adrs : Nat → Nat → List Byte) (auth : List Byte) : Nat → Nat → Nat → List Byte → List Byte
  | 0, _, _, node => node
  | n + 1, k, i, node =>
    let x := slhPart auth k
    slhClimb seed adrs auth n (k + 1) (i / 2)
      (slhT seed (adrs (k + 1) (i / 2)) (if i % 2 = 0 then node ++ x else x ++ node))

/-- The XMSS public key of a signature of 60 strings (algorithm 11). -/
def xmssKey (seed : List Byte) (layer tree leaf : Nat) (sig m : List Byte) : List Byte :=
  slhClimb seed (slhAdrs layer tree 2 0) (sig.drop (24 * 51)) 9 0 leaf (wotsKey seed layer tree leaf sig m)

/-- The root of the hypertree over a message (algorithm 13): `n` layers from `layer` upward. -/
def hypertree (seed : List Byte) : Nat → Nat → Nat → Nat → List Byte → List Byte → List Byte
  | 0, _, _, _, _, m => m
  | n + 1, layer, tree, leaf, sig, m =>
    hypertree seed n (layer + 1) (tree / 2 ^ 9) (tree % 2 ^ 9) (sig.drop (24 * 60)) (xmssKey seed layer tree leaf sig m)

/-- The FORS public key of a signature of 17 times 15 strings (algorithm 17). -/
def forsKey (seed : List Byte) (tree leaf : Nat) (sig md : List Byte) : List Byte :=
  let roots := (slhBase md 14 17).zipIdx.flatMap fun p =>
    let part := sig.drop (24 * 15 * p.2); let i := p.2 * 2 ^ 14 + p.1
    slhClimb seed (slhAdrs 0 tree 3 leaf) (part.drop 24) 14 0 i (slhF seed (slhAdrs 0 tree 3 leaf 0 i) (part.take 24))
  slhT seed (slhAdrs 0 tree 4 leaf 0 0) roots

/-- slh_verify in pure mode with an empty context (algorithms 20, 24): a key of 48 bytes, its seed and its root. -/
def slhVerifies (key m sig : List Byte) : Bool :=
  let seed := key.take 24; let root := (key.drop 24).take 24
  let digest := slhMsg (sig.take 24) seed root (0 :: 0 :: m)
  let tree := beNat ((digest.drop 30).take 7) % 2 ^ 54; let leaf := beNat ((digest.drop 37).take 2) % 2 ^ 9
  let fors := forsKey seed tree leaf ((sig.drop 24).take (24 * 255)) (digest.take 30)
  sig.length == 16224 && hypertree seed 7 0 tree leaf (sig.drop (24 * 256)) fors == root

end Sys2Proof.Machine
end

