-- ==== Sys2Proof/Machine/SaveArea.lean ====
section
/-! DEFINITION. Machine/SaveArea.lean: the bytes of a save area: its header, shared image, warp areas and spill images (06 R172,
Tables 6-8 and 6-9), engine records (09 Table 9-9; 18 Table 18-6), the mloop record (07 Table 7-9) and the thread record (11
Table 11-6). -/

namespace Sys2Proof.Machine

/-! ### Records -/

/-- The address of a place in its space, as an engine record holds it: .sh and .ds offsets, .co addresses, virtual addresses. A
.ds place of a record is its address already. -/
def State.recordAddress (s : State) (spc : Space) (p : Place) : Nat :=
  match p with
  | .virt _ va => va.toNat
  | .key k => match spc with
    | .ds => k
    | .co => (((s.wg? ((k - 2 ^ 60) / 2 ^ 20)).map (·.member)).getD 0) * 2 ^ 20 + k % 2 ^ 20
    | _ => k % 2 ^ 20

/-- The code of a space, and of a type, in an instruction and in a record (02 Tables 2-3 and 2-7). -/
def spaceCode (spc : Space) : Nat := ((List.range 8).find? fun k => Space.ofCode k == spc).getD 0
def typeCode (t : Ty) : Nat := ((List.range 16).find? fun k => Ty.ofCode k == t).getD 0

/-- The copy engine record (09 Table 9-9). -/
def State.copyBytes (s : State) (c : Copy) : List Byte :=
  let (kind, mode, ty, count, more) : Nat × Nat × Nat × Nat × Nat := match c.mode with
    | .plain => (0, 0, 0, c.count, 0)
    | .z => (0, 1, 0, c.count, 0)
    | .x => (0, 2, 0, c.count, 0)
    | .q t => (0, 3, typeCode t, c.count, c.scale.toNat)
    | .rows n len d r => (1, 0, 0, n * 2 ^ 16 + len, d + r * 2 ^ 32)
  leBytes 8 (s.recordAddress .gl c.dst) ++ leBytes 8 (s.recordAddress c.sspace c.src) ++ leBytes 4 count ++ leBytes 8 more
    ++ leBytes 4 (c.reg.getD 0 + kind * 2 ^ 4 + spaceCode c.sspace * 2 ^ 8 + mode * 2 ^ 11 + (if c.shd then 2 ^ 14 else 0) + ty * 2 ^ 15)

/-- The catch engine record (18 Table 18-6); a .bds barrier of a record is its address already. A catch that no ticket register
names any more has 0 for its ticket (DESIGN CHOICE, log 41). -/
def State.catchBytes (s : State) (o : StationOp) : List Byte :=
  let bar : Place := .key (o.barrier.getD 0)
  leBytes 8 (s.recordAddress o.space o.place) ++ leBytes 8 (o.min.getD 0) ++ leBytes 4 (s.recordAddress o.bspace bar)
    ++ leBytes 4 o.name ++ leBytes 4 0
    ++ leBytes 4 (o.reg.getD 0 + 2 * 2 ^ 4 + spaceCode o.space * 2 ^ 8 + spaceCode o.bspace * 2 ^ 10 + (if o.min.isSome then 2 ^ 12 else 0))

/-- An engine record under a ticket register. -/
def State.engineBytes (s : State) (r : EngineRecord) (reg : Option Nat) : List Byte :=
  match r with
  | .copy c => s.copyBytes { c with reg := reg }
  | .catchTile o => s.catchBytes { o with reg := reg }

/-- The warps of a launch with a PENDING ticket register that names an operation. -/
def State.holders (s : State) (id : Nat) (named : DWord → Bool) : List Warp :=
  s.warps.filter fun w => w.launch == id && w.tickets.any fun t => tkState t == 1 && named t

/-- The engine records of a warp's area: one for each PENDING ticket that names a recorded operation (06 R173), and one for a
catch of the warp that no ticket names. -/
def State.warpRecords (s : State) (w : Warp) (records : List EngineRecord) : List (List Byte) :=
  (List.range 16).flatMap (fun n =>
    (records.filter fun r => tkState (w.ticket n) == 1 && r.named (w.ticket n)).map fun r => s.engineBytes r (some n))
  ++ records.filterMap fun r => match r with
    | .copy _ => none
    | .catchTile o => if o.warp = w.uid && (s.holders o.launch o.named).isEmpty then some (s.engineBytes r none) else none

/-- The mloop state record (07 Table 7-9). -/
def MloopState.bytes (m : MloopState) : List Byte :=
  leBytes 8 m.pc.toNat ++ leBytes 4 m.lanes.toNat ++ leBytes 4 (m.next % 2 ^ 6 + m.total % 2 ^ 7 * 2 ^ 6) ++ leBytes 4 m.ainc.toNat
    ++ leBytes 4 m.binc.toNat ++ leBytes 8 0

/-- The thread record (11 Table 11-6) of a segment with a register limit. -/
def ThreadRecord.bytes (r : ThreadRecord) (limit : Nat) : List Byte :=
  let body := leBytes 8 r.nextPc.toNat ++ leBytes 8 r.clock ++ leBytes 8 r.shipped.toNat ++ leBytes 4 r.tid.toNat ++ [r.preds]
    ++ leBytes 3 0 ++ (List.range limit).flatMap fun n => leBytes 4 ((r.regs.getD n 0).toNat)
  body ++ List.replicate (roundUp (32 + 4 * limit) 32 - body.length) 0

/-! ### The warp area -/

/-- The state code of a split entry (06 Table 6-8). -/
def SplitState.code : SplitState → Nat
  | .free => 0 | .run => 1 | .block => 2 | .jwait => 3 | .cwait => 4 | .held => 5

/-- A split entry, 64 bytes; a FREE one is zero. -/
def Entry.bytes (x : Entry) : List Byte :=
  if x.st = .free then List.replicate 64 0
  else
    leBytes 8 x.pc.toNat ++ leBytes 4 x.mask.toNat ++ leBytes 1 x.st.code
      ++ leBytes 3 ((if x.j.isSome then 1 else 0) + (if x.jout.isSome then 2 else 0))
      ++ leBytes 8 (x.j.getD 0).toNat ++ leBytes 8 (x.jout.getD 0).toNat ++ leBytes 16 (if x.st = .held then x.fault.toNat else 0)
      ++ leBytes 16 0

/-- The wait-kind code of a siding group, and its member mask or bar number. -/
def GroupKind.code : GroupKind → Nat × Nat
  | .none => (0, 0)
  | .yielded => (1, 0)
  | .fusion => (2, 0)
  | .collective c => (3, c.m.toNat)
  | .bar n => (4, n)
  | .barc n _ => (5, n)
  | .bard n _ => (6, n)
  | .pbar n _ => (7, n)
  | .firmware _ _ => (8, 0)

/-- A siding group of an entry, 24 bytes. -/
def Group.bytes (e : Nat) (g : Group) : List Byte :=
  leBytes 8 g.key.toNat ++ leBytes 4 g.lanes.toNat ++ leBytes 4 (GroupKind.code g.kind).2 ++ leBytes 1 e
    ++ leBytes 1 (if g.arrived then 1 else 0) ++ leBytes 1 (GroupKind.code g.kind).1 ++ leBytes 5 0

/-- The tag code of a register (01 Table 1-5). -/
def VReg.code : VReg → Nat
  | .u _ => 0
  | .a _ _ => 1
  | .g _ => 2
  | .d => 3

/-- A register's image by its tag; lanes that have exited are 0 in a G image. -/
def VReg.bytes (r : VReg) (living : Mask) : List Byte :=
  match r with
  | .u v => leBytes 4 v.toNat
  | .a b st => leBytes 4 b.toNat ++ leBytes 4 st.toNat
  | .g vs => (List.range 32).flatMap fun i => leBytes 4 (if living.getLsbD i then (vs.getD i 0).toNat else 0)
  | .d => []

/-- A warp's area (06 Table 6-8) with its engine records. -/
def Warp.area (w : Warp) (engines : List (List Byte)) : List Byte :=
  let groups := w.entries.zipIdx.flatMap fun p => p.1.siding.map fun g => Group.bytes p.2 g
  let tags := ((List.range w.nreg).foldl (fun a n => a + (w.reg n).code * 4 ^ n) 0)
  let trap := w.trap.lanes.toNat + w.trap.cause * 2 ^ 32 + w.trap.entry * 2 ^ 40 + (if w.trap.busy then 2 ^ 43 else 0)
  let body := leBytes 8 w.clock ++ leBytes 8 w.ssp.toNat ++ leBytes 8 trap ++ leBytes 8 w.trap.tpc.toNat ++ leBytes 8 w.trap.tval.toNat
    ++ (w.preds.flatMap fun p => leBytes 4 p.toNat) ++ leBytes 4 0 ++ (w.tickets.flatMap fun t => leBytes 8 t.toNat)
    ++ leBytes 64 tags ++ w.entries.flatMap Entry.bytes ++ groups.flatten ++ engines.flatten
    ++ ((w.mloop.map MloopState.bytes).getD []) ++ (List.range w.nreg).flatMap fun n => (w.reg n).bytes w.living
  let size := roundUp (8 + body.length) 16
  let header := 1 + size / 16 % 2 ^ 16 * 2 ^ 16 + w.nreg % 2 ^ 9 * 2 ^ 32 + (if w.mloop.isSome then 2 ^ 41 else 0)
    + groups.length % 2 ^ 6 * 2 ^ 42 + engines.length % 2 ^ 8 * 2 ^ 48
  leBytes 8 header ++ body ++ List.replicate (size - 8 - body.length) 0

/-! ### The area of a workgroup -/

/-- The 64-byte workgroup header: the fields of 06 R172 in its order, 8 bytes each (log 29). -/
def Workgroup.header (g : Workgroup) (l : Launch) : List Byte :=
  let p := l.packet
  [1, l.id, g.index % max 1 p.gx, g.index / max 1 p.gx % max 1 p.gy, g.index / max 1 (p.gx * p.gy), g.nwarps, g.sharedBytes, l.spill].flatMap
    fun v => leBytes 8 v

/-- A spill image in full. -/
def spillArea (spill : Nat) (img : List (Nat × Byte)) : List Byte :=
  (List.range (spillBytes spill)).map fun i => Memory.get img i

/-- What is saved of a warp that has exited: no split and no register (06 R172; log 29). -/
def Workgroup.exitedWarp (g : Workgroup) (i : Nat) : Warp :=
  { freshWarp (g.uid + 1 + i) g.uid g.launch g.die g.core 0 i g.nreg 0 0 0 0 with entries := List.replicate 8 {} }

/-- A saved workgroup's area (06 R172): header, shared image, an area for each of its warps, spill images. Of a travel launch,
warp areas alone, for its core's save block (11 R289). -/
def State.areaOf (s : State) (l : Launch) (g : Workgroup) (ws : List Warp) (spill : List (List (Nat × Byte)))
    (engines : List EngineRecord) : List Byte :=
  let each := (List.range g.nwarps).map fun i => match ws.zipIdx.find? fun p => p.1.index == i with
    | some p => (p.1, spill.getD p.2 [])
    | none => (g.exitedWarp i, [])
  let areas := each.flatMap fun p => p.1.area (s.warpRecords p.1 engines)
  if l.packet.travel then areas
  else g.header l ++ s.read (sharedKey g.uid 0) g.sharedBytes ++ areas
    ++ (if l.spill = 0 then [] else each.flatMap fun p => spillArea l.spill p.2)

end Sys2Proof.Machine
end

