-- ==== Sys2Proof/Machine/History.lean ====
section
/-! DEFINITION. Machine/History.lean: history memory (16 R359 to R375): the instructions of class 0xD, answers of as-of loads,
floors, the stable frontier, owners of history, firmware's invalidations (13 R313) and the station tick (16 R350). -/

namespace Sys2Proof.Machine

/-! ### Versions -/

/-- The leaf in effect at a stamp (16 R366): the oldest publish after it that replaced the page's leaf, else the current one. -/
def State.leafAsof (s : State) (asid : Nat) (va : DWord) (at_ : Stamp) (cur : DWord) : DWord :=
  let rs := s.mapHistory.filter fun r => r.asid == asid && at_ < r.stamp && r.va.toNat ≤ va.toNat && va.toNat < r.va.toNat + r.size
  match least (rs.map (·.stamp)) with
  | none => cur
  | some p => ((rs.find? fun r => r.stamp == p).map (·.old)).getD cur

/-- The bytes of a sector at a stamp and whether they are poisoned (16 R362): the latest version with a stamp at most it, the
base version where none is. -/
def State.sectorAsof (s : State) (sec : Nat) (at_ : Stamp) : List Byte × Bool :=
  let cur : Version := { sector := sec, bytes := s.read (sec * 32) 32, stamp := s.versionStamp (sec * 32),
                         poison := s.poisoned.contains sec }
  let vs := (s.versions.filter fun v => v.sector == sec) ++ [cur]
  let ok := vs.filter fun v => v.stamp ≤ at_
  let pick : Version := match ok with
    | [] => vs.foldl (fun (a v : Version) => if v.stamp < a.stamp then v else a) cur
    | v :: r => r.foldl (fun (a v : Version) => if a.stamp ≤ v.stamp then v else a) v
  (pick.bytes, pick.poison)

/-- Bytes from a physical address at a stamp, or the poisoned address. -/
def State.bytesAsof (s : State) (pa n : Nat) (at_ : Stamp) : Except Nat (List Byte) :=
  let first := pa / 32
  let parts := (List.range ((pa + n - 1) / 32 - first + 1)).map fun k => s.sectorAsof (first + k) at_
  if s.gone pa || parts.any (·.2) then .error (first * 32)
  else .ok (((parts.flatMap (·.1)).drop (pa % 32)).take n)

/-- Bytes of a virtual address through the leaf in effect at a stamp; a C page's chunk is expanded (16 R367). -/
def State.readAsof (s : State) (leaf : DWord) (pa n : Nat) (at_ : Stamp) : Except Nat (List Byte) :=
  if pteC leaf then
    match s.bytesAsof (pteAddr leaf) (pteClen leaf * 256) at_ with
    | .error p => .error p
    | .ok bs => match decodeChunk bs 4096 with
      | .error _ => .error (pteAddr leaf)
      | .ok (out, _) => .ok ((List.range n).map fun i => out.getD (pa % 4096 + i) (Config.pastChunk (pa + i)))
  else s.bytesAsof pa n at_

/-- The physical address under a leaf of unknown level: an old leaf of a publish maps its own page size. -/
def State.paAsof (s : State) (asid : Nat) (va : DWord) (leaf cur : DWord) (curPa : Nat) : Nat :=
  if leaf = cur then curPa
  else match s.mapHistory.find? fun r => r.asid == asid && r.old == leaf && r.va.toNat ≤ va.toNat && va.toNat < r.va.toNat + r.size with
    | some r => pteAddr leaf + (va.toNat - r.va.toNat)
    | none => curPa

/-- The sector whose page answers for a leaf: a C page answers from its chunk's first sector. -/
def answerAt (leaf : DWord) (pa : Nat) : Nat := if pteC leaf then pteAddr leaf else pa

/-- Order 5 of Table 16-7: no H, a window, or no owning region. -/
def State.noHistory (s : State) (leaf : DWord) (pa : Nat) : Bool :=
  !pteH leaf || inWindow pa || ((s.histPage? (answerAt leaf pa)).bind (·.owner)).isNone

/-- The effective floor at a lane's slice (16 R361). -/
def State.floorAt (s : State) (node : Nat) (leaf : DWord) (pa : Nat) : Stamp :=
  let at_ := answerAt leaf pa
  s.effFloor node (((s.histPage? at_).bind (·.owner)).getD node) at_

/-- The base-version stamp of a lane's sector. -/
def State.baseAt (s : State) (leaf : DWord) (pa : Nat) : Stamp :=
  ((s.histPage? (answerAt leaf pa)).map (·.base)).getD 0

/-! ### ld.asof -/

/-- A lane of an as-of load with its leaf and physical address in effect at its stamp. -/
structure AsofLane where
  lane : Nat
  va   : DWord
  at_  : Stamp
  leaf : DWord
  pa   : Nat
  deriving DecidableEq, Repr

/-- The lane's mapping at its stamp. -/
def State.asofLane (s : State) (asid lane : Nat) (va : DWord) (at_ : Stamp) (pa : Nat) (pte : DWord) : AsofLane :=
  let leaf := s.leafAsof asid va at_ pte
  { lane := lane, va := va, at_ := at_, leaf := leaf, pa := s.paAsof asid va leaf pte pa }

/-- The lanes of an as-of load past order 4 of Table 16-7, as they stand at their stamps. -/
def State.asofLanes (s : State) (c : Ctx) (x : Nat) (lanes : List FarLane) : List AsofLane :=
  lanes.map fun l => s.asofLane (s.asidOf c.w) l.1 l.2.1 (c.w.pair x l.1).toNat l.2.2.1 l.2.2.2

/-- A lane's answer is not final: a clock has not reached its stamp (16 R370). -/
def State.early (s : State) (l : AsofLane) : Bool :=
  s.clockAt (sliceOf (answerAt l.leaf l.pa)) < l.at_ || s.opClockNow < l.at_

/-- The least stamp at which a lane could be answered. -/
def State.leastAsof (s : State) (node : Nat) (l : AsofLane) : Stamp := max (s.floorAt node l.leaf l.pa) (s.baseAt l.leaf l.pa)

/-- ld.asof waits at issue for its clocks, once its other checks have passed (16 R370; log 22): the lanes that will be held are
held first. -/
def State.asofWaits (s : State) (c : Ctx) (f : FormM) : Bool :=
  match s.memGate c (FormM.asofAsk f) with
  | .global => match s.glLanes c f.adr.toNat f.offs .read with
    | .ok t d lanes =>
      let ls := t.asofLanes d f.aux.toNat lanes
      d.run == c.run && !ls.any (fun l => t.noHistory l.leaf l.pa) && ls.any t.early
    | _ => false
  | _ => false

/-- ld.asof (16 R365, R369 to R371): after its checks and its wait the versions are read in one step, and go in flight as
results that ASOF_REPLY writes. -/
def execLdAsof (f : FormM) (s : State) : Result :=
  match s.ctx? f.guard with
  | none => .next s
  | some c =>
    if c.eff = 0 then .next (s.finish c c.w)
    else
      let x := f.aux.toNat; let d := f.dat.toNat; let n := f.bytes
      match s.memPlan c (FormM.asofAsk f) with
      | .stop t => .next t
      | .near _ => .next s
      | .far t c lanes =>
        let ls := t.asofLanes c x lanes
        match ls.find? fun l => t.noHistory l.leaf l.pa with
        | some l => .next (t.trapHere c 0x13 l.va)
        | none =>
          if ls.any t.early then .next t.wait
          else match ls.find? fun l => l.at_ < t.leastAsof c.l.node l with
            | some l => .next (t.trapHere c 0x12 (BitVec.ofNat 64 (t.leastAsof c.l.node l)))
            | none =>
              let read (l : AsofLane) : Except Nat (List Byte) := t.readAsof l.leaf l.pa n l.at_
              let bad := ls.filterMap fun l => match read l with
                | .error p => some p
                | .ok _ => none
              match bad with
              | p :: _ => .next ((bad.eraseDups.foldl (fun (t : State) p => t.poisonLog p c.l.node) t).trapHere c 0x14 (BitVec.ofNat 64 p))
              | [] =>
                let u := (t.touchLanes c (FormM.asofAsk f) lanes).send c f .asof n d 0 (uniformRegs c (f.adrRegs ++ [x, x + 1]))
                  (ls.map fun l => { lane := l.lane, va := l.va, pa := l.pa, pte := l.leaf, asof := l.at_, done := true,
                                     old := (match read l with
                                       | .ok bs => leNat bs
                                       | .error _ => 0) })
                .next (u.finish c (c.w.kill c.full (f.marked [] [x, x + 1]) (dataRegs d n)))

/-- ASOF_REPLY (16 R369): the results of an as-of load are written together; it merges no stamp and synchronises with nothing
(R370). -/
def execEvAsofReply (acc : Nat) (s : State) : Result :=
  match s.access? acc with
  | none => .next s
  | some a => if a.op == .asof then .next (State.stabilise (s.answer a)) else .next s

/-! ### st.stamp, stamp, hnow, hfloor, htrim -/

/-- st.stamp (16 R373): a store whose lanes receive their writes' stamps at the acknowledgement. -/
def execStStamp (f : FormM) (s : State) : Result :=
  match s.ctx? f.guard with
  | none => .next s
  | some c =>
    if c.eff = 0 then .next (s.finish c c.w)
    else
      let n := f.bytes; let d := f.dat.toNat; let x := f.aux.toNat
      match s.memPlan c { FormM.stAsk f with spc := .gl } with
      | .stop t => .next t
      | .near _ => .next s
      | .far t c lanes =>
        let t := (t.touchLanes c { FormM.stAsk f with spc := .gl } lanes).send c f .storeStamp n d x false
          (lanes.map fun l => { lane := l.1, va := l.2.1, pa := l.2.2.1, data := c.w.dataOf d n l.1 })
        .next (t.finish c (c.w.kill c.full (f.marked (dataRegs d n) []) [x, x + 1]))

/-- stamp (16 R372): the warp's clock, after the wait of a release. -/
def execStamp (f : FormV) (s : State) : Result :=
  match s.ctx? f.guard with
  | none => .next s
  | some c =>
    if c.eff != 0 && s.pendingFor c.w.uid c.eff then .next s.wait
    else .next (s.finish c (c.w.writeResult f.dst.toNat true c.eff c.full true none fun _ => BitVec.ofNat 64 c.w.clock))

/-- hnow (16 R372): the stable frontier held by the core. -/
def execHnow (f : FormV) (s : State) : Result :=
  match s.ctx? f.guard with
  | none => .next s
  | some c =>
    let v := (s.core c.w.die c.w.core).frontier
    .next (s.finish c (c.w.writeResult f.dst.toNat true c.eff c.full true none fun _ => BitVec.ofNat 64 v))

/-- hfloor (16 R374): the effective floor at each lane's slice. -/
def execHfloor (f : FormM) (s : State) : Result :=
  match s.ctx? f.guard with
  | none => .next s
  | some c =>
    if c.eff = 0 then .next (s.finish c c.w)
    else
      let d := f.dat.toNat
      match s.memPlan c (FormM.floorAsk f) with
      | .stop t => .next t
      | .near _ => .next s
      | .far t c lanes => match lanes.find? fun l => t.noHistory l.2.2.2 l.2.2.1 with
        | some l => .next (t.trapHere c 0x13 l.2.1)
        | none =>
          let val (i : Nat) : DWord := match lanes.find? fun l => l.1 == i with
            | some l => BitVec.ofNat 64 (t.floorAt c.l.node l.2.2.2 l.2.2.1)
            | none => 0
          let w := c.w.writeResult d true c.eff c.full (uniformRegs c f.adrRegs) none val
          .next ((t.touchLanes c (FormM.floorAsk f) lanes).finish c (w.kill c.full (f.marked [] []) [d, d + 1]))

/-- The floor of a region is in effect at every slice (16 R363). -/
def State.floorReached (s : State) (node v : Nat) : Bool := v ≤ s.floorInEffect node

/-- htrim's result (16 R375). -/
def Warp.takeTrim (w : Warp) (v dst : Nat) (eff : Mask) (marks : List Nat) : Warp :=
  (w.writeResult dst true eff (eff == w.living) true none fun _ => BitVec.ofNat 64 v).kill (eff == w.living) marks [dst, dst + 1]

/-- htrim (16 R375): raises the floor of the launch's region to at most the frontier, and waits until it is in effect. -/
def execHtrim (f : FormX) (s : State) : Result :=
  match s.ctx? f.guard with
  | none => .next s
  | some c =>
    let x := f.xa.toNat; let d := f.dst.toNat
    if c.eff = 0 then .next (s.finish c c.w)
    else match c.deadRead [x, x + 1] with
      | some r => .next (s.trapHere c 6 (BitVec.ofNat 64 r))
      | none =>
        let g := (s.core c.w.die c.w.core).frontier
        let new := max (s.regionFloorOf c.l.node) (min (c.w.pair x c.low).toNat g)
        let t := s.raiseRegionFloor c.l.node new
        let marks := FormX.marked f [(0, x, 2)]
        if t.floorReached c.l.node new then .next (t.finish c (c.w.takeTrim new d c.eff marks))
        else .next (t.blockHere c (.trim new d c.eff marks))

/-! ### Floors and the frontier -/

/-- The largest floor in effect for a version (16 R362). -/
def State.keepFloor (s : State) (v : Version) : Stamp :=
  let pa := v.sector * 32
  max (s.floorInEffect (4096 + stackOf pa)) (((s.sectorOwner v.sector).map s.floorInEffect).getD 0)

/-- Versions no floor in effect retains are reclaimed (16 R362, R363). -/
def State.reclaim (s : State) : State :=
  { s with versions := s.versions.filter fun v => s.keepFloor v < v.stamp || s.keepFloor v < s.successor v,
           mapHistory := s.mapHistory.filter fun r => s.floorInEffect r.node < r.stamp }

/-- Where a region's FLOOR stands (14 Table 14-1). -/
def State.floorField (s : State) (node : Nat) : Nat := s.regionTable.toNat + 256 * node + 0x40

/-- The sectors of a page. -/
def HistPage.holds (h : HistPage) (sec : Nat) : Bool := h.page ≤ sec / 128 && sec / 128 < h.page + h.count

/-- The stamps of a page's sectors: those written keep theirs, the others take one. -/
def HistPage.setStamps (h : HistPage) (l : List (Nat × Nat)) (given : Stamp) : List (Nat × Nat) :=
  let mine := l.filter fun p => h.holds p.1
  (l.filter fun p => p.1 < 128 * h.page)
    ++ (List.range (128 * h.count)).map (fun i => (128 * h.page + i, tget mine (128 * h.page + i) given))
    ++ l.filter fun p => 128 * (h.page + h.count) ≤ p.1

/-- A page's history is discarded; its sectors keep the stamps of their current versions. -/
def State.dropHistory (s : State) (h : HistPage) : State :=
  { s with stamps := (if h.live then h.setStamps s.stamps h.given else s.stamps),
           histPages := s.histPages.filter (fun x => x != h),
           versions := s.versions.filter fun v => !h.holds v.sector }

/-- The old pages whose mapping history ends are freed, with their own history (16 R366). -/
def State.freeOld (s t : State) : State :=
  let out := s.mapHistory.filter fun r => !t.mapHistory.contains r
  let t : State := (t.histPages.filter fun h => out.any fun r => pteAddr r.old / 4096 == h.page).foldl (fun t h => t.dropHistory h) t
  { t with poolTaken := t.poolTaken.filter fun b => !out.any fun r => pteAddr r.old == b.1 }

/-- A waiting htrim whose floor is in effect. -/
def State.trimDue (s : State) : Option (Nat × Nat × Nat × Nat × Mask × List Nat) :=
  s.warps.findSome? fun w =>
    let node := ((s.launch? w.launch).map (·.node)).getD 0
    (List.range 8).findSome? fun e => match (w.entry e).st, (w.entry e).wait with
      | .block, .trim v d m ks => if s.floorReached node v then some (w.uid, e, v, d, m, ks) else none
      | _, _ => none

/-- Waiting htrims return. -/
def State.wakeTrims : Nat → State → State
  | 0, s => s
  | k + 1, s => match s.trimDue with
    | none => s
    | some (u, e, v, d, m, ks) => State.wakeTrims k (s.resume u e fun w => w.takeTrim v d m ks)

/-- FLOOR_IN_EFFECT (16 R362, R363, R375): a raised floor is in effect at every slice; versions it frees are reclaimed; a
region's FLOOR is written back; htrims that waited for it return. -/
def execEvFloorInEffect (index : Nat) (s : State) : Result :=
  match s.pendingFloors[index]? with
  | none => .next s
  | some p =>
    let key := match p.region with
      | some n => n
      | none => 4096 + p.stack
    let t : State := { s with pendingFloors := s.pendingFloors.eraseIdx index,
                              floorsInEffect := tset s.floorsInEffect key (max (s.floorInEffect key) p.value) }
    let t := match p.region with
      | some n => if (s.region? n).isSome then (t.performWrite (t.floorField n) (leBytes 8 (t.regionFloorOf n)) 0).1 else t
      | none => t
    let u := t.reclaim
    .next (State.wakeTrims 4096 (State.freeOld t u))

/-- A die's slices are counted for the frontier (16 R359): MEMPATH 1 and not OFFLINE. -/
def State.counted (s : State) (d : Nat) : Bool := (s.die d).mempath && (s.die d).st != 3

/-- FRONTIER_GATHER (16 R359): the least clock at a tick that is a multiple of 64. -/
def execEvFrontierGather (s : State) : Result :=
  if s.tick % 64 ≠ 0 then .next s
  else
    let clocks := ((List.range 2048).filter fun n => s.counted (n / 256)).map s.clockAt
    .next { s with frontierG := clocks.foldl min s.opClockNow }

/-- FRONTIER_ARRIVAL (16 R359): a core keeps the largest value it has received. -/
def execEvFrontierArrival (die core : Nat) (s : State) : Result :=
  .next (s.modCore die core fun c => { c with frontier := max c.frontier s.frontierG })

/-- STATION_TICK (16 R350, R352): every clock is at least the tick (`State.clockAt`, `State.opClockNow`). -/
def execEvStationTick (s : State) : Result := .next { s with tick := s.tick + 1 }

/-! ### Owners and invalidations -/

/-- HISTORY_OWNER (16 R360): firmware names the owning region of the page a virtual address maps with H. The history that a
destroyed region owned is lost: for a new owner the base version is the contents as they are now, with a stamp of the ordering
point above theirs (log 38). -/
def execEvHistoryOwner (asid : Nat) (va : DWord) (node : Nat) (s : State) : Result :=
  match s.walk asid va with
  | .fault _ _ => .next s
  | .leaf level _ p =>
    if !pteH p || homeOf (pteAddr p) ≥ 8 then .next s
    else
      let page := pteAddr p / 4096
      if s.histPages.any fun h => h.page == page then
        let mine (h : HistPage) : Bool := h.page == page
        let lost := s.histPages.any fun h => mine h && h.live && h.owner.isNone
        let newest := (s.histPages.filter mine).foldl (fun a h => (s.stamps.filter fun p => h.holds p.1).foldl (fun a p => max a p.2)
          (max a h.given)) 0
        let (t, st) := if lost then s.orderStamp newest else (s, 0)
        .next { t with histPages := t.histPages.map fun h => if mine h then { h with owner := some node, base := max h.base st } else h }
      else
        let h : HistPage := { page := page, count := pageSize level / 4096, asid := asid,
                              va := BitVec.ofNat 64 (va.toNat / pageSize level * pageSize level), owner := some node,
                              base := 0, live := false }
        .next { s with histPages := s.histPages ++ [h] }

/-- A translation of an address space falls under an invalidation (13 R313); `g` says its entry is global. -/
def invalHits (sc : InvalScope) (asid lo size : Nat) (g : Bool) : Bool :=
  match sc with
  | .asid a => asid == a && !g
  | .range a first last => asid == a && !g && lo ≤ last && first < lo + size
  | .globalPage va => g && lo ≤ va && va < lo + size
  | .all => true

/-- The H bit of a page takes effect with a base version of each sector, or its history is discarded (16 R360), as its leaf now
stands. The history of a page that a publish replaced stays with the record of its mapping (R366). -/
def State.settleHistory (s : State) (base : Stamp) (h : HistPage) : State :=
  let old := s.mapHistory.any fun r => pteAddr r.old / 4096 == h.page
  let now := match s.walk h.asid h.va with
    | .leaf _ _ p => pteH p && pteAddr p / 4096 == h.page
    | .fault _ _ => false
  if now then
    { s with histPages := s.histPages.map fun x =>
        if x = h && !x.live then { x with live := true, base := base, given := base } else x,
             stamps := if h.live then s.stamps else s.stamps.filter fun p => !h.holds p.1 }
  else if old then s
  else s.dropHistory h

/-- A waiting reader of .gl whose translation is dropped reads from now on by the entries as they stand; where one of its lanes
has no translation any more, its waitval issues afresh (13 R313; DESIGN CHOICE, log 38). -/
def State.retranslate (s : State) (scope : InvalScope) (uid e : Nat) : State :=
  match s.warp? uid with
  | none => s
  | some w => match (w.entry e).wait with
    | .value v =>
      let asid := s.asidOf w
      let hit (x : ValueLane) : Bool := v.gl && !x.satisfied && invalHits scope asid x.va.toNat 4 (pteG x.pte)
      let (t, lanes) := v.lanes.foldl (fun (acc : State × List (Option ValueLane)) x =>
        if !hit x then (acc.1, acc.2 ++ [some x])
        else match acc.1.xlate w.die asid x.va .read with
          | (t, .ok pa p) =>
            (t.touch w.die asid x.va false { who := some (w.party x.lane v.scope), number := t.fresh },
              acc.2 ++ [some { x with addr := pa, pte := p }])
          | (t, _) => (t, acc.2 ++ [none])) (s, [])
      if !v.lanes.any hit then s
      else if lanes.all (·.isSome) then t.putWarp (w.setEntry e { w.entry e with wait := .value { v with lanes := lanes.filterMap id } })
      else ({ t with accesses := t.accesses.filter fun a => !(a.warp == uid && a.op == .waitRead e) } : State).putWarp
        (w.setEntry e (w.entry e).unblock)
    | _ => s

/-- INVALIDATION (13 R313; 16 R360): completes once the accesses that used a dropped translation have been performed; its
completion is ordered at the ordering point. -/
def execEvInvalidation (scope : InvalScope) (s : State) : Result :=
  let busy := s.accesses.any fun a => a.lanes.any fun x => !x.done && !isKey x.pa &&
    invalHits scope a.asid x.va.toNat 1 (match s.tlbFind a.die a.asid x.va with
      | some t => pteG t.pte
      | none => false)
  if busy then .next s
  else
    let keep (t : TlbEntry) : Bool :=
      !invalHits scope t.asid (t.vpage * pageSize t.level) (pageSize t.level) (pteG t.pte)
    let (t, st) := ({ s with tlb := s.tlb.filter keep }).orderStamp 0
    let readers := t.warps.flatMap fun w => (List.range 8).map fun e => (w.uid, e)
    let t := readers.foldl (fun t p => t.retranslate scope p.1 p.2) t
    .next ((s.histPages.filter fun h => invalHits scope h.asid h.va.toNat (h.count * 4096) false
        || invalHits scope h.asid h.va.toNat (h.count * 4096) true).foldl (fun t h => t.settleHistory st h) t)

end Sys2Proof.Machine
end

