-- ==== Sys2Proof/Machine/System.lean ====
section
/-! DEFINITION. Machine/System.lean: the special registers, sread and swrite (06 R161, R162, Table 6-4; 11 R283). -/

namespace Sys2Proof.Machine

/-- A split is inside a handler (06 R164). -/
def Ctx.inHandler (c : Ctx) : Bool := c.w.trap.busy && c.run &&& c.w.trap.lanes != 0

/-- Workgroup coordinates of a linear index (14 Table 14-6). -/
def coord (p : LaunchPacket) (index axis : Nat) : Nat :=
  match axis with
  | 0 => index % max p.gx 1
  | 1 => index / max p.gx 1 % max p.gy 1
  | _ => index / (max p.gx 1 * max p.gy 1)

/-- A thread's workgroup index and thread index: a formed warp's lanes keep their own (11 R283). -/
def Ctx.threadOf (c : Ctx) (i : Nat) : Nat × Nat :=
  if c.w.formed then
    let t := (c.w.tids.getD i 0).toNat
    (t / 1024, t % 1024)
  else (c.g.index, 32 * c.w.index + i)

/-- sr.sampctl as a program reads it: as last written. -/
def Core.control (k : Core) : Word := k.sampNext.getD k.sampctl

/-- The value of a special register that is not indexed, in lane i (06 Table 6-4). -/
def State.special (s : State) (c : Ctx) (n i : Nat) : Nat :=
  match n with
  | 0x000 => i
  | 0x001 => (c.threadOf i).2 / 32
  | 0x002 => (c.threadOf i).2
  | 0x003 => coord c.l.packet (c.threadOf i).1 0
  | 0x004 => coord c.l.packet (c.threadOf i).1 1
  | 0x005 => coord c.l.packet (c.threadOf i).1 2
  | 0x006 => c.l.packet.gx
  | 0x007 => c.l.packet.gy
  | 0x008 => c.l.packet.gz
  | 0x009 => c.g.logical
  | 0x00A => c.w.core
  | 0x00B => c.w.core / 4
  | 0x00C => c.w.die
  | 0x00D => c.l.dies.length
  | 0x00E => c.l.step
  | 0x018 => if c.inHandler then c.w.trap.cause else 0
  | 0x019 => if c.inHandler then c.w.trap.tpc.toNat else 0
  | 0x01A => if c.inHandler then c.w.trap.tval.toNat else 0
  | 0x01B => c.w.clock
  | 0x020 => c.w.ssp.toNat
  | 0x030 => (s.core c.w.die c.w.core).control.toNat
  | _ => 0

/-- sr.harvest and sr.coremap (06 Table 6-4; 13 R299, R300). -/
def State.specialAt (s : State) (c : Ctx) (n k : Nat) : Nat :=
  if n = 0x010 then (if k < 8 then (s.die k).harvest.toNat else 0)
  else match (s.logicalCores c.l.dies)[k]? with
    | some (d, p) => d * 256 + p
    | none => 0x80000000

/-- The registers of Table 6-4 whose value is affine or differs between threads: its tag in an ordinary and a formed warp. -/
def specialTag (c : Ctx) (n : Nat) : Bool × Option (Word × Word) :=
  match n with
  | 0x000 => (false, some (0, 1))
  | 0x002 => if c.w.formed then (false, none) else (false, some (BitVec.ofNat 32 (32 * c.w.index), 1))
  | 0x001 | 0x003 | 0x004 | 0x005 => (!c.w.formed, none)
  | _ => (true, none)

/-- sread (06 R161). -/
def execSread (f : FormI) (s : State) : Result :=
  let n := f.imm.toNat % 4096
  let indexed := f.ops.toNat % 2 == 1
  let wide := f.type == .n64
  let k := f.sa.toNat
  s.alu f.guard (if indexed then [k] else []) (if f.lu then [k] else []) (dstRegs f.dst.toNat wide) fun c =>
    if indexed then
      .ok (c.w.writeResult f.dst.toNat wide c.eff c.full (c.w.reg k).countsU none
        fun i => BitVec.ofNat 64 (s.specialAt c n (c.w.lane k i).toNat))
    else
      let (uni, aff) := specialTag c n
      .ok (c.w.writeResult f.dst.toNat wide c.eff c.full uni aff fun i => BitVec.ofNat 64 (s.special c n i))

/-- swrite (06 R162): the lowest effective lane's value; sr.sampctl is privileged, and counts from the next cycle's sampling. -/
def execSwrite (f : FormI) (s : State) : Result :=
  match s.ctx? f.guard with
  | none => .next s
  | some c =>
    let n := f.imm.toNat % 4096; let a := f.sa.toNat
    match c.deadRead [a] with
    | some r => .next (s.trapHere c 6 (BitVec.ofNat 64 r))
    | none =>
      let v := c.w.lane a c.low
      let w := c.w.kill c.full (if f.lu then [a] else []) []
      if c.eff = 0 then .next (s.finish c c.w)
      else if n = 0x020 then .next (s.finish c { w with ssp := v &&& 0xFFFFFF00 })
      else if n = 0x030 then
        if !((s.region? c.l.node).map (·.priv)).getD false then .next (s.trapHere c 0x11 (BitVec.ofNat 64 n))
        else if v.toNat / 2 % 16 > 10 then .next (s.finish c w)
        else .next ((s.modCore c.w.die c.w.core fun x => { x with sampNext := some (v &&& 0x1F) }).finish c w)
      else .next (s.finish c w)

end Sys2Proof.Machine
end

