-- ==== Sys2Proof/Machine/Matrix.lean ====
section
/-! DEFINITION. Machine/Matrix.lean: the matrix unit (07 R177 to R196): fragments, the format block and its checks, mma, mldf,
mstf, mloop and mfmt, the start of a slice and an mloop step. -/

namespace Sys2Proof

/-- Fields of format X of the matrix class (07 Table 7-4). -/
def FormX.shape (f : FormX) : Nat := f.opsAt 76 75
def FormX.codeA (f : FormX) : Nat := f.opsAt 79 77
def FormX.codeB (f : FormX) : Nat := f.opsAt 82 80
def FormX.kind (f : FormX) : Nat := f.opsAt 81 80
def FormX.allLanes (f : FormX) : Bool := f.opsAt 95 95 == 1
/-- SPACE codes 0 to 2 of the matrix class. -/
def FormX.mspace (f : FormX) : Space := Space.ofCode (f.opsAt 84 83)

end Sys2Proof

namespace Sys2Proof.Machine

/-- K of a shape (07 Table 7-1). -/
def shapeK (shape : Nat) : Nat := if shape = 0 then 32 else if shape = 1 then 8 else 128
/-- N of a shape. -/
def shapeN (shape : Nat) : Nat := if shape = 1 then 16 else 32
/-- A count of 0 means K (07 R183, R188). -/
def countOrK (shape n : Nat) : Nat := if n = 0 then shapeK shape else n

/-! ### Line images (07 Table 7-7, R189) -/

/-- The words of a line image: register offset and byte offset. -/
def imageWords (shape kind code : Nat) : List (Nat × Nat) :=
  if kind = 2 then (List.range 32).map fun r => (r, 4 * r)
  else if shape = 2 then (List.range (code + 1)).flatMap fun q => (List.range 4).map fun w => (4 * q + w, 1024 * w + 128 * q)
  else (List.range 16).map fun r => (r, 4 * r)

/-- The bits of a word's elements below KLIM. -/
def liveBits (shape kind klim r : Nat) : Word :=
  if kind = 2 then BitVec.allOnes 32
  else if shape = 0 then (if 2 * r < klim then 0xFFFF else 0) ||| (if 2 * r + 1 < klim then 0xFFFF0000 else 0)
  else if shape = 1 then (if r / 2 < klim then BitVec.allOnes 32 else 0)
  else firstLanes (klim - 32 * (r % 4))

/-- Lanes that load or store a line: lanes 16 to 31 of a shape 1 B fragment do not (07 R188). -/
def lineLanes (shape kind : Nat) (m : Mask) : List Nat :=
  lanesOf (if shape = 1 && kind = 1 then m &&& 0xFFFF else m)

/-- The elements that a word's register holds parts of (07 Table 7-10). -/
def elemsAt (shape kind r : Nat) : List Nat :=
  if kind = 2 then [if shape = 1 then r / 2 else r]
  else if shape = 0 then [2 * r, 2 * r + 1] else if shape = 1 then [r / 2] else (List.range 32).map (32 * (r % 4) + ·)

/-- The registers that hold parts of the same elements as a word's: both halves of an f64, every plane. -/
def mates (shape kind code r : Nat) : List Nat :=
  if shape = 1 then [r / 2 * 2, r / 2 * 2 + 1]
  else if shape = 2 && kind != 2 then (List.range (code + 1)).map fun q => 4 * q + r % 4
  else [r]

/-- A failing check: cause and trap value. -/
abbrev Failure := Nat × DWord

/-- One word of a lane's line: lane, register offset, live bits, first key. -/
abbrev LineWord := Nat × Nat × Word × Nat

/-- Each word (lane, register offset, live bits, address) of a line access in its space, or the first that has no place. EA[31]
set lies outside the launch's die store (log 24). Of several words of a lane that have none the first in the order of Table 7-7 is
reported: the spec says 'with the address' (log 41). -/
def State.lineWords (s : State) (c : Ctx) (spc : Space) : List (Nat × Nat × Word × Nat) → Except Failure (List LineWord)
  | [] => .ok []
  | (i, r, b, ea) :: rest =>
    if spc == .ds && ea ≥ 2 ^ 31 then .error (9, BitVec.ofNat 64 ea)
    else match s.resolve c spc ea 4 with
      | .error e => .error e
      | .ok k => match s.lineWords c spc rest with
        | .error e => .error e
        | .ok out => .ok ((i, r, b, k) :: out)

/-- The accesses of a line load or store, all checks before any access (07 R190): alignment, then each word's space. -/
def State.linePlan (s : State) (c : Ctx) (shape kind code klim : Nat) (spc : Space) (m : Mask) (adr : Nat → Word) :
    Except Failure (List LineWord) :=
  let ls := lineLanes shape kind m
  let al := if shape = 2 then 4 else 16
  match ls.find? fun i => (adr i).toNat % al ≠ 0 with
  | some i => .error (8, (adr i).setWidth 64)
  | none =>
    s.lineWords c spc (ls.flatMap fun i => (imageWords shape kind code).filterMap fun p =>
      let b := liveBits shape kind klim p.1
      if b = 0 then none else some (i, p.1, b, (adr i + BitVec.ofNat 32 p.2).toNat))

/-! ### Soft errors (07 R196) -/

/-- An element that was replaced by zero: operand, lane, register, element. -/
abbrev BadElem := Nat × Nat × Nat × Nat

/-- The core's matrix error record takes a replaced element: the first is described, a further one sets MORE. Table 7-10 lets
software clear STICKY and leave MORE: the next first element then writes the whole record, MORE = 0 (log 38). -/
def State.matrixError (s : State) (w : Warp) (pc : PC) (b : BadElem) : State :=
  s.modCore w.die w.core fun x =>
    if x.matrixErr.getLsbD 63 then { x with matrixErr := x.matrixErr ||| 0x4000000000000000 }
    else { x with matrixErr := BitVec.ofNat 64 (2 ^ 63 + b.1 % 8 * 2 ^ 59 + w.slot % 64 * 2 ^ 53 + b.2.1 % 32 * 2 ^ 48
                    + b.2.2.1 % 256 * 2 ^ 40 + b.2.2.2 % 256 * 2 ^ 32 + pc.toNat % 2 ^ 32) }

/-- Each replaced element once, as it was first met. -/
def onceEach (bs : List BadElem) : List BadElem :=
  bs.foldl (fun acc b => if acc.any fun a => a.1 == b.1 && a.2.1 == b.2.1 && a.2.2.2 == b.2.2.2 then acc else acc ++ [b]) []

/-- A fragment in registers: shape, kind, plane code and first register. -/
structure Frag where
  shape : Nat
  kind  : Nat
  code  : Nat
  base  : Nat

/-- A register's lane read as part of matrix elements: zero where a register of theirs holds an uncorrectable error. -/
def Warp.elem (w : Warp) (g : Frag) (r i : Nat) : Word :=
  if !w.badRegs.isEmpty && (mates g.shape g.kind g.code r).any (fun q => w.badRegs.contains (g.base + q, i)) then 0
  else w.lane (g.base + r) i

/-- The bad elements of an operand that are read: those below `lim` in some lanes. -/
def Warp.badIn (w : Warp) (operand : Nat) (g : Frag) (n lim : Nat) (m : Mask) : List BadElem :=
  w.badRegs.flatMap fun b =>
    if g.base ≤ b.1 && b.1 < g.base + n && m.getLsbD b.2 then
      ((elemsAt g.shape g.kind (b.1 - g.base)).filter (· < lim)).map fun e => (operand, b.2, b.1, e)
    else []

/-! ### Loads and stores of fragments -/

/-- Words read by relaxed loads at thread scope (07 R185, R191), each for a lane: their values, and the warp with what they
bring. -/
def State.readWords (s : State) (w : Warp) (n : Nat) (ks : List (Nat × Nat)) : State × Warp × List Nat :=
  let (t, v, out) := ks.foldl (fun (acc : State × Warp × List Nat) k =>
    let p := w.party k.1 .thr
    let (t, bs, ys) := acc.1.bankRead [(p, (w.sight k.1).past)] s.fresh k.2 n
    (t, (acc.2.1.merge (t.spaceClock k.2)).hearAll k.1 false p ys, leNat bs :: acc.2.2)) (s, w, [])
  (t, v, out.reverse)

/-- The words loaded, masked elements zero (07 R189); an element with a poisoned word is replaced by zero. -/
def State.loadLine (s : State) (w : Warp) (g : Frag) (klim : Nat) (m : Mask) (plan : List LineWord) : State × Warp × List BadElem :=
  let (t, v, vals) := s.readWords w 4 (plan.map fun x => (x.1, x.2.2.2))
  let got := plan.zip vals
  let out := plan.filterMap fun x => if s.poisoned.contains (x.2.2.2 / 32) then some (x.1, x.2.1) else none
  let bad := out.flatMap fun x => ((elemsAt g.shape g.kind x.2).filter (g.kind = 2 || · < klim)).map fun e => (4, x.1, g.base + x.2, e)
  let ls := maskOf fun i => (lineLanes g.shape g.kind m).contains i
  let val (r i : Nat) : Word := match got.find? fun x => x.1.1 == i && x.1.2.1 == r with
    | some x => if !out.isEmpty && (mates g.shape g.kind g.code r).any (fun q => out.contains (i, q)) then 0
                else BitVec.ofNat 32 x.2 &&& x.1.2.2.1
    | none => 0
  (t, (imageWords g.shape g.kind g.code).foldl (fun w p => w.setLanes (g.base + p.1) ls (val p.1)) v, bad)

/-- One word stored, masked bits kept (07 R189): a relaxed store at thread scope (R191); one after a release fence is a release
side and raises the space clock (08 R211; 16 R356). -/
def State.storeWord (s : State) (w : Warp) (g : Frag) (x : LineWord) : State :=
  let (i, r, live, k) := x
  let old : Word := BitVec.ofNat 32 (s.readNat k 4)
  let v := (old &&& ~~~live) ||| (w.elem g r i &&& live)
  let ys := (w.relScopes i s.fresh none).map fun y => Sync.mk (w.party i y.1) w.clock y.2
  let t := s.storeKeys { who := some (w.party i .thr), number := s.fresh, syncs := ys, acked := true }
    ((List.range 4).map (k + ·)) (leBytes 4 v.toNat)
  if ys.isEmpty then t else t.raiseSpace k w.clock

/-! ### The format block -/

def descFmt (d : Nat) : Nat := bitsOf d 0 4
def descPlanes (d : Nat) : Nat := bitsOf d 4 3
def descBlen (d : Nat) : Nat := bitsOf d 7 2
def descAxis (d : Nat) : Nat := bitsOf d 9 1
def descStride (d : Nat) : Nat := bitsOf d 10 14
def descKv (d : Nat) : Nat := bitsOf d 24 8
/-- Block length L. -/
def descL (d : Nat) : Nat := 16 * 2 ^ descBlen d

/-- A format suits a shape. -/
def suits (shape fmt : Nat) : Bool := if shape = 0 then fmt == 9 || fmt == 10 else if shape = 1 then fmt == 12 else fmt == 13

/-- Checks 2 to 8 of Table 7-3: the first that fails. -/
def Format.check (F : Format) (shape ca cb : Nat) : Option Failure :=
  let bp (d : Nat) : Bool := descFmt d == 13
  let either (bad : Nat → Nat → Nat → Bool) : Option Nat :=
    if bad F.da F.sa 0 then some 0 else if bad F.db F.sb 1 then some 1 else none
  let pair (k o : Nat) : Failure := (0x19, BitVec.ofNat 64 (k + 16 * o))
  match either fun d _ _ => !(descFmt d == 9 || descFmt d == 10 || descFmt d == 12 || descFmt d == 13) with
  | some o => some (pair 1 o)
  | none => match either fun d sc o => (!bp d && (bitsOf d 4 20 != 0 || sc != 0)) || (o == 1 && descKv d != 0) with
    | some o => some (pair 4 o)
    | none => match either fun d _ o => bp d && descPlanes d != (if o = 0 then ca else cb) with
      | some o => some (pair 2 o)
      | none => match either fun d _ _ => bp d && descBlen d == 3 with
        | some o => some (pair 3 o)
        | none =>
          if descFmt F.da != descFmt F.db || !suits shape (descFmt F.da) then
            some (pair 0 (if suits shape (descFmt F.da) then 1 else 0))
          else if descKv F.da > shapeK shape then some (pair 4 0)
          else match either fun d _ _ => bp d && descAxis d == 1 with
            | some o => some (0x18, BitVec.ofNat 64 (16 * o))
            | none => none

/-- Columns that contribute. -/
def columns (shape : Nat) (m : Mask) : List Nat := (lanesOf m).filter (· < shapeN shape)

/-- The scale byte's address of an operand's line and step k (07 R179). -/
def scaleAddr (desc sc line k : Nat) : Nat := (sc + line * descStride desc + k / descL desc) % 2 ^ 32

/-- The scale bytes a bit-plane multiplication reads (07 R185): operand, line, block and address. -/
def Format.scales (F : Format) (shape kv : Nat) (m : Mask) : List (Nat × Nat × Nat × Nat) :=
  let of (o d sc : Nat) (lines : List Nat) : List (Nat × Nat × Nat × Nat) := lines.flatMap fun l =>
    (List.range (ceilDiv kv (descL d))).map fun b => (o, l, b, scaleAddr d sc l (b * descL d))
  if shape ≠ 2 then [] else of 0 F.da F.sa (lanesOf m) ++ of 1 F.db F.sb (columns shape m)

/-- Check 9 of Table 7-3: a scale byte to be read lies outside the workgroup's shared memory (07 R185). Of several the first is
reported, A's lines before B's, by line and block: the spec names none (log 41). -/
def Format.scaleFault (F : Format) (shared shape kv : Nat) (m : Mask) : Option Failure :=
  ((F.scales shape kv m).find? fun x => shared ≤ x.2.2.2).map fun x => (9, BitVec.ofNat 64 x.2.2.2)

/-! ### The multiplication (07 R183, R184) -/

/-- A live element of a 16-bit or f64 operand. -/
def fragElem (w : Warp) (g : Frag) (fmt lane k : Nat) : FVal :=
  if g.shape = 0 then
    let v := (w.elem g (k / 2) lane).toNat
    decodeF (if fmt = 9 then .f16 else .bf16) (if k % 2 = 0 then v % 2 ^ 16 else v / 2 ^ 16)
  else decodeF .f64 (pair64 (w.elem g (2 * k) lane) (w.elem g (2 * k + 1) lane)).toNat

/-- A bit-plane operand's code at its plane count, q >> (8 − p) (03 R82; 07 Table 7-1). -/
def fragCode (w : Warp) (g : Frag) (lane k : Nat) : Int :=
  let p := g.code + 1
  let q := (List.range p).foldl (fun x j =>
    if (w.elem g (4 * j + k / 32) lane).getLsbD (k % 32) then x + 2 ^ (p - 1 - j) else x) 0
  if q ≥ 2 ^ (p - 1) then (q : Int) - 2 ^ p else q

/-- The accumulator element of a row and column. -/
def accElem (w : Warp) (g : Frag) (row n : Nat) : FVal :=
  if g.shape = 1 then decodeF .f64 (pair64 (w.elem g (2 * n) row) (w.elem g (2 * n + 1) row)).toNat
  else decodeF .f32 (w.elem g n row).toNat

/-- Elements that a load has replaced, as elements of an operand. -/
def asOperand (o : Nat) (bs : List BadElem) : List BadElem := bs.map fun b => (o, b.2)

/-- The operands of a multiplication. -/
structure Operands where
  a : Frag
  b : Frag
  c : Frag

/-- One element of D: the groups in ascending k (07 R183; 03 R89 to R91). `E` reads a scale byte of A (0) or B (1), and `skip`
says which elements are masked because they were replaced (07 R196). -/
def matElem (w : Warp) (F : Format) (x : Operands) (kv : Nat) (E : Nat → Nat → Nat → Nat) (skip : Nat → Nat → Nat → Bool)
    (colLive : Bool) (i n : Nat) : FVal :=
  let shape := x.a.shape
  let acc : Ty := if shape = 1 then .f64 else .f32
  let size := if shape = 0 then 32 else if shape = 1 then 8 else min (descL F.da) (descL F.db)
  (List.range (shapeK shape / size)).foldl (fun v g =>
    let ks := (List.range size).map (g * size + ·)
    let live := if colLive then ks.filter fun k => k < kv && !skip 0 i k && !skip 1 n k else []
    if shape = 2 then
      match live with
      | [] => planeAdd v 0 0 0 8 8
      | k :: _ =>
        let t := live.foldl (fun y k => y + fragCode w x.a i k * fragCode w x.b n k) 0
        planeAdd v (E 0 i k) (E 1 n k) t (x.a.code + 1) (x.b.code + 1)
    else
      let ps := live.map fun k => mulF (fragElem w x.a (descFmt F.da) i k) (fragElem w x.b (descFmt F.db) n k)
      groupAdd acc (if shape = 1 then 116 else 40) v (if live.length < size then ps ++ [.num false 0 0] else ps))
    (accElem w x.c i n)

/-- The registers of D written in the contributing lanes (07 R187). -/
def Warp.writeAcc (w : Warp) (shape d : Nat) (m : Mask) (v : Nat → Nat → FVal) : Warp :=
  let val : List (Nat × List DWord) := (lanesOf m).map fun i => (i, (List.range (shapeN shape)).map fun n =>
    BitVec.ofNat 64 (encodeF (if shape = 1 then .f64 else .f32) .rne (v i n)))
  let at_ (i n : Nat) : DWord := (tget val i []).getD n 0
  (List.range 32).foldl (fun w r => w.setLanes (d + r) m fun i =>
    if shape = 1 then (if r % 2 = 0 then lo32 (at_ i (r / 2)) else hi32 (at_ i (r / 2))) else lo32 (at_ i r)) w

/-- The elements of A and B that hold uncorrectable errors among those an operation reads: they are masked (07 R196). -/
def Warp.badAB (w : Warp) (x : Operands) (kv : Nat) (m : Mask) : List BadElem :=
  let shape := x.a.shape
  w.badIn 0 x.a (fragRegs shape x.a.code) kv m
  ++ w.badIn 1 x.b (fragRegs shape x.b.code) kv (maskOf fun i => (columns shape m).contains i)

/-- Element k of a line of an operand is among the replaced ones. -/
def skips (bad : List BadElem) (o line k : Nat) : Bool := bad.any fun b => b.1 == o && b.2.1 == line && b.2.2.2 == k

/-- The scale bytes read: those of the blocks that hold an element not masked (07 R184, R185). -/
def Format.scalesRead (F : Format) (shape kv : Nat) (m : Mask) (bad : List BadElem) : List (Nat × Nat × Nat × Nat) :=
  (F.scales shape kv m).filter fun y =>
    let l := descL (if y.1 = 0 then F.da else F.db)
    bad.isEmpty || (List.range (min kv ((y.2.2.1 + 1) * l) - y.2.2.1 * l)).any fun k => !skips bad y.1 y.2.1 (y.2.2.1 * l + k)

/-- The elements that an operation replaces, scale bytes among them (07 R196): of A, B and C, then the scale bytes, an order that
the spec does not give (log 41). -/
def State.badOperands (s : State) (w : Warp) (F : Format) (x : Operands) (kv : Nat) (m : Mask) (lost : List BadElem) : List BadElem :=
  let ab := w.badAB x kv m
  ab ++ w.badIn 2 x.c 32 (shapeN x.a.shape) m ++ (F.scalesRead x.a.shape kv m (ab ++ lost)).filterMap fun y =>
    if s.poisoned.contains (sharedKey w.wg y.2.2.2 / 32) then some (3, y.2.1, 0, y.2.2.1) else none

/-- The multiplication of one mma or mloop step: its scale bytes are relaxed loads of the lowest contributing lane (07 R183 to
R185). `lost` are the elements of A and B that this step's loads have replaced. -/
def State.multiply (s : State) (w : Warp) (F : Format) (x : Operands) (d kvf : Nat) (m : Mask) (lost : List BadElem) :
    State × Warp × List BadElem :=
  let kv := countOrK x.a.shape kvf
  let masked := w.badAB x kv m ++ lost
  let keys := ((F.scalesRead x.a.shape kv m masked).map fun y => sharedKey w.wg y.2.2.2).eraseDups
  let (t, u, vals) := s.readWords w 1 (keys.map fun k => ((lowLane m).getD 0, k))
  let got := keys.zip vals
  let E (o line k : Nat) : Nat :=
    let key := sharedKey w.wg (if o = 0 then scaleAddr F.da F.sa line k else scaleAddr F.db F.sb line k)
    if s.poisoned.contains (key / 32) then 0 else tget got key 0
  let v (i n : Nat) : FVal := matElem w F x kv E (skips masked) (m.getLsbD n) i n
  (t, u.writeAcc x.a.shape d m v, s.badOperands w F x kv m lost)

/-! ### Issue -/

/-- The registers of a range. -/
def regRange (r n : Nat) : List Nat := (List.range n).map (r + ·)

/-- The registers whose dead tags a matrix collective checks when it contributes: not those of its format block (07 R179). -/
def FormX.mmaReads (f : FormX) : List Nat :=
  regRange f.xa.toNat (fragRegs f.shape f.codeA) ++ regRange f.xb.toNat (fragRegs f.shape f.codeB) ++ regRange f.xc.toNat 32
def FormX.mloopReads (f : FormX) : List Nat := regRange f.dst.toNat 32 ++ regRange f.xc.toNat 4
def FormX.mldfReads (f : FormX) : List Nat := [f.xa.toNat]
def FormX.mstfReads (f : FormX) : List Nat := f.xa.toNat :: regRange f.xb.toNat (lineRegs f.shape f.kind f.codeA)

/-- The dead register a matrix collective reads: its mask register whatever the guard (01 R32; 07 R178). -/
def Ctx.matrixDead (c : Ctx) (f : FormX) (reads : List Nat) : Option Nat :=
  if c.l.packet.deadCheck then
    least (((if f.allLanes then [] else [f.xe.toNat]) ++ if c.eff = 0 then [] else reads).filter fun n => (c.w.reg n).isDead)
  else none

/-- Why a matrix collective waits at issue: an mloop of the warp runs (07 R194), or an acquire is in flight (08 R211). -/
def State.matrixWaits (s : State) (c : Ctx) (f : FormX) (reads : List Nat) : Option Nat :=
  if (c.matrixDead f reads).isSome then none
  else if c.w.mloop.isSome then some 6 else if s.pendingAcquire c.w.uid c.run then some 4 else none

/-- A matrix collective arrives (07 R177), after its wait. -/
def State.matrixArrive (s : State) (f : FormX) (reads : List Nat) (i : Instr) : Result :=
  match s.ctx? f.guard with
  | none => .next s
  | some c => match c.matrixDead f reads with
    | some n => .next (s.trapHere c 6 (BitVec.ofNat 64 n))
    | none =>
      if (s.matrixWaits c f reads).isSome then .next s.wait
      else
        let m := if f.allLanes then c.w.living else c.w.lane f.xe.toNat ((lowLane c.run).getD 0)
        .next (s.arriveAt c m f.allLanes (fun _ => 0) i)

/-- mma (07 R183). -/
def execMma (f : FormX) (s : State) : Result := s.matrixArrive f (FormX.mmaReads f) (.mma f)
/-- mloop (07 R192). -/
def execMloop (f : FormX) (s : State) : Result := s.matrixArrive f (FormX.mloopReads f) (.mloop f)
/-- mldf (07 R188). -/
def execMldf (f : FormX) (s : State) : Result := s.matrixArrive f (FormX.mldfReads f) (.mldf f)
/-- mstf (07 R188). -/
def execMstf (f : FormX) (s : State) : Result := s.matrixArrive f (FormX.mstfReads f) (.mstf f)

/-- The FMT code of an mfmt format code (07 R182). -/
def fmtCode (k : Nat) : Nat := if k = 0 then 9 else if k = 1 then 10 else if k = 2 then 12 else 13

/-- A descriptor as mfmt writes it (07 R181). -/
def mfmtDesc (fa planes blen axis stride kv : Nat) : Nat :=
  fmtCode fa + kv * 2 ^ 24
    + if fa = 3 then planes * 2 ^ 4 + blen * 2 ^ 7 + axis * 2 ^ 9 + stride % 2 ^ 14 * 2 ^ 10 else 0

/-- mfmt (07 R181). -/
def execMfmt (f : FormX) (s : State) : Result :=
  let d := f.dst.toNat
  let fa := f.opsAt 78 77; let fb := f.opsAt 76 75
  let r (b : BitVec 8) : Nat := b.toNat
  s.alu f.guard [r f.xa, r f.xb, r f.xc, r f.xd]
      (FormX.marked f [(0, r f.xa, 1), (1, r f.xb, 1), (2, r f.xc, 1), (3, r f.xd, 1)]) (regRange d 4) fun c =>
    let u (n : Nat) : Bool := (c.w.reg n).countsU
    let put (w : Warp) (n : Nat) (uni : Bool) (g : Nat → Nat) : Warp :=
      w.writeResult n false c.eff c.full uni none fun i => BitVec.ofNat 64 (g i)
    let v (n i : Nat) : Nat := (c.w.lane n i).toNat
    let w := put c.w d (fa != 3 || u (r f.xc)) fun i =>
      mfmtDesc fa (f.opsAt 81 79) (f.opsAt 86 85) (f.opsAt 89 89) (v (r f.xc) i) f.cnt.toNat
    let w := put w (d + 1) (u (r f.xa)) fun i => if fa = 3 then v (r f.xa) i else 0
    let w := put w (d + 2) (fb != 3 || u (r f.xd)) fun i =>
      mfmtDesc fb (f.opsAt 84 82) (f.opsAt 88 87) (f.opsAt 90 90) (v (r f.xd) i) 0
    .ok (put w (d + 3) (u (r f.xb)) fun i => if fb = 3 then v (r f.xb) i else 0)

/-! ### The slice -/

/-- What a started instruction does to its warp and memory, or the check that fails. -/
abbrev SliceResult := Except Failure (State × Warp × List BadElem)

/-- Uncorrectable errors in the format block, read in the lowest contributing lane, or in the mask register, which every
arriving split reads in its lowest running lane: POISON (07 R178, R180, R196). Of several registers the lowest is reported: the
spec names none (log 41). -/
def Warp.badControl (w : Warp) (f : FormX) (block : Bool) (lane : Nat) (lows : List Nat) : Option Failure :=
  let bad (r : Nat) (ls : List Nat) : Bool := ls.any fun i => w.badRegs.contains (r, i)
  let fmt := if block then (regRange f.xd.toNat 4).filter fun r => bad r [lane] else []
  let mask := if !f.allLanes && bad f.xe.toNat lows then [f.xe.toNat] else []
  (least (fmt ++ mask)).map fun r => (0x14, BitVec.ofNat 64 r)

/-- Last-use marks of a matrix instruction: ignored unless every living lane contributes (07 R187). -/
def Warp.killMatrix (w : Warp) (f : FormX) (m : Mask) (ranges : List (Nat × Nat × Nat)) (written : List Nat) : Warp :=
  w.kill (m == w.living) (FormX.marked f ranges) written

/-- The operands of an mma and of an mloop. -/
def FormX.mmaOperands (f : FormX) : Operands :=
  ⟨⟨f.shape, 0, f.codeA, f.xa.toNat⟩, ⟨f.shape, 1, f.codeB, f.xb.toNat⟩, ⟨f.shape, 2, 0, f.xc.toNat⟩⟩
def FormX.loopOperands (f : FormX) : Operands := { FormX.mmaOperands f with c := ⟨f.shape, 2, 0, f.dst.toNat⟩ }

/-- The line of an mldf, or of an mstf. -/
def FormX.lineFrag (f : FormX) (base : Nat) : Frag := ⟨f.shape, f.kind, f.codeA, base⟩

/-- mma runs (07 R180, R183). -/
def State.runMma (s : State) (c : Ctx) (f : FormX) (m : Mask) (lows : List Nat) : SliceResult :=
  let low := (lowLane m).getD 0; let w := c.w
  let F := w.format f.xd.toNat low
  let shape := f.shape; let ca := f.codeA; let cb := f.codeB; let d := f.dst.toNat
  let kv := countOrK shape (descKv F.da)
  match w.badControl f true low lows <|> F.check shape ca cb <|> F.scaleFault c.g.sharedBytes shape kv m with
  | some e => .error e
  | none =>
    let (t, v, bad) := s.multiply w F (FormX.mmaOperands f) d (descKv F.da) m []
    .ok (t, v.killMatrix f m [(0, f.xa.toNat, fragRegs shape ca), (1, f.xb.toNat, fragRegs shape cb), (2, f.xc.toNat, 32),
      (3, f.xd.toNat, 4), (4, f.xe.toNat, 1)] (regRange d 32), bad)

/-- mldf runs (07 R188 to R190). -/
def State.runMldf (s : State) (c : Ctx) (f : FormX) (m : Mask) (lows : List Nat) : SliceResult :=
  let klim := countOrK f.shape f.cnt.toNat
  match c.w.badControl f false 0 lows with
  | some e => .error e
  | none => match s.linePlan c f.shape f.kind f.codeA klim f.mspace m (c.w.lane f.xa.toNat) with
    | .error e => .error e
    | .ok plan =>
      let (t, w, bad) := s.loadLine c.w (FormX.lineFrag f f.dst.toNat) klim m plan
      .ok (t, w.killMatrix f m [(0, f.xa.toNat, 1), (4, f.xe.toNat, 1)]
        (regRange f.dst.toNat (lineRegs f.shape f.kind f.codeA)), bad)

/-- mstf runs (07 R188 to R190). -/
def State.runMstf (s : State) (c : Ctx) (f : FormX) (m : Mask) (lows : List Nat) : SliceResult :=
  let klim := countOrK f.shape f.cnt.toNat; let b := f.xb.toNat
  match c.w.badControl f false 0 lows with
  | some e => .error e
  | none => match s.linePlan c f.shape f.kind f.codeA klim f.mspace m (c.w.lane f.xa.toNat) with
    | .error e => .error e
    | .ok plan =>
      let g := FormX.lineFrag f b
      let t := plan.foldl (fun t x => t.storeWord c.w g x) s
      let whole := (plan.filter fun x => x.2.2.1 == BitVec.allOnes 32).flatMap fun x => (List.range 4).map (x.2.2.2 + ·)
      let t := t.coverSectors whole
      let w := (t.warp? c.w.uid).getD c.w
      let n := lineRegs f.shape f.kind f.codeA
      let ls := maskOf fun i => (lineLanes f.shape f.kind m).contains i
      .ok (t, w.killMatrix f m [(0, f.xa.toNat, 1), (1, b, n), (4, f.xe.toNat, 1)] [],
        c.w.badIn 5 g n (if f.kind = 2 then shapeN f.shape else klim) ls)

/-- The format block of a step: the scale addresses advance (07 R192). -/
def Format.step (F : Format) (n : Nat) : Format :=
  { F with sa := (F.sa + n * (128 / descL F.da)) % 2 ^ 32, sb := (F.sb + n * (128 / descL F.db)) % 2 ^ 32 }

/-- The valid k of a step: the block's KV in the last, K in the others. -/
def stepKv (F : Format) (n total : Nat) : Nat := if n + 1 = total then descKv F.da else 0

/-- The line plans of one step's two loads, their lines at the addresses that the quad's registers hold then: of a fragment over
the quad the spec does not say which values the later steps take (log 41). -/
def State.stepPlans (s : State) (c : Ctx) (f : FormX) (F : Format) (l : MloopState) (n : Nat) :
    Except Failure (List LineWord × List LineWord) :=
  let shape := f.shape; let q := f.xc.toNat
  let kv := countOrK shape (stepKv F n l.total)
  let adr (r : Nat) (inc : Word) (i : Nat) : Word := c.w.lane r i + BitVec.ofNat 32 n * inc
  match s.linePlan c shape 0 f.codeA kv f.mspace l.lanes (adr q l.ainc),
        s.linePlan c shape 1 f.codeB kv f.mspace l.lanes (adr (q + 1) l.binc) with
  | .error e, _ => .error e
  | _, .error e => .error e
  | .ok a, .ok b => .ok (a, b)

/-- The checks of an mloop before its first step (07 R193). Of the failures of several steps the first step's is reported, A's
before B's, and a scale byte's last: the spec names none (log 41). -/
def State.mloopCheck (s : State) (c : Ctx) (f : FormX) (F : Format) (l : MloopState) (lows : List Nat) : Option Failure :=
  let shape := f.shape
  let low := (lowLane l.lanes).getD 0
  let steps := List.range l.total
  let kv (n : Nat) : Nat := countOrK shape (stepKv F n l.total)
  c.w.badControl f true low lows <|> F.check shape f.codeA f.codeB
    <|> F.scaleFault c.g.sharedBytes shape (kv 0) l.lanes
    <|> (steps.findSome? fun n => match s.stepPlans c f F l n with
      | .error e => some e
      | .ok _ => none)
    <|> (steps.findSome? fun n => (F.step n).scaleFault c.g.sharedBytes shape (kv n) l.lanes)

/-- One step of an mloop (07 R192): two loads and a multiplication; after the last one the record is gone and last-use marks
apply, where S is then the set of living lanes: of lanes that exit during the loop R187 says nothing (log 41). -/
def State.mloopStep (s : State) (c : Ctx) (f : FormX) (l : MloopState) : SliceResult :=
  let F := l.block
  let x := FormX.loopOperands f
  let kvf := stepKv F l.next l.total; let klim := countOrK f.shape kvf
  match s.stepPlans c f F l l.next with
  | .error e => .error e
  | .ok (pa, pb) =>
    let (t1, w1, bad1) := s.loadLine c.w x.a klim l.lanes pa
    let (t2, w2, bad2) := t1.loadLine w1 x.b klim l.lanes pb
    let (t3, w3, bad3) := t2.multiply w2 (F.step l.next) x f.dst.toNat kvf l.lanes (asOperand 0 bad1 ++ asOperand 1 bad2)
    let last := l.next + 1 = l.total
    let w4 := { w3 with mloop := if last then none else some { l with next := l.next + 1, resumed := false } }
    let written := regRange f.dst.toNat 32 ++ regRange f.xa.toNat (fragRegs f.shape f.codeA) ++ regRange f.xb.toNat (fragRegs f.shape f.codeB)
    .ok (t3, if last then w4.killMatrix f l.lanes [(2, f.xc.toNat, 4), (3, f.xd.toNat, 4), (4, f.xe.toNat, 1)] written else w4,
      bad1 ++ bad2 ++ bad3)

/-- The record of an mloop that starts: its block and increments are read in the lowest contributing lane (07 R179, R192). -/
def Ctx.loopRecord (c : Ctx) (f : FormX) (m : Mask) : MloopState :=
  let low := (lowLane m).getD 0; let q := f.xc.toNat
  { pc := c.pc, i := .mloop f, lanes := m, block := c.w.format f.xd.toNat low, ainc := c.w.lane (q + 2) low,
    binc := c.w.lane (q + 3) low, next := 0, total := f.cnt.toNat }

/-- mloop starts: its checks, then its first step. -/
def State.runMloop (s : State) (c : Ctx) (f : FormX) (m : Mask) (lows : List Nat) : SliceResult :=
  let l := c.loopRecord f m
  match s.mloopCheck c f l.block l lows with
  | some e => .error e
  | none => s.mloopStep c f l

/-- The context of a warp outside the issue stage. -/
def State.warpCtx? (s : State) (w : Warp) (e : Nat) (pc : PC) (m : Mask) : Option Ctx :=
  match s.launch? w.launch, s.wg? w.wg with
  | some l, some g => some { w := w, l := l, g := g, e := e, pc := pc, run := m, eff := m, second := none }
  | _, _ => none

/-- A started collective's effect: contributing lanes `m`, the lowest running lane of each split that arrived. -/
def State.runMatrix (s : State) (c : Ctx) (i : Instr) (m : Mask) (lows : List Nat) : SliceResult :=
  match i with
  | .mma f => s.runMma c f m lows
  | .mldf f => s.runMldf c f m lows
  | .mstf f => s.runMstf c f m lows
  | .mloop f => s.runMloop c f m lows
  | _ => .ok (s, c.w, [])

/-- The bytes a started instruction would touch: space, key, length, whether it writes them. -/
def State.matrixTouches (s : State) (c : Ctx) (i : Instr) (m : Mask) : List (Space × Nat × Nat × Bool) :=
  let words (f : FormX) (write : Bool) (p : Except Failure (List LineWord)) : List (Space × Nat × Nat × Bool) := match p with
    | .ok plan => plan.map fun x => (f.mspace, x.2.2.2, 4, write)
    | .error _ => []
  let line (f : FormX) (write : Bool) : List (Space × Nat × Nat × Bool) :=
    words f write (s.linePlan c f.shape f.kind f.codeA (countOrK f.shape f.cnt.toNat) f.mspace m (c.w.lane f.xa.toNat))
  let scales (f : FormX) (F : Format) (kvf : Nat) : List (Space × Nat × Nat × Bool) :=
    (F.scales f.shape (countOrK f.shape kvf) m).map fun y => (.sh, sharedKey c.g.uid y.2.2.2, 1, false)
  let low := (lowLane m).getD 0
  match i with
  | .mldf f => line f false
  | .mstf f => line f true
  | .mma f => let F := c.w.format f.xd.toNat low; scales f F (descKv F.da)
  | .mloop f =>
    let l := c.loopRecord f m; let F := l.block
    (List.range l.total).flatMap fun n => (match s.stepPlans c f F l n with
      | .ok (a, b) => words f false (.ok (a ++ b))
      | .error _ => []) ++ scales f (F.step n) (stepKv F n l.total)
  | _ => []

/-- A covered instruction waits for the range scoreboard (09 R245), or for accesses in flight that its own must follow (07
R191). -/
def State.matrixStalls (s : State) (c : Ctx) (i : Instr) (m : Mask) : Bool :=
  (!c.w.ranges.isEmpty || s.accesses.any (·.warp == c.w.uid)) && (s.matrixTouches c i m).any fun x =>
    c.w.rangeHit x.1 x.2.1 x.2.2.1 x.2.2.2 || s.unperformed c.w.uid x.2.1 x.2.2.1

/-- The cycle of an instance's covering arrival: the first by which the arrivals cover its mask (07 R186). -/
def Warp.coverCycle (w : Warp) (gs : List (Nat × Group × Collective)) : Nat :=
  (least ((gs.map (·.2.2.since)).filter fun t => w.covered (gs.filter fun g => g.2.2.since ≤ t))).getD 0

/-- A covered matrix instance of a scheduler: its warp, PC and order (07 R186: covering arrival, then warp slot). -/
def State.sliceQueue (s : State) (die core sched : Nat) : List (Warp × PC × Nat) :=
  let ws := s.warps.filter fun w => w.die == die && w.core == core && w.sched == sched && w.mloop.isNone
  sortBy (fun (x : Warp × PC × Nat) => x.2.2 * 64 + x.1.slot) (ws.flatMap fun w => w.collectivePcs.filterMap fun pc =>
    let gs := w.collectivesAt pc
    if w.covered gs && gs.any (fun g => isMatrix g.2.2.i) then
      some (w, pc, w.coverCycle gs)
    else none)

/-- MATRIX_SLICE_START (07 R177, R186): the slice runs the first covered instruction; its groups rejoin at the next PC, or
every split with a group there takes the check that fails (R180). -/
def execEvMatrixSliceStart (die core sched : Nat) (s : State) : Result :=
  match s.sliceQueue die core sched with
  | [] => .next s
  | (w, pc, _) :: _ =>
    let gs := w.collectivesAt pc
    match gs with
    | [] => .next s
    | (e, _, k) :: _ =>
      let m := gs.foldl (fun a g => a ||| g.2.2.contrib) 0
      let rejoin (w : Warp) : Warp := w.release (fun g => gs.any fun h => h.2.1 == g) fun g => nextSlot g.key
      match s.warpCtx? w e pc m with
      | none => .next s
      | some c =>
        if m = 0 then .next (State.stabilise (s.putWarp (rejoin w)))
        else if s.matrixStalls c k.i m then .next s
        else match s.runMatrix c k.i m (gs.filterMap fun g => lowLane g.2.1.lanes) with
          | .error (cause, tv) =>
            .next (State.stabilise (s.trapSplits [w.uid] (fun g => g.arrived && isCollective g.kind && g.key == pc) cause fun _ _ => tv))
          | .ok (t, v, bad) =>
            .next (State.stabilise (((onceEach bad).foldl (fun t b => t.matrixError w pc b) t).putWarp (rejoin v)))

/-- MLOOP_STEP (07 R192, R194): the next step of a warp's mloop. One whose source is gone since its checks, with the member that
held it, ends there: a step never faults, and the spec says no more (log 38). -/
def execEvMloopStep (wid : Nat) (s : State) : Result :=
  match s.warp? wid with
  | none => .next s
  | some w => match w.mloop with
    | none => .next s
    | some l => match l.i, s.warpCtx? w 0 l.pc l.lanes with
      | .mloop f, some c => if c.l.halted then .next s else match s.mloopStep c f l with
        | .error _ => .next (s.putWarp { w with mloop := none })
        | .ok (t, v, bad) => .next (((onceEach bad).foldl (fun t b => t.matrixError w l.pc b) t).putWarp v)
      | _, _ => .next s

end Sys2Proof.Machine
end

