-- ==== Sys2Proof/Machine/Plane.lean ====
section
/-! DEFINITION. Machine/Plane.lean: the meanings of class 0x6 (05 R141 to R149). -/

namespace Sys2Proof.Machine

/-- Plane word p of the codes of the effective lanes (05 R143): bit j is bit 7 − p of q[j]. -/
def planeWord (eff : Mask) (q : Nat → Int) (p : Nat) : Word :=
  maskOf fun j => eff.getLsbD j && (q j % 256).toNat.testBit (7 - p)

/-- The eight plane words written to vd..vd+7: U under a full effective mask (05 R148). -/
def Warp.writePlanes (w : Warp) (c : Ctx) (dst : Nat) (q : Nat → Int) : Warp :=
  (List.range 8).foldl (fun w p =>
    w.writeResult (dst + p) false c.eff c.full true none fun _ => (planeWord c.eff q p).setWidth 64) w

/-- The registers of a plane group. -/
def planeRegs (n k : Nat) : List Nat := (List.range k).map (n + ·)

/-- The exponent of the block that holds position j (03 R87; 05 R143): `bits` are the elements, +0 outside S. -/
def quantExp (t : Ty) (l : Nat) (bits comp : Nat → Nat) (j : Nat) : Nat :=
  let all := List.range 32
  if l = 0 then blockExp t ((all.filter fun i => i / 16 == j / 16).map bits)
  else if l = 1 then blockExp t (all.map bits)
  else blockExp t (all.map bits ++ all.map comp)

/-- quant (05 R143, R144). OPS[89:88] is the block length, OPS[90] the external exponent. -/
def execQuant (f : FormV) (s : State) : Result :=
  let st := f.stype; let xe := f.opsAt 90 90 == 1; let l := f.opsAt 89 88
  let a := f.a false; let b := f.b false; let d := f.dst.toNat
  let two := xe || l == 2
  s.alu f.guard (a.regs ++ if two then b.regs else []) (f.marked [(0, a), (1, b)]) (planeRegs d 9) fun c =>
    let bits (r : Src) (j : Nat) : Nat := if c.eff.getLsbD j then st.bits (r.val c j) else 0
    let E (j : Nat) : Nat := if xe then (b.val c j).toNat % 256 else quantExp st l (bits a) (bits b) j
    let w := c.w.writePlanes c d fun j => planeCodeOf (E j) (decodeF st (bits a j))
    let word : Nat := if l = 0 then E 0 + E 16 * 256 else E 0
    .ok (if xe then w.writeResult (d + 8) false c.eff c.full ((Opd.src b).count c == .u) none fun i => fbits (E i)
      else w.writeResult (d + 8) false c.eff c.full true none fun _ => fbits word)

/-- The value of the first p planes of va at position i, in the lane's own copy of each plane word (05 R145). -/
def joinPlanes (c : Ctx) (n p i : Nat) : Int :=
  let q : Nat := (List.range p).foldl (fun x k => if (c.w.lane (n + k) i).getLsbD i then x + 2 ^ (7 - k) else x) 0
  if q ≥ 128 then (q : Int) - 256 else q

/-- deq (05 R145): OPS[93:91] is the plane count less 1. -/
def execDeq (f : FormV) (s : State) : Result :=
  let t := f.type; let xe := f.opsAt 90 90 == 1; let l := f.opsAt 89 88; let p := f.opsAt 93 91 + 1
  let n := f.sa.toNat; let b := f.b false
  s.alu f.guard (planeRegs n p ++ b.regs)
      ((if f.lu.getLsbD 0 then planeRegs n p else []) ++ f.marked [(1, b)]) (dstRegs f.dst.toNat t.wide) fun c =>
    .ok (c.w.writeResult f.dst.toNat t.wide c.eff c.full false none fun i =>
      let x := (b.val c i).toNat
      let E := (if !xe && l = 0 && 16 ≤ i then x / 256 else x) % 256
      let v := joinPlanes c n p i
      fbits (if E = 0 then 0 else if E = 255 then t.nan
        else encodeF t (FormV.mode f) (.num (v < 0) v.natAbs ((E : Int) - 133))))

/-- plsplit (05 R146). -/
def execPlsplit (f : FormV) (s : State) : Result :=
  let a := f.a false; let d := f.dst.toNat
  s.alu f.guard a.regs (f.marked [(0, a)]) (planeRegs d 8) fun c =>
    .ok (c.w.writePlanes c d fun j => Ty.i8.read (a.val c j))

/-- pljoin (05 R147). -/
def execPljoin (f : FormV) (s : State) : Result :=
  let p := f.opsAt 93 91 + 1; let n := f.sa.toNat
  s.alu f.guard (planeRegs n p) (if f.lu.getLsbD 0 then planeRegs n p else []) [f.dst.toNat] fun c =>
    .ok (c.w.writeResult f.dst.toNat false c.eff c.full false none fun i => Ty.i32.hold (joinPlanes c n p i))

end Sys2Proof.Machine
end

