-- ==== Sys2Proof/Machine/Copy.lean ====
section
/-! DEFINITION. Machine/Copy.lean: copies and their engines: issue, start, deliveries and end (09 R231 to R238, R241 to R247).
A copy that compresses, expands or quantises reads its source when it starts (log 25). -/

namespace Sys2Proof.Machine

/-! ### Places and checks -/

/-- An address of the lowest effective lane: a pair for .gl (09 R231, R232). -/
def Ctx.address (c : Ctx) (spc : Space) (r : Nat) : Nat :=
  if spc == .gl then (c.w.pair r c.low).toNat else (c.w.lane r c.low).toNat

/-- The registers of an address. -/
def addressRegs (spc : Space) (r : Nat) : List Nat := if spc == .gl then [r, r + 1] else [r]

/-- The lowest byte of [ea, ea+n) outside its space (08 R204 to R206; 09 Table 9-3). -/
def State.firstBad (s : State) (c : Ctx) (spc : Space) (ea n : Nat) : Option Nat :=
  if n = 0 then none
  else match spc with
    | .sh => if ea + n ≤ c.g.sharedBytes then none else some (max ea c.g.sharedBytes)
    | .co =>
      if ea / 2 ^ 24 ≠ 0 then some ea
      else match s.member? c.g (ea / 2 ^ 20 % 16) with
        | none => some ea
        | some g =>
          let o := ea % 2 ^ 20
          if o + n ≤ g.sharedBytes then none else some (ea - o + max o g.sharedBytes)
    | .ds =>
      let off := ea % 2 ^ 31; let base := ea - off
      match s.alloc? c.l c.w.die (ea ≥ 2 ^ 31) with
      | none => some ea
      | some a =>
        let past := if off + n > a.size then [max off a.size] else []
        let taken := if ea ≥ 2 ^ 31 then [] else c.l.segments.filterMap fun g =>
          if s.inOverflow { c.l with segments := [g] } c.w.die off n then some (max off g.ooff) else none
        (least (past ++ taken)).map (base + ·)
    | _ => none

/-- The .co member an address names has been killed (09 Table 9-3, order 4). -/
def State.memberGone (s : State) (c : Ctx) (spc : Space) (ea : Nat) : Option Nat :=
  if spc == .co then (match s.member? c.g (ea / 2 ^ 20 % 16) with
    | some g => if g.killed then some ea else none
    | none => none) else none

/-- The key of an address that has passed its checks. -/
def State.keyOf (s : State) (c : Ctx) (spc : Space) (ea : Nat) : Nat :=
  match spc with
  | .sh => sharedKey c.g.uid ea
  | .co => match s.member? c.g (ea / 2 ^ 20 % 16) with
    | some g => sharedKey g.uid (ea % 2 ^ 20)
    | none => 0
  | .ds => match s.alloc? c.l c.w.die (ea ≥ 2 ^ 31) with
    | some a => dieStoreKey c.w.die (a.base + ea % 2 ^ 31)
    | none => 0
  | _ => 0

/-- Where an address of a copy lies. -/
def State.placeOf (s : State) (c : Ctx) (spc : Space) (ea : Nat) : Place :=
  if spc == .gl then .virt (s.asidOf c.w) (BitVec.ofNat 64 ea) else .key (s.keyOf c spc ea)

/-- The end of the space that holds an address, as a key; no end for .gl (09 R246). -/
def State.spaceEnd (s : State) (c : Ctx) (spc : Space) (ea : Nat) : Nat :=
  match spc with
  | .sh => sharedKey c.g.uid c.g.sharedBytes
  | .co => match s.member? c.g (ea / 2 ^ 20 % 16) with
    | some g => sharedKey g.uid g.sharedBytes
    | none => 0
  | .ds => match s.alloc? c.l c.w.die (ea ≥ 2 ^ 31) with
    | some a => s.keyOf c spc ea + (((s.firstBad c spc ea (a.size + 1)).map (· - ea)).getD 0)
    | none => 0
  | _ => 2 ^ 64

/-! ### Issue -/

/-- The most bytes a .z copy of n bytes packs (09 R246). -/
def zMost (n : Nat) : Nat :=
  4256 * (n / 4096) + (if n % 4096 = 0 then 0 else roundUp (16 + 33 * (n % 4096) / 32) 32)

/-- The first violated alignment rule: the offending address or count (09 R234, R242 to R244). -/
def firstMisaligned (l : List (Nat × Nat)) : Option Nat := (l.find? fun p => p.1 % p.2 != 0).map (·.1)

/-- The operands of a copy as its instruction gives them: `dlen` bytes from `dlo` and `slen` from `slo` are the intervals of
R245 and R246, `scheck` the source bytes that check 3 examines, `cpage` says the destination lies on C pages. -/
structure CopyArgs where
  ds     : Space
  ss     : Space
  dst    : Nat
  src    : Nat
  count  : Nat
  mode   : CopyMode
  dlo    : Nat
  dlen   : Nat
  slo    : Nat
  slen   : Nat
  scheck : Nat
  cpage  : Bool
  bspace : Space
  bar    : Nat
  scale  : Nat
  deriving DecidableEq, Repr

/-- Bytes of an element of a quantising copy's source type. -/
def Ty.size (t : Ty) : Nat := t.width / 8

/-- The leaf of a .gl destination carries C as its translation stands (09 R242, R246; log 26). -/
def State.onCPage (s : State) (c : Ctx) (spc : Space) (ea : Nat) : Bool :=
  spc == .gl && ea < 2 ^ 57 && match s.lookup c.w.die (s.asidOf c.w) (BitVec.ofNat 64 ea) with
    | (_, .leaf _ _ p) => pteC p
    | _ => false

/-- The interval from the first to the last byte of a two-dimensional copy's rows, address sums mod `m` (09 R233, R234): its
lowest address and its length. -/
def rowSpan (m ea rows len stride : Nat) : Nat × Nat :=
  if rows = 0 || len = 0 then (ea, 0)
  else
    let (lo, hi) := (List.range rows).foldl (fun (x : Nat × Nat) r =>
      let a := (ea + r * stride) % m
      (min x.1 a, max x.2 a)) (ea, ea)
    (lo, hi - lo + len)

/-- The operands of cpy, or of cpy2d. -/
def State.copyArgs (s : State) (c : Ctx) (f : FormX) (two : Bool) : CopyArgs :=
  let dsp := Space.ofCode (f.opsAt 95 93); let ssp := Space.ofCode (f.opsAt 92 90)
  let dst := c.address dsp f.xa.toNat; let src := c.address ssp f.xb.toNat
  let n := (c.w.lane f.xc.toNat c.low).toNat
  let x := f.xe.toNat
  let base : CopyArgs :=
    { ds := dsp, ss := ssp, dst := dst, src := src, count := n, mode := .plain, dlo := dst, dlen := n, slo := src, slen := n,
      scheck := n, cpage := false,
      bspace := Space.ofCode (f.opsAt 85 84), bar := (c.w.lane f.xd.toNat c.low).toNat, scale := (c.w.pair x c.low).toNat }
  if two then
    let rows := n / 2 ^ 16; let len := n % 2 ^ 16
    let dstr := (c.w.lane x c.low).toNat; let sstr := (c.w.lane (x + 1) c.low).toNat
    let span (spc : Space) (ea stride : Nat) : Nat × Nat := rowSpan (if spc == .gl then 2 ^ 64 else 2 ^ 32) ea rows len stride
    let d := span dsp dst dstr; let r := span ssp src sstr
    { base with count := rows * len, mode := .rows rows len dstr sstr, dlo := d.1, dlen := d.2, slo := r.1, slen := r.2, scheck := r.2 }
  else match f.opsAt 89 87 with
    | 0 => base
    | 1 =>
      let cp := s.onCPage c dsp dst
      { base with mode := .z, cpage := cp, dlen := if cp then roundUp n 4096 else zMost n }
    | 2 => { base with mode := .x, slen := 2 * n, scheck := min n 32 }
    | _ =>
      let t := Ty.ofCode (f.opsAt 83 80)
      { base with mode := .q t, dlen := n / max 1 (Ty.size t) }

/-- Check 2 of Table 9-3. -/
def CopyArgs.misaligned (a : CopyArgs) : Option Nat :=
  firstMisaligned ((if a.ds == .gl then [] else [(a.bar, 16)]) ++ match a.mode with
    | .z => [(a.count, 32), (a.src, 32), (a.dst, if a.cpage then 4096 else 32)]
    | .x => [(a.count, 32), (a.src, 32), (a.dst, 32)]
    | .q t => [(a.count, 1024 * Ty.size t), (a.dst, 128), (a.src, Ty.size t), (a.scale, 8)]
    | _ => [])

/-- Checks 3 and 4 of Table 9-3: the cause and trap value. -/
def State.copyRange (s : State) (c : Ctx) (a : CopyArgs) : Option (Nat × DWord) :=
  let bar := a.ds != .gl
  let bad := (s.firstBad c a.ds a.dlo a.dlen).toList ++ (s.firstBad c a.ss a.slo a.scheck).toList
    ++ (if bar then (s.firstBad c a.bspace a.bar 16).toList else [])
  match least bad with
  | some v => some (9, BitVec.ofNat 64 v)
  | none =>
    let gone := s.memberGone c a.ds a.dst <|> s.memberGone c a.ss a.src <|> (if bar then s.memberGone c a.bspace a.bar else none)
    gone.map fun v => (0x15, BitVec.ofNat 64 v)

/-- A ticket register is about to be overwritten: its operation is detached, its shadow discarded (09 R238, R258). -/
def State.overwriteTicket (s : State) (uid n : Nat) : State :=
  let mine (u : Nat) (r : Option Nat) : Bool := u == uid && r == some n
  let s : State := s.discardShadows (fun x => mine x.warp x.reg) (fun c => mine c.warp c.reg && c.shd)
  { s with copies := s.copies.map (fun c => if mine c.warp c.reg then { c with reg := none } else c),
           lineOps := s.lineOps.map (fun o => if mine o.warp o.reg then { o with reg := none } else o),
           resolving := s.resolving.filter fun r => r != (uid, n) }

/-- The engine with the fewest operations in progress, ties to the lowest (09 R231). -/
def State.pickEngine (s : State) (die : Nat) : Nat :=
  let load (u : Nat) : Nat := (s.copies.filter fun c => c.die == die && c.unit == u).length
  if load 0 ≤ load 1 && load 0 ≤ load 2 then 0 else if load 1 ≤ load 2 then 1 else 2

/-- The sequence number an engine gives next, and the die after it. -/
def State.nextSeq (s : State) (die u : Nat) : Nat := ((s.die die).engines.getD u {}).seq
def State.tookSeq (s : State) (die u : Nat) : State :=
  s.modDie die fun d => { d with engines := modAt d.engines u fun e => { e with seq := (e.seq + 1) % 2 ^ 40 } }

/-- The range entry's intervals (09 R245, R246). -/
def State.copyRanges (s : State) (c : Ctx) (a : CopyArgs) (id : Nat) : List RangeEntry :=
  let d := (s.placeOf c a.ds a.dlo).start; let b := (s.placeOf c a.ss a.slo).start
  let slen := if a.ss != .gl && a.mode == .x then min a.slen (s.spaceEnd c a.ss a.src - b) else a.slen
  [{ op := id, space := a.ds, write := true, first := d, last := d + a.dlen - 1 },
   { op := id, space := a.ss, write := false, first := b, last := b + slen - 1 }]

/-- The registers a copy reads (09 R232, R233). -/
def FormX.copyRegs (f : FormX) (two : Bool) : List Nat :=
  addressRegs (Space.ofCode (f.opsAt 95 93)) f.xa.toNat ++ addressRegs (Space.ofCode (f.opsAt 92 90)) f.xb.toNat
    ++ [f.xc.toNat] ++ (if f.opsAt 95 93 = 3 then [] else [f.xd.toNat])
    ++ (if two || f.opsAt 89 87 = 3 then [f.xe.toNat, f.xe.toNat + 1] else [])

/-- The registers its last-use marks name. -/
def FormX.copyMarks (f : FormX) (two : Bool) : List Nat :=
  let n (r : List Nat) : Nat := r.length
  FormX.marked f [(0, f.xa.toNat, n (addressRegs (Space.ofCode (f.opsAt 95 93)) f.xa.toNat)),
    (1, f.xb.toNat, n (addressRegs (Space.ofCode (f.opsAt 92 90)) f.xb.toNat)), (2, f.xc.toNat, 1),
    (3, f.xd.toNat, if f.opsAt 95 93 = 3 then 0 else 1), (4, f.xe.toNat, if two || f.opsAt 89 87 = 3 then 2 else 0)]

/-- A copy that has passed its checks is issued: a count of 0 ends DONE at once (09 R231, R232). -/
def State.sendCopy (s : State) (c : Ctx) (f : FormX) (two : Bool) (a : CopyArgs) : State :=
  let die := c.w.die; let tk := f.dst.toNat; let uid := c.w.uid
  let t := s.overwriteTicket uid tk
  let u := t.pickEngine die; let seq := t.nextSeq die u
  let t := t.tookSeq die u
  let marks := FormX.copyMarks f two
  let cp : Copy :=
    { id := t.fresh, die := die, unit := u, seq := seq, warp := uid, wg := c.w.wg, launch := c.w.launch, node := c.l.node,
      asid := t.asidOf c.w, lanes := c.eff, reg := some tk, dspace := a.ds, sspace := a.ss, dst := t.placeOf c a.ds a.dst,
      src := t.placeOf c a.ss a.src, srcEnd := t.spaceEnd c a.ss a.src, count := a.count, mode := a.mode,
      shd := f.opsAt 86 86 == 1, barrier := if a.ds == .gl then none else some (t.keyOf c a.bspace a.bar),
      bspace := a.bspace,
      scale := BitVec.ofNat 64 a.scale, clock := c.w.clock,
      past := c.w.pastOf c.eff t.fresh }
  if a.count = 0 then
    let w := (c.w.setTicket tk (ticketVal 0 0 1 die u seq)).kill c.full marks []
    let t := t.keepEnd { kind := 1, die := die, unit := u, seq := seq, state := 0, reason := 0, stamp := c.w.clock,
                         past := cp.past }
    let w := { w with endPasts := tset w.endPasts tk cp.past }
    let t := t.opEnded c.w.launch c.w.clock cp.past
    let t : State := if cp.shd then { t with shadows := t.shadows ++
        [{ copy := cp.id, die := die, unit := u, seq := seq, warp := uid, wg := cp.wg, node := cp.node, asid := cp.asid,
           reg := some tk, pages := [] }] } else t
    { t with fresh := t.fresh + 1 }.finish c w
  else
    let w := (c.w.setTicket tk (ticketVal 1 0 1 die u seq)).kill c.full marks []
    let w := { w with ranges := w.ranges ++ t.copyRanges c a cp.id }
    { t with copies := t.copies ++ [cp], fresh := t.fresh + 1 }.finish c w

/-- The checks of Table 9-3, in order. -/
def State.copyFault (s : State) (c : Ctx) (f : FormX) (two : Bool) : Option (Nat × DWord) :=
  let a := s.copyArgs c f two
  ((c.deadRead (FormX.copyRegs f two)).map fun r => (6, BitVec.ofNat 64 r))
    <|> (a.misaligned.map fun v => (8, BitVec.ofNat 64 v)) <|> s.copyRange c a

/-- Why a copy past its checks waits at issue: no free range entry (09 R245), or an acquire in flight (08 R211). -/
def State.copyWaits (s : State) (c : Ctx) (f : FormX) (two : Bool) : Option Nat :=
  if (s.copyArgs c f two).count != 0 && ((c.w.ranges.map (·.op)).eraseDups).length ≥ 8 then some 27
  else if s.pendingAcquire c.w.uid c.eff then some 4 else none

/-- cpy and cpy2d: the checks, the wait for a range entry (09 R234, R245). -/
def State.issueCopy (s : State) (f : FormX) (two : Bool) : Result :=
  match s.ctx? f.guard with
  | none => .next s
  | some c =>
    if c.eff = 0 then .next (s.finish c c.w)
    else match s.copyFault c f two with
      | some (cause, v) => .next (s.trapHere c cause v)
      | none =>
        if (s.copyWaits c f two).isSome then .next s.wait else .next (s.sendCopy c f two (s.copyArgs c f two))

/-- cpy (09 R232). -/
def execCpy (f : FormX) (s : State) : Result := s.issueCopy f false
/-- cpy2d (09 R233). -/
def execCpy2d (f : FormX) (s : State) : Result := s.issueCopy f true

/-! ### What an engine's step comes to -/

/-- An engine's access: done, a translation fault to wait for, a fatal fault, poison, or words still to come through a window
(09 R236; 20 R419). -/
inductive EngineOut (α : Type) where
  | ok (s : State) (a : α)
  | fault (s : State) (va : DWord) (rec : BitVec 128)
  | denied (s : State)
  | poison (s : State) (pa : Nat)
  | window (s : State) (granules : List (Nat × DWord))

/-- Its result used by what comes next. -/
def EngineOut.bind {α β : Type} (o : EngineOut α) (k : State → α → EngineOut β) : EngineOut β :=
  match o with
  | .ok s a => k s a
  | .fault s va r => .fault s va r
  | .denied s => .denied s
  | .poison s p => .poison s p
  | .window s g => .window s g

/-- The 16-byte granules of [k, k+n). -/
def granulesOf (k n : Nat) : List Nat := (List.range ((k + n - 1) / 16 - k / 16 + 1)).map fun i => (k / 16 + i) * 16

/-- The answered part of a copy's window reads for a granule. -/
def State.granule? (s : State) (op g : Nat) : Option LaneAcc :=
  s.accesses.findSome? fun a => if a.op == .copyRead op then a.lanes.find? fun x => x.pa == g && x.done else none

/-- Bytes of a window at a virtual address: present once their granules have been answered. -/
def State.windowBytes (s : State) (op k n : Nat) (va : DWord) : EngineOut (List Byte) :=
  let gs := granulesOf k n
  let missing := gs.filter fun g => (s.granule? op g).isNone
  if !missing.isEmpty then .window s (missing.map fun g => (g, BitVec.ofNat 64 (va.toNat + g - k)))
  else match gs.find? fun g => ((s.granule? op g).bind (·.bad)).isSome with
  | some g => .poison s (g / 32 * 32)
  | none => .ok s ((List.range n).map fun i =>
    let g := (k + i) / 16 * 16
    BitVec.ofNat 8 (((s.granule? op g).map (·.old)).getD 0 / 256 ^ ((k + i) % 16)))

/-- The slices of [pa, pa+n) follow the clock of a read at .dev (16 R355). -/
def State.raiseSlices (s : State) (pa n : Nat) (k : Stamp) : State :=
  (List.range ((pa + n - 1) / 256 - pa / 256 + 1)).foldl (fun s i => (s.readStamp ((pa / 256 + i) * 256) k).1) s

/-- The fault record of an engine: its ORIGIN is its index (13 Table 13-6). -/
def Copy.record (c : Copy) (va : DWord) (kind level reason : Nat) : BitVec 128 :=
  faultRecord va c.asid kind level reason c.die c.unit

/-- `n` bytes of virtual addresses read as relaxed loads at .dev, a page at a time (09 R235; 13 R305); `kind` names the reader in
a fault record. -/
def State.readVirt (c : Copy) (kind : Nat) : Nat → State → Nat → Nat → EngineOut (List Byte)
  | 0, s, _, _ => .ok s []
  | f + 1, s, va, n =>
    if n = 0 then .ok s []
    else
      let m := min n (4096 - va % 4096)
      let v : DWord := BitVec.ofNat 64 va
      match s.xlate c.die c.asid v .read with
      | (s, .fault l r) => .fault s v (c.record v kind l r)
      | (s, .denied) => .denied s
      | (s, .ok pa pte) =>
        let s := s.touch c.die c.asid v false (s.engineWriter c.id)
        let here : EngineOut (List Byte) :=
          if inWindow pa then s.windowBytes c.id pa m v
          else match s.readThrough pa pte m with
            | .error p => .poison s p
            | .ok bs => .ok (s.raiseSlices pa m c.clock) bs
        here.bind fun s bs => (State.readVirt c kind f s (va + m) (n - m)).bind fun s r => .ok s (bs ++ r)

/-- `n` bytes from a number of the source's place. -/
def State.readSource (s : State) (c : Copy) (a n : Nat) : EngineOut (List Byte) :=
  match c.src with
  | .key _ => match s.poisonAt a n with
    | some p => .poison s p
    | none => .ok s (s.read a n)
  | .virt _ _ => State.readVirt c 3 (n / 4096 + 2) s (a % 2 ^ 64) n

/-! ### Sectors -/

/-- Row r of a two-dimensional copy starts at base + r × stride; virtual sums are mod 2^64, others mod 2^32 (09 R233). -/
def rowAt (p : Place) (r stride : Nat) : Nat :=
  match p with
  | .key k =>
    let m := if k ≥ 2 ^ 60 then 2 ^ 20 else 2 ^ 26
    k - k % m + (k % m + r * stride) % 2 ^ 32
  | .virt _ va => (va.toNat + r * stride) % 2 ^ 64

/-- The source number of a destination byte; the highest row that writes it (09 R233). -/
def Copy.sourceOf (c : Copy) (d : Nat) : Option Nat :=
  match c.mode with
  | .rows n len ds ss => (List.range n).reverse.findSome? fun r =>
      let lo := rowAt c.dst r ds
      if lo ≤ d && d < lo + len then some (rowAt c.src r ss + (d - lo)) else none
  | _ => if c.dst.start ≤ d && d < c.dst.start + c.count then some (c.src.start + (d - c.dst.start)) else none

/-- Sectors of [a, a+n). -/
def sectorsOf (a n : Nat) : List Nat := if n = 0 then [] else (List.range ((a + n - 1) / 32 - a / 32 + 1)).map (· + a / 32)

/-- The copy's bytes were computed when it started. -/
def CopyMode.staged : CopyMode → Bool
  | .z | .x | .q _ => true
  | _ => false

/-- The destination ranges a copy writes (09 R233, R237). -/
def Copy.targets (c : Copy) : List (Nat × Nat) :=
  match c.mode with
  | .rows n len ds _ => (List.range n).map fun r => (rowAt c.dst r ds, len)
  | m => [(c.dst.start, if m.staged then c.writes.length else c.count)]

/-- The destination sectors a copy touches. -/
def Copy.sectors (c : Copy) : List Nat := (c.targets.flatMap fun p => sectorsOf p.1 p.2).eraseDups

/-- The destination bytes of a sector with where each comes from. -/
def Copy.bytesOf (c : Copy) (sec : Nat) : List (Nat × Nat) :=
  (List.range 32).filterMap fun i => (c.sourceOf (sec * 32 + i)).map fun b => (sec * 32 + i, b)

/-- Maximal runs of bytes whose destinations and sources both rise by one: destination, source, length. -/
def sourceRuns : List (Nat × Nat) → List (Nat × Nat × Nat)
  | [] => []
  | (d, a) :: r => match sourceRuns r with
    | (e, b, n) :: q => if e = d + 1 && b = a + 1 then (d, a, n + 1) :: q else (d, a, 1) :: (e, b, n) :: q
    | [] => [(d, a, 1)]

/-- The bytes a sector receives: those computed at the start, or read now. -/
def State.sectorData (s : State) (c : Copy) (sec : Nat) : EngineOut (List (Nat × Byte)) :=
  if c.mode.staged then
    .ok s ((List.range 32).filterMap fun i =>
      let d := sec * 32 + i
      if d < c.dst.start then none else (c.writes[d - c.dst.start]?).map fun b => (d, b))
  else (sourceRuns (c.bytesOf sec)).foldl (fun (out : EngineOut (List (Nat × Byte))) p =>
    out.bind fun s acc => (s.readSource c p.2.1 p.2.2).bind fun s bs =>
      .ok s (acc ++ bs.zipIdx.map fun b => (p.1 + b.2, b.1))) (.ok s [])

/-- Bytes that an operation writes within one sector of homes 0 to 7 as one store (09 R235): poison stays unless all 32 are
written. The bytes it leaves alone are no bytes of its write (08 R211). -/
def State.performSector (s : State) (op base : Nat) (bs : List (Nat × Byte)) (k : Stamp) : State × Stamp :=
  let new := (List.range 32).map fun i => (tget (bs.map fun p => (p.1 % 32, some p.2)) i none).getD (Memory.get s.mem (base + i))
  let bad := s.poisoned.contains (base / 32) && bs.length < 32
  let (t, st) := s.performWrite base new k
  let t := t.signed (s.engineWriter op) base (((List.range 32).filter fun i => !bs.any fun p => p.1 % 32 == i).map (base + ·))
  ((if bad then { t with poisoned := t.poisoned ++ [base / 32] } else t).noticeWrite base 32, st)

/-- Accesses through a window on behalf of an operation go to the host or the peer: a release side of the writes, if they
belong to one, by what lies before it (20 R419, R420). -/
def State.windowOp (s : State) (c : Copy) (op : AccOp) (n : Nat) (release : Option Past) (parts : List (Nat × DWord × List Byte)) : State :=
  let rel := release.toList.map (Scope.sys, ·)
  let lanes := parts.zipIdx.map fun p => ({ lane := p.2, va := p.1.2.1, pa := p.1.1, data := leNat p.1.2.2, rel := rel } : LaneAcc)
  s.launchAccess
    { id := s.fresh, warp := 0, launch := c.launch, node := c.node, asid := c.asid, die := c.die, core := 0, pc := 0,
      op := op, n := n, sx := false, ord := .rlx, scope := .sys, clock := c.clock, eff := 0, full := false, uniform := false,
      dst := 0, dst2 := 0, lanes := lanes, since := s.tick }

/-- A copy's accesses through a window. -/
def State.windowCopy (s : State) (c : Copy) (write : Bool) (parts : List (Nat × DWord × List Byte)) : State :=
  if write then s.windowOp c (.copyWrite c.id) (parts.headD (0, 0, [])).2.2.length none parts
  else s.windowOp c (.copyRead c.id) 16 none parts

/-- Maximal runs of rising addresses. -/
def byteRuns : List (Nat × Byte) → List (Nat × List Byte)
  | [] => []
  | (a, b) :: r => match byteRuns r with
    | (x, bs) :: q => if x = a + 1 then (a, b :: bs) :: q else (a, [b]) :: (x, bs) :: q
    | [] => [(a, [b])]

/-- A sector written at its destination: the stamp it received (09 R235, R237; 19 R403). -/
def State.writeSector (s : State) (c : Copy) (bs : List (Nat × Byte)) : EngineOut Stamp :=
  let first := (bs.headD (0, 0)).1
  match c.dst with
  | .key _ => .ok ((s.storeKeys (s.engineWriter c.id) (bs.map (·.1)) (bs.map (·.2))).seenBy c.warp c.id first) 0
  | .virt _ _ =>
    if c.shd then
      match c.shadows.find? fun p => p.va.toNat ≤ first && first < p.va.toNat + p.size with
      | none => .ok s 0
      | some p =>
        let (t, st) := s.performSector c.id ((p.new + (first - p.va.toNat)) / 32 * 32) bs c.clock
        .ok t st
    else
      let v : DWord := BitVec.ofNat 64 first
      match s.xlate c.die c.asid v .copyWrite with
      | (s, .fault l r) => .fault s v (c.record v 4 l r)
      | (s, .denied) => .denied s
      | (s, .ok pa pte) =>
        if pteC pte then .denied s
        else
          let s := s.touch c.die c.asid v true (s.engineWriter c.id)
          if inWindow pa then
            .ok ((byteRuns bs).foldl (fun s r => s.windowCopy c true [(pa + (r.1 - first), BitVec.ofNat 64 r.1, r.2)]) s) 0
          else if s.gone pa then .ok s 0
          else
            let (t, st) := s.performSector c.id (pa / 32 * 32) bs c.clock
            .ok (t.seenBy c.warp c.id pa) st

/-! ### Credits -/

/-- An arrival barrier's fields (09 Table 9-6). -/
structure ABar where
  ebyte   : Nat
  abyte   : Nat
  ethr    : Nat
  athr    : Nat
  phase   : Bool
  overrun : Bool
  deriving DecidableEq, Repr

/-- The barrier at a key. -/
def State.abar (s : State) (k : Nat) : ABar :=
  let w (i : Nat) : Nat := s.readNat (k + 4 * i) 4
  { ebyte := w 0, abyte := w 1, ethr := w 2 % 2 ^ 16, athr := w 2 / 2 ^ 16, phase := (w 3).testBit 0, overrun := (w 3).testBit 1 }

/-- An operation of `who` writes it back, its reserved bits zero, with the release sides `ys` (08 R211; 09 R248, R249). -/
def State.putAbar (s : State) (who : Party) (k : Nat) (b : ABar) (ys : List Sync) : State :=
  s.storeKeys { who := some who, number := s.fresh, syncs := ys, acked := true } ((List.range 16).map (k + ·))
    (leBytes 4 b.ebyte ++ leBytes 4 b.abyte ++ leBytes 2 b.ethr ++ leBytes 2 b.athr
    ++ leBytes 4 ((if b.phase then 1 else 0) + (if b.overrun then 2 else 0)))

/-- The evaluation of R249 with the operation's sums applied exactly. -/
def ABar.add (b : ABar) (exp bytes thr : Nat) : ABar :=
  let x := { b with ebyte := b.ebyte + exp, abyte := b.abyte + bytes, athr := b.athr + thr }
  if x.ebyte ≥ 2 ^ 32 || x.abyte ≥ 2 ^ 32 || x.athr ≥ 2 ^ 16 || x.athr > x.ethr || (x.athr == x.ethr && x.abyte > x.ebyte) then
    { b with overrun := true }
  else if x.athr = x.ethr && x.abyte = x.ebyte then { x with phase := !x.phase, athr := 0, abyte := 0, ebyte := 0 }
  else x

/-- The scope of a barrier in a space (09 R253). -/
def abScope (spc : Space) : Scope :=
  match spc with
  | .sh => .wg
  | .co => .clu
  | _ => .die

/-- An engine's credits stand where their barrier does, for the barrier's scope. -/
def State.creditParty (s : State) (spc : Space) (k : Nat) : Party :=
  match s.wg? ((k - 2 ^ 60) / 2 ^ 20) with
  | some g => { thread := 2 ^ 128 + k, warp := 0, wg := g.uid, die := g.die, core := g.core, scope := abScope spc }
  | none => { thread := 2 ^ 128 + k, warp := 0, wg := 0, die := (k - 2 ^ 52) / 2 ^ 26, core := 0, scope := .die }
/-- Credits of a phase that has not flipped yet reach no thread: they come before the flip, and only so before those that observe
it (R253). -/
def Party.counted (p : Party) : Party := { p with scope := .reserved }

/-- The release sides of a barrier's bytes after its phase has flipped: the credits counted reach the threads of its scope (09
R253). -/
def State.flipped (s : State) (spc : Space) (k : Nat) (ys : List Sync) : List Sync :=
  let p := s.creditParty spc k
  ys.foldl (fun zs y => hearIn zs (if y.who = p.counted then { y with who := p } else y)) []

/-- Splits that wait for a flip have seen one: it stays seen, though the phase may flip again before they return (09 R252). -/
def State.latchFlip (s : State) (k : Nat) (was : Bool) (ys : List Sync) : State :=
  { s with warps := s.warps.map fun w => { w with entries := w.entries.map fun x => match x.st, x.wait with
      | .block, .phase key a sp ph eff marks none =>
        if key = k && ph = was then { x with wait := .phase key a sp ph eff marks (some ys) } else x
      | _, _ => x } }

/-- The bank counts an arrival, an expectation or a credit in one atomic step: it carries on the release sides of what it reads
with its own, and may flip the phase (08 R211; 09 R249, R253). -/
def State.countAbar (s : State) (who : Party) (spc : Space) (k exp bytes thr : Nat) (own : Sync) : State :=
  let b := s.abar k; let b' := b.add exp bytes thr
  let ys := mergeSyncs (s.carried k 16) [own]
  if b'.phase = b.phase then s.putAbar who k b' ys
  else (s.putAbar who k b' (s.flipped spc k ys)).latchFlip k b.phase (s.flipped spc k ys)

/-- A credit of `n` bytes by the operation `op`, which carries its clock (09 R249, R253; 16 R356); `p` is what lies before it. -/
def State.credit (s : State) (op : Nat) (spc : Space) (barrier : Option Nat) (n : Nat) (clock : Stamp) (p : Past) : State :=
  match barrier with
  | none => s
  | some k => (s.countAbar (engineParty op) spc k 0 n 0 ⟨(s.creditParty spc k).counted, clock, p⟩).raiseSpace k clock

/-! ### The end of a copy -/

/-- Window reads of a copy that are no longer wanted. -/
def State.dropWindow (s : State) (op : Nat) : State :=
  { s with accesses := s.accesses.filter fun a => a.op != .copyRead op }

/-- A copy ends: its barrier's overrun flag, its shadow kept or discarded, its range entry, its ticket, its end record and its
launch's end stamp (09 R235 to R238, R245, R256; 16 R357). -/
def State.endCopy (s : State) (c : Copy) (st reason detail : Nat) : State :=
  let stamp := max c.clock c.endStamp
  let s : State := (if st = 0 then s else s.overrun c.barrier).dropWindow c.id
  let keep := st == 0 && c.shd && c.reg.isSome
  let s : State := if keep then
      { s with shadows := s.shadows ++ [{ copy := c.id, die := c.die, unit := c.unit, seq := c.seq, warp := c.warp, wg := c.wg,
                                          node := c.node, asid := c.asid, reg := c.reg, pages := c.shadows }] }
    else s.discardShadows (fun _ => false) (fun x => x.id == c.id)
  let s : State := { s with copies := s.copies.filter fun x => x.id != c.id }
  let p := s.opPast c.past c.id
  ((s.opEnded c.launch stamp p).freeRange c.id).endTicket
    { kind := 1, die := c.die, unit := c.unit, seq := c.seq, state := st, reason := reason, detail := detail, stamp := stamp, past := p }

/-- Deliveries stop; the copy will end FAILED (09 R236). -/
def Copy.fail (c : Copy) (reason : Nat) : Copy :=
  { c with started := true, ending := 2, reason := reason, detail := 0, pending := [] }

/-- What an engine's access came to, `k` using its result. -/
def State.engineDo {α : Type} (s : State) (c : Copy) (o : EngineOut α) (k : State → α → State) : State :=
  match o with
  | .ok t a => k t a
  | .fault t va r => (t.reportWalk r).putCopy { c with stall := some (c.asid, BitVec.ofNat 64 (va.toNat / 4096 * 4096)) }
  | .denied t => t.putCopy (c.fail 6)
  | .poison t p => (t.poisonLog p c.node).putCopy (c.fail 5)
  | .window t g => if s.accesses.any fun a => a.op == .copyRead c.id && a.lanes.any (!·.done) then s
    else t.windowCopy c false (g.map fun x => (x.1, x.2, []))

/-! ### Start -/

/-- The chunks of an expanding copy's source, one after another, until `due` bytes have been expanded: the bytes, and the
failure that ends them with its chunk's index (09 R243, R246). -/
def State.expandFrom (c : Copy) : Nat → State → Nat → Nat → Nat → List Byte → EngineOut (List Byte × Nat × Nat × Nat)
  | 0, s, _, _, _, acc => .ok s (acc, 0, 0, 0)
  | f + 1, s, a, due, i, acc =>
    if due = 0 then .ok s (acc, 0, 0, 0)
    else
      let bad (s : State) (reason : Nat) : EngineOut (List Byte × Nat × Nat × Nat) := .ok s (acc, 2, reason, i)
      let cut (o : EngineOut (List Byte)) (k : State → List Byte → EngineOut (List Byte × Nat × Nat × Nat)) :=
        match o with
        | .poison s p => .ok (s.poisonLog p c.node) (acc, 2, 5, 0)
        | .denied s => .ok s (acc, 2, 6, 0)
        | o => o.bind k
      if a + 16 > c.srcEnd then bad s 3
      else cut (s.readSource c a 16) fun s h =>
        let body := leNat ((h.drop 8).take 4); let len := leNat (h.take 4)
        let sane := body ≤ 33 * (len / 32) && len ≤ 4096
        if sane && a + 16 + body > c.srcEnd then bad s 3
        else cut (s.readSource c (a + 16) (if sane then body else 0)) fun s b =>
          match decodeChunk (h ++ b) due with
          | .error .malformed => bad s 3
          | .error .length => bad s 1
          | .error .checksum => bad s 2
          | .ok (out, size) => State.expandFrom c f s (a + roundUp size 32) (due - out.length) (i + 1) (acc ++ out)

/-- The element of a quantising copy's source at an index. -/
def elementAt (t : Ty) (bs : List Byte) (i : Nat) : Nat := leNat ((bs.drop (i * Ty.size t)).take (Ty.size t))

/-- Tile `k` as its eight planes of 32 lines (03 R83; 09 R244). -/
def planeTile (t : Ty) (E : Nat) (bs : List Byte) (k : Nat) : List Byte :=
  let code (l i : Nat) : Nat := (planeCodeOf E (decodeF t (elementAt t bs ((32 * k + l) * 32 + i))) % 256).toNat
  (List.range 8).flatMap fun p => (List.range 32).flatMap fun l =>
    leBytes 4 (maskOf fun i => (code l i).testBit (7 - p)).toNat

/-- The operand of the exponent fold (09 R244). -/
def foldExp (t : Ty) (bs : List Byte) : Nat :=
  (List.range (bs.length / max 1 (Ty.size t))).foldl (fun a i => match decodeF t (elementAt t bs i) with
    | .num _ m e => if m = 0 then a else max a (min 254 (max 1 (floorLog2 m e + 127).toNat))
    | _ => a) 0

/-- What a copy's mode computes at its start. -/
def State.stage (s : State) (c : Copy) : EngineOut Copy :=
  match c.mode with
  | .z => (s.readSource c c.src.start c.count).bind fun s bs =>
      let out := encodeChunks (bs.length / 4096 + 1) bs
      .ok s { c with writes := out, detail := min (ceilDiv out.length 32) 0xFFFFFF }
  | .x => (State.expandFrom c (c.count / 32 + 1) s c.src.start c.count 0 []).bind fun s r =>
      .ok s { c with writes := r.1, ending := r.2.1, reason := r.2.2.1, detail := r.2.2.2 }
  | .q t => (State.readVirt c 3 2 s c.scale.toNat 4).bind fun s e => (s.readSource c c.src.start c.count).bind fun s bs =>
      let tiles := c.count / (1024 * max 1 (Ty.size t))
      .ok s { c with writes := (List.range tiles).flatMap (planeTile t (leNat e % 256) bs), fold := foldExp t bs }
  | _ => .ok s c

/-- A physical page of a home for a shadow: the highest below the spill frames that is not taken (log 12). -/
def State.findPage (s : State) (home size : Nat) : Nat → Nat → Option Nat
  | 0, _ => none
  | f + 1, b =>
    if b < size then none
    else
      let base := homeKey home ((b - size) / size * size)
      match s.poolTaken.find? fun p => p.1 < base + size && base < p.1 + p.2 with
      | none => some base
      | some p => if offsetOf p.1 < b then s.findPage home size f (offsetOf p.1) else none

/-- The contents of [old, old+n) copied to `new`, poison with them. -/
def State.copyPage (s : State) (old new n : Nat) : State :=
  let bs := s.mem.filter fun p => old ≤ p.1 && p.1 < old + n
  { s with mem := bs.foldl (fun m p => Memory.set m (new + (p.1 - old)) p.2) (Memory.wipe s.mem new (new + n)),
           poisoned := (s.poisoned.filter fun q => q * 32 + 32 ≤ new || new + n ≤ q * 32)
             ++ (s.poisoned.filter fun q => old ≤ q * 32 && q * 32 < old + n).map fun q => (new + (q * 32 - old)) / 32 }

/-- Shadow pages of a node and its descendants, in 4 KiB pages: held, or charged by mapping history (09 R237; 14 R324; 16
R366). -/
def State.shadowUse (s : State) (n : Nat) : Nat :=
  let pages (l : List ShadowPage) : Nat := l.foldl (fun a p => a + p.size / 4096) 0
  (s.shadows.filter fun x => s.under x.node n).foldl (fun a x => a + pages x.pages) 0
  + (s.copies.filter fun x => s.under x.node n).foldl (fun a x => a + pages x.shadows) 0
  + (s.mapHistory.filter fun r => s.under r.node n).foldl (fun a r => a + r.size / 4096) 0

/-- Another shadowed copy of the region holds a page of [lo, hi) (09 R238). -/
def State.shadowClash (s : State) (c : Copy) (lo hi : Nat) : Bool :=
  let hit (asid : Nat) (ps : List ShadowPage) : Bool :=
    asid == c.asid && ps.any fun p => p.va.toNat < hi && lo < p.va.toNat + p.size
  s.shadows.any (fun x => x.node == c.node && hit x.asid x.pages)
  || s.copies.any fun x => x.id != c.id && x.node == c.node && hit x.asid x.shadows

/-- The shadow of the page that holds a virtual address (09 R237, R238; 20 R419). -/
def State.shadowPage (s : State) (c : Copy) (v : DWord) : EngineOut ShadowPage :=
  match s.xlate c.die c.asid v .copyWrite with
  | (s, .fault l r) => .fault s v (c.record v 4 l r)
  | (s, .denied) => .denied s
  | (s, .ok pa pte) =>
    let level := match (s.lookup c.die c.asid v).2 with
      | .leaf l _ _ => l
      | .fault l _ => l
    let size := pageSize level
    let va : DWord := BitVec.ofNat 64 (v.toNat / size * size)
    if inWindow pa || (pteC pte && c.mode != .z) || s.shadowClash c va.toNat (va.toNat + size)
        || !s.fits c.node (s.shadowUse ·) s.effShadow (size / 4096) then .denied s
    else
      let alloc := if pteC pte then 8192 else size
      match s.findPage (homeOf pa) alloc (s.poolTaken.length + 1) s.frames with
      | none => .denied s
      | some b =>
        let t := s.touch c.die c.asid v true (s.engineWriter c.id)
        let t := t.copyPage (pteAddr pte) b (if pteC pte then pteClen pte * 256 else size)
        .ok { t with poolTaken := t.poolTaken ++ [(b, alloc)] }
          { va := va, size := size, old := pteAddr pte, new := b, clen := pteClen pte }

/-- Shadows for the pages of [va, va+n) that have none yet. -/
def State.shadowRange : Nat → State → Copy → Nat → Nat → EngineOut Copy
  | 0, s, c, _, _ => .ok s c
  | f + 1, s, c, va, n =>
    if n = 0 then .ok s c
    else match c.shadows.find? fun p => p.va.toNat ≤ va && va < p.va.toNat + p.size with
      | some p => State.shadowRange f s c (p.va.toNat + p.size) (n - min n (p.va.toNat + p.size - va))
      | none => (s.shadowPage c (BitVec.ofNat 64 va)).bind fun s p =>
          let c' := { c with shadows := c.shadows ++ [p] }
          State.shadowRange f (s.putCopy c') c' (p.va.toNat + p.size) (n - min n (p.va.toNat + p.size - va))

/-- A compressing copy's chunks delivered to the shadow backings of C pages, one each (09 R242): each 32-byte sector is a write
with a stamp (16 R352, R357). -/
def State.backChunks (s : State) (c : Copy) (chunks : List (List Byte)) : State × Copy :=
  let pages := c.shadows.zipIdx.map fun p =>
    let k := ((chunks[p.2]?).getD [])
    ({ p.1 with clen := ceilDiv k.length 256 }, k ++ List.replicate (roundUp k.length 256 - k.length) (0 : Byte))
  let (t, st) := pages.foldl (fun (acc : State × Stamp) p =>
    let (t, st) := acc.1.performBytes c.clock (p.2.length / 32 + 1) p.1.new p.2
    (t.signedAll (s.engineWriter c.id) p.1.new p.2.length, max acc.2 st)) (s, c.endStamp)
  (t, { c with shadows := pages.map (·.1), writes := [], endStamp := st })

/-- The chunks of a source, unpadded (09 R242). -/
def cutChunks : Nat → List Byte → List (List Byte)
  | 0, _ => []
  | _ + 1, [] => []
  | f + 1, bs => encodeChunk (bs.take 4096) :: cutChunks f (bs.drop 4096)

/-- The shadow of a copy at its start (09 R237, R238, R242): a page that is not as the first one, C or not, is a fatal fault
(log 26). -/
def State.shadowStart (s : State) (c : Copy) : EngineOut Copy :=
  let v : DWord := BitVec.ofNat 64 c.dst.start
  let cpage (s : State) (va : DWord) : Bool := match (s.lookup c.die c.asid va).2 with
    | .leaf _ _ p => pteC p
    | .fault _ _ => false
  if c.reg.isNone then .ok s c
  else if c.mode == .z && cpage s v then
    (s.readSource c c.src.start c.count).bind fun s bs =>
      let chunks := cutChunks (bs.length / 4096 + 1) bs
      (State.shadowRange (chunks.length + 1) s c c.dst.start (4096 * chunks.length)).bind fun s c =>
        if c.shadows.any fun p => !cpage s p.va then .denied s
        else
          let (t, c) := s.backChunks c chunks
          .ok t { c with detail := min (chunks.foldl (fun a k => a + ceilDiv k.length 32) 0) 0xFFFFFF }
  else
    (c.targets.foldl (fun (o : EngineOut Copy) p =>
      o.bind fun s c => State.shadowRange (p.2 / 4096 + 2) s c p.1 p.2) (.ok s c)).bind fun s c =>
        if c.shadows.any fun p => cpage s p.va then .denied s else .ok s c

/-- Earlier stores, atomics and reductions of the issuing lanes are acknowledged (09 R234). -/
def State.acknowledged (s : State) (warp id : Nat) (m : Mask) : Bool :=
  !s.accesses.any fun a => a.warp == warp && a.id < id && !a.op.reads && a.lanes.any fun x => m.getLsbD x.lane

/-- The engine takes this copy next: fewer than 16 run, and none issued before it is ready (09 R231). -/
def State.engineTakes (s : State) (c : Copy) : Bool :=
  let same := s.copies.filter fun x => x.die == c.die && x.unit == c.unit
  (same.filter (·.started)).length < 16
  && !same.any fun x => x.id < c.id && !x.started && x.ending == 0 && s.acknowledged x.warp x.id x.lanes

/-- A copy's shadow pages taken back when its start comes to nothing. -/
def State.undoShadows (s : State) (c : Copy) (o : EngineOut Copy) : EngineOut Copy :=
  let back (t : State) : State := { t with poolTaken := s.poolTaken, copies := s.copies }
  match o with
  | .ok t c => .ok t c
  | .fault t va r => .fault (back t) va r
  | .denied t => .denied (back t)
  | .poison t p => .poison (back t) p
  | .window t g => if c.shadows.isEmpty then .window (back t) g else .window t g

/-- COPY_ENGINE_START (09 R234, R237, R241 to R244). -/
def execEvCopyEngineStart (op : Nat) (s : State) : Result :=
  match s.copy? op with
  | none => .next s
  | some c =>
    if c.started || c.ending ≠ 0 || c.cancel || c.stall.isSome || !s.acknowledged c.warp c.id c.lanes || !s.engineTakes c then
      .next s
    else
      let c := { c with clock := max c.clock (((s.warp? c.warp).map (·.clock)).getD 0) }
      let out := (s.stage c).bind fun t d => if d.shd then t.shadowStart d else .ok t d
      .next (State.stabilise (s.engineDo c (s.undoShadows c out) fun t d =>
        (t.dropWindow op).putCopy { d with started := true, pending := if d.shd && d.shadows.any (·.clen != 0) then [] else d.sectors }))

/-! ### Deliveries -/

/-- A copy can move a sector now. -/
def State.copyReady (s : State) (c : Copy) : Bool :=
  c.started && !c.pending.isEmpty && c.stall.isNone
  && !s.accesses.any fun a => a.op == .copyRead c.id && a.lanes.any (!·.done)

/-- The region whose turn it is on an engine and the sectors left to it; then the operation whose sector is next: within a turn
the region's operations take one sector each, in ascending SEQ (14 Table 14-4, CSHARE). -/
def State.engineTurn (s : State) (die u : Nat) : Option (Nat × Nat × Nat) :=
  let e := (s.die die).engines.getD u {}
  let ready := s.copies.filter fun c => c.die == die && c.unit == u && s.copyReady c
  let nodes := ready.map (·.node)
  let pick (n left : Nat) (last : Option Nat) : Option (Nat × Nat × Nat) :=
    let mine := ready.filter (·.node == n)
    let after := mine.filter fun c => (last.map fun x => decide (x < c.seq)).getD true
    (least ((if after.isEmpty then mine else after).map (·.seq))).map fun q =>
      (n, left, ((mine.find? fun c => c.seq == q).map (·.id)).getD 0)
  if nodes.contains e.served && e.left ≠ 0 then pick e.served e.left e.last
  else match least (nodes.map fun n => (n + 4095 - e.served) % 4096) with
    | none => none
    | some d =>
      let n := (e.served + 1 + d) % 4096
      pick n (max 1 (s.effCshare n)) none

/-- The turn after a sector has moved. -/
def State.tookTurn (s : State) (c : Copy) (left : Nat) : State :=
  s.modDie c.die fun d => { d with engines := modAt d.engines c.unit fun e =>
    { e with served := c.node, left := left - 1, last := some c.seq } }

/-- COPY_SECTOR_DELIVERY (09 R235, R236, R253): the sector's bytes, one store, then its credit. -/
def execEvCopySectorDelivery (op sector : Nat) (s : State) : Result :=
  match s.copy? op with
  | none => .next s
  | some c => match s.engineTurn c.die c.unit with
    | none => .next s
    | some (_, left, next) =>
      if next ≠ op || !c.pending.contains sector then .next s
      else
        let out := (s.sectorData c sector).bind fun t bs => (t.writeSector c bs).bind fun t st => .ok t (bs.length, st)
        .next (State.stabilise (s.engineDo c out fun t r =>
          let t := ((t.dropWindow op).putCopy { c with pending := c.pending.erase sector, endStamp := max c.endStamp r.2 })
          (t.credit op c.bspace c.barrier r.1 c.clock (t.opPast c.past op)).tookTurn c left))

/-! ### End -/

/-- The exponent fold: an atom.max.n32 on word 1 of the scale record (09 R244). -/
def State.foldScale (s : State) (c : Copy) : EngineOut Stamp :=
  let v := c.scale + 4
  match c.mode with
  | .q _ => match s.xlate c.die c.asid v .atomic with
    | (s, .fault l r) => .fault s v (c.record v 4 l r)
    | (s, .denied) => .denied s
    | (s, .ok pa _) =>
      let s := s.touch c.die c.asid v true (s.engineWriter c.id)
      if s.gone pa then .poison s (pa / 32 * 32)
      else match s.poisonAt pa 4 with
        | some p => .poison s p
        | none =>
          let (t, st) := s.performWrite pa (leBytes 4 (max (s.readNat pa 4) c.fold)) c.clock
          let t := t.signed { s.engineWriter c.id with syncs := s.carried pa 4 } pa []
          .ok ((t.noticeWrite pa 4).seenBy c.warp c.id pa) st
  | _ => .ok s 0

/-- COPY_END (09 R235, R236, R244, R257): DONE once everything is delivered and acknowledged, FAILED or CANCELLED as
something stopped it, CANCELLED where tkcancel asked for it before that came about. -/
def execEvCopyEnd (op : Nat) (s : State) : Result :=
  match s.copy? op with
  | none => .next s
  | some c =>
    let writing := s.accesses.any fun a => a.op == .copyWrite op
    if c.cancel && c.live && (!c.started || !c.pending.isEmpty || c.stall.isSome || writing) then .next (State.stabilise (s.endCopy c 3 8 0))
    else if !c.pending.isEmpty || (!c.started && c.ending = 0) then .next s
    else if c.ending ≠ 0 then .next (State.stabilise (s.endCopy c c.ending c.reason c.detail))
    else if c.stall.isSome || writing then .next s
    else .next (State.stabilise (s.engineDo c (s.foldScale c) fun t st =>
      t.endCopy { c with endStamp := max c.endStamp st } 0 0 c.detail))

end Sys2Proof.Machine
end

