-- ==== Sys2Proof/Machine/Arrival.lean ====
section
/-! DEFINITION. Machine/Arrival.lean: publish and its swap (09 R239, R240; 16 R366), arrival barrier instructions (09 R248 to
R253). -/

namespace Sys2Proof.Machine

/-! ### publish -/

/-- The tickets publish names, OPS[90:75] (09 R239). -/
def FormX.tickets (f : FormX) : List Nat := (List.range 16).filter fun n => (f.opsAt 90 75).testBit n

/-- The shadow a ticket names: its copy is DONE, its record is held, the shadow neither published nor discarded (09 R239). -/
def State.shadowOf (s : State) (t : DWord) : Option Shadow :=
  if tkState t = 0 && tkKind t = 1 && (s.endRecord? t).isSome then
    s.shadows.find? fun x => x.die == tkDie t && x.unit == tkUnit t && x.seq % 2 ^ 40 == tkSeq t
  else none

/-- The shadows of every named ticket; none where publish is refused. -/
def State.publishable (s : State) (w : Warp) (tks : List Nat) : Option (List Shadow) :=
  let found := tks.map fun n => s.shadowOf (w.ticket n)
  if found.all (·.isSome) then some (found.filterMap id).eraseDups else none

/-- A named ticket is PENDING. -/
def Warp.anyPending (w : Warp) (tks : List Nat) : Bool := tks.any fun n => tkState (w.ticket n) == 1

/-- An access that used a translation the swap replaces is still on its way (13 R313). -/
def State.swapBusy (s : State) (xs : List Shadow) : Bool :=
  let pages := xs.flatMap (·.pages)
  s.accesses.any fun a => a.lanes.any fun x => !x.done && pages.any fun p => p.old ≤ x.pa && x.pa < p.old + p.size

/-- Waiting readers of a page read through its new leaf (08 R227; 09 R240). -/
def State.moveReaders (s : State) (asid : Nat) (p : ShadowPage) (pte : DWord) : State :=
  let move (x : ValueLane) : ValueLane :=
    if p.old ≤ x.addr && x.addr < p.old + p.size then { x with addr := p.new + (x.addr - p.old), pte := pte } else x
  { s with warps := s.warps.map fun w =>
      if s.asidOf w = asid then
        { w with entries := w.entries.map fun e => match e.wait with
            | .value v => if v.gl then { e with wait := .value { v with lanes := v.lanes.map move } } else e
            | _ => e }
      else w }

/-- One page's leaf is replaced by its shadow at stamp `st` (09 R239, R240; 16 R366). Every sector of the page takes the
stamp, its slices follow it, old translations go. -/
def State.swapPage (s : State) (node asid : Nat) (p : ShadowPage) (st : Stamp) (ys : List Sync) : State :=
  match s.walk asid p.va with
  | .fault _ _ => s
  | .leaf _ a q =>
    let new : DWord := BitVec.ofNat 64 (bitsOf q.toNat 0 12 + p.new + bitsOf q.toNat 52 7 * 2 ^ 52 + p.clen * 2 ^ 59)
    let s : State := (s.performWrite a (leBytes 8 new.toNat) 0).1
    let s : State := { s with tlb := s.tlb.filter fun t => t.pteAt != a }
    let n := if p.clen = 0 then p.size else p.clen * 256
    let s : State := { s with stamps := (List.range (n / 32)).foldl (fun m i => tset m (p.new / 32 + i) st) s.stamps }
    let s : State := (s.raiseSlices p.new n st).publishedAt p.new n st ys
    let s : State := if pteH q then
        let owner := (s.histPage? (pteAddr q)).bind (·.owner)
        { s with mapHistory := s.mapHistory ++ [{ node := node, asid := asid, va := p.va, size := p.size, old := q, stamp := st }],
                 histPages := s.histPages ++ [{ page := p.new / 4096, count := ceilDiv n 4096, asid := asid, va := p.va, owner := owner,
                                                base := st, live := true, given := st }] }
      else { s with poolTaken := s.poolTaken.filter fun b => b.1 != pteAddr q }
    (s.moveReaders asid p new).noticeWrite p.new n

/-- The swap: every page of every shadow in one step with one stamp, a release store at .dev of each effective lane; the shadows
are consumed (09 R239, R240). -/
def State.swap (s : State) (w : Warp) (eff : Mask) (xs : List Shadow) : State × Stamp :=
  let node := ((s.launch? w.launch).map (·.node)).getD 0
  let (s, st) := s.orderStamp w.clock
  let ys := (lanesOf eff).map fun i => Sync.mk (w.party i .dev) st (w.pastAt i s.fresh)
  let s := xs.foldl (fun s x => x.pages.foldl (fun s p => s.swapPage node x.asid p st ys) s) s
  ({ s with shadows := s.shadows.filter fun x => !xs.contains x }, st)

/-- What publish writes: the stamp, or 0 where it is refused. -/
def Warp.takePublish (w : Warp) (dst : Nat) (eff : Mask) (v : Stamp) : Warp :=
  (w.writeResult dst true eff (eff == w.living) true none fun _ => BitVec.ofNat 64 v).merge v

/-- publish (09 R239): it waits for its tickets and as a release does; then it swaps, or is refused. -/
def execPublish (f : FormX) (s : State) : Result :=
  match s.ctx? f.guard with
  | none => .next s
  | some c =>
    let d := f.dst.toNat; let tks := FormX.tickets f
    if c.eff = 0 then .next (s.finish c c.w)
    else if c.w.anyPending tks || s.pendingFor c.w.uid c.eff then .next (s.blockHere c (.publish d tks c.eff))
    else match s.publishable c.w tks with
      | none => .next (s.finish c (c.w.takePublish d c.eff 0))
      | some xs =>
        if s.swapBusy xs then .next (s.blockHere c (.publish d tks c.eff))
        else
          let (t, st) := s.swap c.w c.eff xs
          .next (t.finish c (((t.warp? c.w.uid).getD c.w).takePublish d c.eff st))

/-- PUBLISH_SWAP (09 R239, R240): a waiting publish swaps, or is refused. -/
def execEvPublishSwap (wid entry : Nat) (s : State) : Result :=
  match s.warp? wid with
  | none => .next s
  | some w =>
    let x := w.entry entry
    match x.st, x.wait with
    | .block, .publish d tks eff =>
      if w.anyPending tks || s.pendingFor wid eff then .next s
      else match s.publishable w tks with
        | none => .next (s.resume wid entry fun w => w.takePublish d eff 0)
        | some xs =>
          if s.swapBusy xs then .next s
          else
            let (t, st) := s.swap w eff xs
            .next (t.resume wid entry fun w => w.takePublish d eff st)
    | _, _ => .next s

/-! ### Arrival barriers -/

/-- OPS[95:94] (09 Table 9-7). -/
def FormX.abSpace (f : FormX) : Space := Space.ofCode (f.opsAt 95 94)

/-- What an arrival barrier instruction asks of its checks: the registers whose dead tags it checks, and whether it is a
release. -/
structure AbAsk where
  reads    : List Nat
  releases : Bool

/-- abinit, abexp, abarv, and abwait and abtest, as they ask. OPS[93] of abarv is .exp. -/
def FormX.abinitAsk (f : FormX) : AbAsk := ⟨[f.xa.toNat, f.xb.toNat], false⟩
def FormX.abexpAsk (f : FormX) : AbAsk := ⟨[f.xa.toNat, f.xb.toNat], true⟩
def FormX.abarvAsk (f : FormX) : AbAsk := ⟨f.xa.toNat :: if f.opsAt 93 93 = 1 then [f.xb.toNat] else [], true⟩
def FormX.abwaitAsk (f : FormX) : AbAsk := ⟨[f.xa.toNat, f.xb.toNat], false⟩

/-- The barrier's key. -/
def State.abKey (s : State) (c : Ctx) (f : FormX) : Nat := s.keyOf c (FormX.abSpace f) (c.w.lane f.xa.toNat c.low).toNat

/-- The checks of a barrier instruction, in the order of Table 9-3. -/
def State.abFault (s : State) (c : Ctx) (f : FormX) (reads : List Nat) : Option (Nat × DWord) :=
  let spc := FormX.abSpace f
  let ea := (c.w.lane f.xa.toNat c.low).toNat
  let tv (n : Nat) : DWord := BitVec.ofNat 64 n
  ((c.deadRead reads).map fun r => (6, tv r)) <|> (if ea % 16 ≠ 0 then some (8, tv ea) else none)
    <|> ((s.firstBad c spc ea 16).map fun v => (9, tv v)) <|> ((s.memberGone c spc ea).map fun v => (0x15, tv v))

/-- The trap value of ABAR_OVERRUN (09 R252). -/
def overrunTval (addr space : Nat) : DWord := BitVec.ofNat 64 (addr % 2 ^ 32 + space * 2 ^ 32)
def Ctx.overrunTval (c : Ctx) (f : FormX) : DWord := Machine.overrunTval (c.w.lane f.xa.toNat c.low).toNat (f.opsAt 95 94)

/-- Why a barrier instruction past its checks waits at issue: an access in flight that it must follow (08 R211 to R213). -/
def State.abWaits (s : State) (c : Ctx) (f : FormX) (releases : Bool) : Option Nat :=
  if s.pendingAcquire c.w.uid c.eff || s.unperformed c.w.uid (s.abKey c f) 16 then some 4
  else if releases && s.pendingFor c.w.uid c.eff then some (s.holdReason c) else none

/-- A barrier instruction: its checks, its wait, POISON; then `k` acts on the barrier's key. -/
def State.abInstr (s : State) (f : FormX) (q : AbAsk) (k : Ctx → Nat → State) : Result :=
  match s.ctx? f.guard with
  | none => .next s
  | some c =>
    if c.eff = 0 then .next (s.finish c c.w)
    else match s.abFault c f q.reads with
      | some (cause, v) => .next (s.trapHere c cause v)
      | none =>
        if (s.abWaits c f q.releases).isSome then .next s.wait
        else match s.poisonAt (s.abKey c f) 16 with
          | some p => .next (s.trapPoison c p)
          | none => .next (k c (s.abKey c f))

/-- The warp as it stands in a state whose memory the instruction has changed. -/
def State.warpNow (s : State) (c : Ctx) : Warp := (s.warp? c.w.uid).getD c.w

/-- A thread at the scope of a barrier (09 R253). -/
def FormX.abParty (f : FormX) (w : Warp) (lane : Nat) : Party := w.party lane (abScope (FormX.abSpace f))

/-- Lanes test the barrier at a key: one atomic operation at its bank, which writes the object back with its reserved bits zero;
later reads of theirs see no older one (08 R212; 09 R248, R249). -/
def State.testBarrier (s : State) (w : Warp) (f : Nat → Party) (m : Mask) (key : Nat) : State :=
  let t := s.putAbar (f ((lowLane m).getD 0)) key (s.abar key) (s.carried key 16)
  t.saw ((lanesOf m).map w.thread) key (t.returned key 16 [])

/-- What the test of a barrier brings to its lanes: its memory's space clock, and to those of `acq`, through a flip, the credits
and releases counted, `ys` (09 R252, R253). -/
def State.passBarrier (s : State) (w : Warp) (f : Nat → Party) (m acq : Mask) (key : Nat) (ys : List Sync) : Warp :=
  (lanesOf m).foldl (fun w i => w.hearAll i (acq.getLsbD i) (f i) ys) (w.merge (s.spaceClock key))

/-- abinit (09 R250). -/
def execAbinit (f : FormX) (s : State) : Result :=
  let a := f.xa.toNat; let x := f.xb.toNat
  s.abInstr f (FormX.abinitAsk f) fun c key =>
    let t := s.putAbar (FormX.abParty f c.w c.low) key
      { ebyte := 0, abyte := 0, ethr := (c.w.lane x c.low).toNat % 2 ^ 16, athr := 0, phase := false, overrun := false }
      (s.carried key 16)
    t.finish c ((t.warpNow c).kill c.full (FormX.marked f [(0, a, 1), (1, x, 1)]) [])

/-- An arrival or expectation: a release at the barrier's scope for all the effective lanes (09 R249, R251; 16 R356). -/
def State.arriveBarrier (s : State) (c : Ctx) (f : FormX) (key exp thr : Nat) (marks : List Nat) : State :=
  let b := s.abar key
  if b.overrun then s.trapHere c 0xB (c.overrunTval f)
  else
    let p := FormX.abParty f c.w c.low
    let t := (s.countAbar p (FormX.abSpace f) key exp 0 thr ⟨p, c.w.clock, c.w.pastOf c.eff s.fresh⟩).raiseSpace key c.w.clock
    t.finish c ((t.warpNow c).kill c.full marks [])

/-- abexp (09 R251). -/
def execAbexp (f : FormX) (s : State) : Result :=
  let a := f.xa.toNat; let x := f.xb.toNat
  s.abInstr f (FormX.abexpAsk f) fun c key =>
    s.arriveBarrier c f key (c.w.lane x c.low).toNat 0 (FormX.marked f [(0, a, 1), (1, x, 1)])

/-- abarv (09 R251): OPS[93] is .exp. -/
def execAbarv (f : FormX) (s : State) : Result :=
  let a := f.xa.toNat; let x := f.xb.toNat; let exp := f.opsAt 93 93 == 1
  s.abInstr f (FormX.abarvAsk f) fun c key =>
    s.arriveBarrier c f key (if exp then (c.w.lane x c.low).toNat else 0) (lanesOf c.eff).length
      (FormX.marked f [(0, a, 1), (1, x, if exp then 1 else 0)])

/-- abwait (09 R252): it returns at once where the phase has flipped, and blocks otherwise. -/
def execAbwait (f : FormX) (s : State) : Result :=
  let a := f.xa.toNat; let x := f.xb.toNat
  let marks := FormX.marked f [(0, a, 1), (1, x, 1)]
  s.abInstr f (FormX.abwaitAsk f) fun c key =>
    let b := s.abar key
    let phase := (c.w.lane x c.low).getLsbD 0
    if b.overrun then s.trapHere c 0xB (c.overrunTval f)
    else if b.phase != phase then
      let t := s.testBarrier c.w (FormX.abParty f c.w) c.eff key
      t.finish c ((s.passBarrier (t.warpNow c) (FormX.abParty f c.w) c.eff c.eff key (s.carried key 16)).kill c.full marks [])
    else
      let t := s.testBarrier c.w (FormX.abParty f c.w) c.eff key
      t.blockHere { c with w := t.warpNow c } (.phase key (c.w.lane a c.low).toNat (f.opsAt 95 94) phase c.eff marks none)

/-- abtest (09 R252): a test that writes 1 is an acquire of its lane. -/
def execAbtest (f : FormX) (s : State) : Result :=
  let a := f.xa.toNat; let x := f.xb.toNat
  s.abInstr f (FormX.abwaitAsk f) fun c key =>
    let b := s.abar key
    if b.overrun then s.trapHere c 0xB (c.overrunTval f)
    else
      let m : Mask := maskOf fun i => b.phase != (c.w.lane x i).getLsbD 0
      let t := s.testBarrier c.w (FormX.abParty f c.w) c.eff key
      let w := (t.warpNow c).setPred f.dst.toNat c.eff m
      let w := s.passBarrier w (FormX.abParty f c.w) c.eff m key (s.carried key 16)
      t.finish c (w.kill c.full (FormX.marked f [(0, a, 1), (1, x, 1)]) [])

/-- ABWAIT_WAKE (09 R252): the phase has flipped, be it more than once, or OVERRUN is set and the split traps. -/
def execEvAbwaitWake (wid entry : Nat) (s : State) : Result :=
  match s.warp? wid with
  | none => .next s
  | some w =>
    let x := w.entry entry
    match x.st, x.wait with
    | .block, .phase key addr space phase eff marks seen =>
      let b := s.abar key
      if b.overrun then
        let t : State := s.putWarp (w.setEntry entry { x with st := .run, wait := .none })
        .next (State.stabilise (t.takeTrap wid entry x.pc 0xB (overrunTval addr space)))
      else if b.phase != phase || seen.isSome then
        let p (i : Nat) : Party := w.party i (abScope (Space.ofCode space))
        let ys := seen.getD (s.carried key 16)
        .next ((s.testBarrier w p eff key).resume wid entry fun w => (s.passBarrier w p eff eff key ys).kill (eff == w.living) marks [])
      else .next s
    | _, _ => .next s

end Sys2Proof.Machine
end

