-- ==== Sys2Proof/Machine/Line.lean ====
section
/-! DEFINITION. Machine/Line.lean: the circle line (18 R379 to R397; 19 R407, R408): the instructions of class 0xB, stations,
passages, reboarding and removal. -/

namespace Sys2Proof.Machine

/-! ### Issue -/

/-- A directory entry (18 R380). -/
def State.coachOf (s : State) (node name : Nat) : Option Coach := s.coaches.find? fun c => c.node == node && c.name == name
def State.coach? (s : State) (id : Nat) : Option Coach := s.coaches.find? fun c => c.fresh == id

/-- The tile name, bits [15:0] of XB (18 R383). -/
def Ctx.tileName (c : Ctx) (f : FormX) : Nat := (c.w.lane f.xb.toNat c.low).toNat % 2 ^ 16

/-- An operation with its issuer filled in. -/
def State.newLineOp (s : State) (c : Ctx) (f : FormX) (op : LineOp) : StationOp where
  id := s.fresh
  op := op
  die := c.w.die
  seq := (s.die c.w.die).station
  warp := c.w.uid
  wg := c.w.wg
  launch := c.w.launch
  node := c.l.node
  asid := s.asidOf c.w
  lanes := c.eff
  reg := some f.dst.toNat
  name := c.tileName f
  place := .key 0
  space := .gl
  core := c.w.core
  barrier := none
  min := none
  clock := c.w.clock
  stage := .waiting
  slot := 0
  payload := []
  arrived := 0
  srcStamp := 0
  past := c.w.pastOf c.eff s.fresh

/-- An operation that has passed its checks is issued under its ticket (18 R383, R391). -/
def State.sendLine (s : State) (c : Ctx) (f : FormX) (o : StationOp) (ranges : List RangeEntry) (marks : List Nat) : State :=
  let t := s.overwriteTicket c.w.uid f.dst.toNat
  let t := t.modDie c.w.die fun d => { d with station := (d.station + 1) % 2 ^ 40 }
  let w := (c.w.setTicket f.dst.toNat (ticketVal 1 0 2 c.w.die 0 o.seq)).kill c.full marks []
  { t with lineOps := t.lineOps ++ [o], fresh := t.fresh + 1 }.finish c { w with ranges := w.ranges ++ ranges }

/-- What a class 0xB operation asks of its checks: the registers whose dead tags it checks, whether it takes a range entry, and
its other checks (18 R384). -/
structure LineAsk where
  reads : List Nat
  entry : Bool
  check : Ctx → Option (Nat × DWord)

/-- Its checks, in order. -/
def LineAsk.fault (q : LineAsk) (c : Ctx) : Option (Nat × DWord) :=
  ((c.deadRead q.reads).map fun r => (6, BitVec.ofNat 64 r)) <|> q.check c

/-- Unfinished operations of a die's station, of which it takes 16 (18 R383). -/
def State.stationOps (s : State) (d : Nat) : Nat := (s.lineOps.filter fun o => o.die == d && o.stage != .held).length

/-- Why a class 0xB operation past its checks waits at issue: 16 operations of its die are unfinished (18 R383), it takes a
range entry and none is free (R391; 09 R245), or an acquire is in flight (08 R211). -/
def State.lineWaits (s : State) (c : Ctx) (entry : Bool) : Option Nat :=
  if s.stationOps c.w.die ≥ 16 then some 25
  else if entry && ((c.w.ranges.map (·.op)).eraseDups).length ≥ 8 then some 27
  else if s.pendingAcquire c.w.uid c.eff then some 4 else none

/-- A class 0xB operation: its checks and its waits at issue (18 R383, R384, R391). -/
def State.lineInstr (s : State) (f : FormX) (q : LineAsk) (go : Ctx → State) : Result :=
  match s.ctx? f.guard with
  | none => .next s
  | some c =>
    if c.eff = 0 then .next (s.finish c c.w)
    else match q.fault c with
      | some (cause, v) => .next (s.trapHere c cause v)
      | none => if (s.lineWaits c q.entry).isSome then .next s.wait else .next (go c)

/-- The source space of board and replace, OPS[95]. -/
def FormX.boardSpace (f : FormX) : Space := if f.opsAt 95 95 = 1 then .ds else .gl

/-- Checks 2 and 3 of Table 18-3 for a source. -/
def State.boardCheck (s : State) (f : FormX) (c : Ctx) : Option (Nat × DWord) :=
  let spc := FormX.boardSpace f
  let a := c.address spc f.xa.toNat
  if a % 32 ≠ 0 then some (8, BitVec.ofNat 64 a) else (s.firstBad c spc a 4096).map fun v => (9, BitVec.ofNat 64 v)

/-- board and replace as they ask. -/
def State.boardAsk (s : State) (f : FormX) : LineAsk :=
  { reads := addressRegs (FormX.boardSpace f) f.xa.toNat ++ [f.xb.toNat], entry := true, check := s.boardCheck f }

/-- board or replace: a source, a name, a ticket. -/
def State.issueBoard (s : State) (f : FormX) (op : LineOp) : Result :=
  let spc := FormX.boardSpace f
  let regs := addressRegs spc f.xa.toNat
  s.lineInstr f (s.boardAsk f) fun c =>
    let o := s.newLineOp c f op
    let p := s.placeOf c spc (c.address spc f.xa.toNat)
    s.sendLine c f { o with place := p, space := spc }
      [{ op := o.id, space := spc, write := false, first := p.start, last := p.start + 4095 }]
      (FormX.marked f [(0, f.xa.toNat, regs.length), (1, f.xb.toNat, 1)])

/-- board (18 R385). -/
def execBoard (f : FormX) (s : State) : Result := s.issueBoard f .board
/-- replace (18 R389). -/
def execReplace (f : FormX) (s : State) : Result := s.issueBoard f .replace

/-- alight as it asks. -/
def FormX.alightAsk (f : FormX) : LineAsk := { reads := [f.xb.toNat], entry := false, check := fun _ => none }

/-- alight (18 R386). -/
def execAlight (f : FormX) (s : State) : Result :=
  s.lineInstr f (FormX.alightAsk f) fun c =>
    s.sendLine c f (s.newLineOp c f .alight) [] (FormX.marked f [(1, f.xb.toNat, 1)])

/-- The spaces of a catch: OPS[95:94] and OPS[93:92]; .min is OPS[91]. -/
def FormX.catchSpaces (f : FormX) : Space × Space := (Space.ofCode (f.opsAt 95 94), Space.ofCode (f.opsAt 93 92))
def FormX.catchMin (f : FormX) : Bool := f.opsAt 91 91 == 1

/-- Checks 2 to 4 of Table 18-3 for a catch. -/
def State.catchCheck (s : State) (f : FormX) (c : Ctx) : Option (Nat × DWord) :=
  let (dsp, bs) := FormX.catchSpaces f
  let d := c.address dsp f.xa.toNat; let b := (c.w.lane f.xc.toNat c.low).toNat
  match firstMisaligned [(d, 128), (b, 16)] with
  | some v => some (8, BitVec.ofNat 64 v)
  | none => match least ((s.firstBad c dsp d 4096).toList ++ (s.firstBad c bs b 16).toList) with
    | some v => some (9, BitVec.ofNat 64 v)
    | none => (s.memberGone c dsp d <|> s.memberGone c bs b).map fun v => (0x15, BitVec.ofNat 64 v)

/-- The pair that holds a .min catch's version. -/
def FormX.minRegs (f : FormX) : List Nat := if FormX.catchMin f then [f.xd.toNat, f.xd.toNat + 1] else []

/-- catch as it asks. -/
def State.catchAsk (s : State) (f : FormX) : LineAsk :=
  { reads := [f.xa.toNat, f.xb.toNat, f.xc.toNat] ++ FormX.minRegs f, entry := true, check := s.catchCheck f }

/-- catch (18 R387): `core` is the core whose shared memory it is written to. -/
def execCatchTile (f : FormX) (s : State) : Result :=
  let (dsp, bs) := FormX.catchSpaces f
  s.lineInstr f (s.catchAsk f) fun c =>
    let o := s.newLineOp c f .catchTile
    let d := c.address dsp f.xa.toNat
    let k := s.keyOf c dsp d
    let core := if dsp == .co then ((s.member? c.g (d / 2 ^ 20 % 16)).map (·.core)).getD c.w.core else c.w.core
    s.sendLine c f
      { o with place := .key k, space := dsp, core := core, barrier := some (s.keyOf c bs (c.w.lane f.xc.toNat c.low).toNat),
               bspace := bs, min := if FormX.catchMin f then some (c.w.pair f.xd.toNat c.low).toNat else none }
      [{ op := o.id, space := dsp, write := true, first := k, last := k + 4095 }]
      (FormX.marked f [(0, f.xa.toNat, 1), (1, f.xb.toNat, 1), (2, f.xc.toNat, 1), (3, f.xd.toNat, (FormX.minRegs f).length)])

/-- lineq's status word (18 Table 18-5). -/
def State.lineWord (s : State) (node name : Nat) : Word :=
  let count := (s.coaches.filter fun c => c.node == node).length
  match s.coachOf node name with
  | none => BitVec.ofNat 32 (count % 512)
  | some c =>
    let st := if !c.onLine then 1 else if c.poison then 3 else 2
    BitVec.ofNat 32 (st * 2 ^ 30 + c.slot * 2 ^ 16 + count % 512)

/-- lineq (18 R390). -/
def execLineq (f : FormX) (s : State) : Result :=
  match s.ctx? f.guard with
  | none => .next s
  | some c =>
    let x := f.xb.toNat; let d := f.dst.toNat
    if c.eff = 0 then .next (s.finish c c.w)
    else match c.deadRead [x] with
      | some r => .next (s.trapHere c 6 (BitVec.ofNat 64 r))
      | none =>
        let name := c.tileName f
        let v : DWord := match s.coachOf c.l.node name with
          | some k => if k.onLine then BitVec.ofNat 64 k.version else 0
          | none => 0
        let u := (c.w.reg x).countsU
        let put (w : Warp) (k : Nat) (v : Word) : Warp := w.writeResult (d + k) false c.eff c.full u none fun _ => v.setWidth 64
        let w := put c.w 0 (s.lineWord c.l.node name)
        let w := put w 1 (BitVec.ofNat 32 (s.effCoaches c.l.node % 512))
        let w := put (put w 2 (lo32 v)) 3 (hi32 v)
        .next (s.finish c (w.kill c.full (FormX.marked f [(1, x, 1)]) [d, d + 1, d + 2, d + 3]))

/-! ### Slots and passages -/

/-- The ring index of a die's station, and the die of a ring index (18 Table 18-1). -/
def ringOf (die : Nat) : Nat := if die < 4 then die else 11 - die

/-- Where a slot stands (18 R379). -/
def State.position (s : State) (slot : Nat) : Nat := (slot + s.lineShift) % 256

/-- A slot is on a die's platform. -/
def State.atPlatform (s : State) (slot die : Nat) : Bool := s.position slot == 32 * ringOf die

/-- An operation is at a passage that began after its request or read; its station is not bridged (18 R385 to R389; 19 R407). -/
def State.passing (s : State) (o : StationOp) : Bool :=
  o.stage == .ready && s.atPlatform o.slot o.die && o.arrived < s.lineShift && !(s.die o.die).bridged

/-- Marks of the passages in progress: catches served per core, and a swap per station (18 R387, R389). -/
def catchMark (die core : Nat) : Nat := die * 36 + core
def swapMark (die : Nat) : Nat := 1000 + die

/-- A replace of a coach was issued at a station before another and has not ended: it swaps first (18 R389, Table 18-7). -/
def StationOp.swapsBefore (x o : StationOp) : Bool :=
  x.op == .replace && x.die == o.die && x.id < o.id
  && (if x.stage = .waiting || x.stage = .held then x.node == o.node && x.name == o.name else x.coach == o.coach)

/-- A staged replace swaps now: it is the earliest issued of its coach at its station, and none has swapped at this passage (18
R389, Table 18-7). -/
def State.swapDue (s : State) (o : StationOp) : Bool :=
  o.op == .replace && s.passing o && tget s.catches (swapMark o.die) 0 == 0 && !s.lineOps.any (·.swapsBefore o)

/-- A catch ends at this passage if it is served: its coach is gone, poisoned, or of a version it accepts (18 R387). -/
def State.catchEnds (s : State) (o : StationOp) : Bool :=
  o.op == .catchTile && s.passing o && match s.coach? o.coach with
    | none => true
    | some c => c.poison || (match o.min with
      | none => true
      | some v => v ≤ c.version)

/-- A delivery into die store, or one of the first four into its core, earlier arrivals first (18 R387). -/
def State.catchServed (s : State) (o : StationOp) : Bool :=
  o.space == .ds
  || (tget s.catches (catchMark o.die o.core) 0 < 4
    && !s.lineOps.any fun x => s.catchEnds x && x.space != .ds && x.die == o.die && x.core == o.core && x.reached < o.reached)

/-- An alight removes its coach now: its board wrote it at an earlier passage, and no alight reached the directory before it (18
R386). -/
def State.alightDue (s : State) (o : StationOp) : Bool :=
  o.op == .alight && s.passing o && (match s.coach? o.coach with
    | some c => c.onLine && c.written < s.lineShift
    | none => false)
  && !s.lineOps.any fun x => x.op == .alight && x.coach == o.coach && s.passing x && x.reached < o.reached

/-- Something due at the present passages has not happened yet. -/
def State.lineDue (s : State) (o : StationOp) : Bool :=
  (o.op == .board && s.passing o) || s.swapDue o || (s.catchEnds o && s.catchServed o) || s.alightDue o

/-! ### Stations -/

/-- An operation ends. -/
def State.endLine (s : State) (o : StationOp) (st reason : Nat) : State := s.endLineOps (fun x => x.id == o.id) st reason

/-- An operation ends DONE with its end stamp; `p` is what its observation brings along happens-before (18 R385, R387, R389, R395;
16 R357). -/
def State.doneLine (s : State) (o : StationOp) (stamp : Stamp) (p : Past) : State :=
  let s : State := { s with lineOps := s.lineOps.filter fun x => x.id != o.id }
  ((s.opEnded o.launch stamp p).freeRange o.id).endTicket
    { kind := 2, die := o.die, unit := 0, seq := o.seq, state := 0, reason := 0, stamp := stamp, past := p }

/-- R381 lets a region board one more coach. -/
def State.lineRoom (s : State) (node : Nat) : Bool :=
  s.coaches.length < 256
  && s.fits node (fun n => (s.coaches.filter fun c => s.under c.node n).length) s.effCoaches 1

/-- The lowest-numbered free slot (18 R385). -/
def State.freeSlot (s : State) : Option Nat := (List.range 256).find? fun k => !s.coaches.any fun c => c.slot == k

/-- STATION_REQUEST (18 R385 to R387, R389): a request reaches its station and the directory after the wait of R383; a reissued
catch first waits for room at its station (R392). -/
def execEvStationRequest (op : Nat) (s : State) : Result :=
  match s.lineOp? op with
  | none => .next s
  | some o =>
    if o.stage = .held then .next (if s.stationOps o.die < 16 then s.putLineOp { o with stage := .waiting } else s)
    else if o.stage ≠ .waiting || (s.die o.die).bridged || !s.acknowledged o.warp o.id o.lanes then .next s
    else
      let o := { o with clock := max o.clock (((s.warp? o.warp).map (·.clock)).getD 0), reached := s.fresh }
      let s : State := { s with fresh := s.fresh + 1 }
      let s1 : State := s.putLineOp o
      let fail (r : Nat) : Result := .next (State.stabilise (s1.endLine o 2 r))
      let e := s.coachOf o.node o.name
      match o.op, e with
      | .board, some _ => fail 6
      | .board, none => match s.freeSlot with
        | none => fail 4
        | some k =>
          if !s.lineRoom o.node then fail 4
          else
            let c : Coach := { slot := k, node := o.node, name := o.name, onLine := false, version := 0, poison := false,
                               srcDie := o.die, src := o.place, fresh := s.fresh, boardDie := o.die }
            .next (({ s1 with coaches := s1.coaches ++ [c], fresh := s.fresh + 1 }).putLineOp
              { o with stage := .reading, slot := k, coach := s.fresh })
      | .alight, none => fail 6
      | .alight, some c => .next (s1.putLineOp { o with stage := .ready, slot := c.slot, coach := c.fresh, arrived := s.lineShift })
      | .catchTile, some c =>
        if !c.onLine then fail 6
        else .next (s1.putLineOp { o with stage := .ready, slot := c.slot, coach := c.fresh, arrived := s.lineShift })
      | .catchTile, none => fail 6
      | .replace, some c =>
        if !c.onLine then fail 6 else .next (s1.putLineOp { o with stage := .reading, slot := c.slot, coach := c.fresh })
      | .replace, none => fail 6

/-- The largest stamp among the reads of [va, va+n) at .dev (18 R382; 16 R355). -/
def State.sourceStamp (s : State) (die asid : Nat) (k : Stamp) : Nat → Nat → Nat → Stamp
  | 0, _, _ => 0
  | f + 1, va, n =>
    if n = 0 then 0
    else
      let m := min n (256 - va % 256)
      let here := match (s.xlate die asid (BitVec.ofNat 64 va) .read).2 with
        | .ok pa _ => if inWindow pa then 0 else max (s.clockAt (sliceOf pa)) k
        | _ => 0
      max here (s.sourceStamp die asid k f (va + m) (n - m))

/-- A station's reader, in the terms of an engine's (18 R385). -/
def stationReader (id die node launch : Nat) (place : Place) (clock : Stamp) : Copy :=
  { id := id, die := die, unit := 0, seq := 0, warp := 0, wg := 0, launch := launch, node := node,
    asid := (match place with
      | .virt a _ => a
      | .key _ => 0),
    lanes := 0, reg := none, dspace := .sh, sspace := .gl, dst := .key 0, src := place, srcEnd := 2 ^ 64, count := 4096,
    mode := .plain, shd := false, barrier := none, clock := clock }

/-- The 4,096 source bytes with their largest stamp (18 R382, R385). -/
def State.readTile (s : State) (r : Copy) : EngineOut (List Byte × Stamp) :=
  match r.src with
  | .key k => (s.readSource r k 4096).bind fun s bs => .ok s (bs, s.spaceClock k)
  | .virt a va => (State.readVirt r 5 18 s va.toNat 4096).bind fun s bs =>
      .ok s (bs, s.sourceStamp r.die a r.clock 32 va.toNat 4096)

/-- STATION_SOURCE_READ (18 R385, R389): the read of a source completes; a failure ends the operation (09 R236). -/
def execEvStationSourceRead (op : Nat) (s : State) : Result :=
  match s.lineOp? op with
  | none => .next s
  | some o =>
    if o.stage ≠ .reading || o.stall.isSome || (s.die o.die).bridged then .next s
    else
      let r := stationReader o.id o.die o.node o.launch o.place o.clock
      match s.readTile r with
      | .ok t (bs, st) => .next ((t.dropWindow op).putLineOp
          { o with stage := .ready, payload := bs, srcStamp := st, arrived := s.lineShift })
      | .fault t va rec =>
        .next ((t.reportWalk rec).putLineOp { o with stall := some (o.asid, BitVec.ofNat 64 (va.toNat / 4096 * 4096)) })
      | .denied t => .next (State.stabilise ((t.dropWindow op).endLine o 2 6))
      | .poison t p => .next (State.stabilise (((t.poisonLog p o.node).dropWindow op).endLine o 2 5))
      | .window t g =>
        if s.accesses.any fun a => a.op == .copyRead op && a.lanes.any (!·.done) then .next s
        else .next (t.windowCopy r false (g.map fun x => (x.1, x.2, [])))

/-- A payload and its version stand in a slot (18 R382, R385, R389): `p` is what lies before the version (R395); a staged reboard
is no longer wanted. -/
def State.putPayload (s : State) (c : Coach) (bs : List Byte) (v : Stamp) (p : Past) (srcDie : Nat) (src : Place) : State :=
  let s : State := s.write (coachKey c.slot 0) bs
  { s with coaches := s.coaches.map fun x => if x.fresh = c.fresh then
      { x with onLine := true, version := v, past := p, poison := false, srcDie := srcDie, src := src, staged := none,
               written := if x.onLine then x.written else s.lineShift } else x }

/-- A board or replace gives its coach a payload and a version, a release at .dev, and ends DONE (18 R382, R395). -/
def State.giveVersion (s : State) (o : StationOp) (c : Coach) : State :=
  let (t, v) := s.orderStamp (max o.clock o.srcStamp)
  let p := t.opPast o.past o.id
  (t.putPayload c o.payload v p o.die o.place).doneLine o v p

/-- BOARD_PAYLOAD_WRITE (18 R385). -/
def execEvBoardPayloadWrite (op : Nat) (s : State) : Result :=
  match s.lineOp? op with
  | none => .next s
  | some o => match s.coach? o.coach with
    | none => .next s
    | some c => if o.op == .board && s.passing o then .next (State.stabilise (s.giveVersion o c)) else .next s

/-- REPLACE_SWAP (18 R389). -/
def execEvReplaceSwap (op : Nat) (s : State) : Result :=
  match s.lineOp? op with
  | none => .next s
  | some o => match s.coach? o.coach with
    | none => .next s
    | some c =>
      if s.swapDue o then
        let t : State := { s with catches := tset s.catches (swapMark o.die) 1 }
        .next (State.stabilise (t.giveVersion o c))
      else .next s

/-- A poisoned coach reported (19 R409). -/
def State.coachLog (s : State) (c : Coach) (die : Nat) : State := s.logged (.poison c.slot c.node (s.die die).st)

/-- CATCH_DELIVERY (18 R387, R396): a swap at this platform, and a removal, come first. -/
def execEvCatchDelivery (op : Nat) (s : State) : Result :=
  match s.lineOp? op with
  | none => .next s
  | some o =>
    let first := s.lineOps.any fun x => x.coach == o.coach && x.die == o.die && (s.swapDue x || s.alightDue x)
    if !s.catchEnds o || !s.catchServed o || first then .next s
    else match s.coach? o.coach with
      | none => .next (State.stabilise (s.endLine o 2 6))
      | some c =>
        if c.poison then .next (State.stabilise ((s.coachLog c o.die).endLine o 2 5))
        else
          let n := tget s.catches (catchMark o.die o.core) 0
          let t : State := if o.space == .ds then s else { s with catches := tset s.catches (catchMark o.die o.core) (n + 1) }
          let k := o.place.start
          let t := (sectorParts k 4096).foldl (fun (t : State) p => t.seenBy o.warp o.id p.1)
            (t.storeBytes (some (engineParty o.id)) k (s.read (coachKey c.slot 0) 4096))
          let p := t.opPast (if o.min.isSome then joinPast o.past c.past else o.past) o.id
          .next (State.stabilise ((t.credit o.id o.bspace o.barrier 4096 c.version p).doneLine o c.version p))

/-- A coach leaves its slot (18 R386, R394). -/
def State.removeCoach (s : State) (c : Coach) : State :=
  let s : State := s.wipe (coachKey c.slot 0) (coachKey c.slot 4096)
  { s with coaches := s.coaches.filter fun x => x.fresh != c.fresh }

/-- ALIGHT_REMOVAL (18 R386). -/
def execEvAlightRemoval (op : Nat) (s : State) : Result :=
  match s.lineOp? op with
  | none => .next s
  | some o => match s.coach? o.coach with
    | none => .next s
    | some c => if s.alightDue o then .next (State.stabilise ((s.removeCoach c).doneLine o o.clock (s.opPast o.past o.id))) else .next s

/-! ### Poison, kills, lost stations -/

/-- A die's station serves: it is neither lost nor bridged (19 R407). -/
def State.stationServes (s : State) (d : Nat) : Bool := !(s.die d).bridged && (s.die d).lossShift.isNone

/-- The station that reboards a coach (18 R393; 19 R408): the boarding die's, or for a .gl source the first in ring order that
serves. A source in the die store of a lost die cannot be read. -/
def State.reboardDie (s : State) (c : Coach) : Option Nat :=
  let gone := match c.src with
    | .key _ => (s.die c.srcDie).lossShift.isSome
    | .virt _ _ => false
  if gone then none
  else if s.stationServes c.boardDie then some c.boardDie
  else match c.src with
    | .key _ => none
    | .virt _ _ => ((List.range 8).map ringOf).find? s.stationServes

/-- A coach with a change to its record. -/
def State.putCoach (s : State) (c : Coach) : State := { s with coaches := s.coaches.map fun x => if x.fresh = c.fresh then c else x }

/-- REBOARD (18 R393): firmware reads a poisoned coach's recorded source through the station; the coach's next passage there
writes it. -/
def execEvReboard (slot : Nat) (s : State) : Result :=
  match s.coaches.find? fun c => c.slot == slot && c.onLine && c.poison && c.staged.isNone with
  | none => .next s
  | some c => match s.reboardDie c with
    | none => .next s
    | some d =>
      let r := stationReader c.fresh d c.node 0 c.src 0
      match s.readTile r with
      | .ok t (bs, st) => .next ((t.dropWindow c.fresh).putCoach
          { c with staged := some { die := d, bytes := bs, stamp := st, since := s.lineShift } })
      | .fault t _ rec => .next (t.reportWalk rec)
      | .denied t => .next (t.dropWindow c.fresh)
      | .poison t p => .next ((t.poisonLog p c.node).dropWindow c.fresh)
      | .window t g =>
        if s.accesses.any fun a => a.op == .copyRead c.fresh && a.lanes.any (!·.done) then .next s
        else .next (t.windowCopy r false (g.map fun x => (x.1, x.2, [])))

/-- A staged reboard at its passage is written, with a new version (18 R393); one whose station is lost is discarded. -/
def State.landReboard (s : State) (c : Coach) : State :=
  match c.staged with
  | none => s
  | some r =>
    if !s.stationServes r.die then s.putCoach { c with staged := none }
    else if s.atPlatform c.slot r.die && r.since < s.lineShift then
      let (t, v) := s.orderStamp r.stamp
      t.putPayload c r.bytes v [] c.srcDie c.src
    else s

/-- SLOT_ADVANCE (18 R379): every 4 cycles, once everything due at the passages has happened; reboards whose passage begins are
written. -/
def execEvSlotAdvance (s : State) : Result :=
  if s.cycle < s.lineStart + 4 * (s.lineShift + 1) || s.lineOps.any s.lineDue then .next s
  else
    let t : State := { s with lineShift := s.lineShift + 1, catches := [] }
    .next (s.coaches.foldl (fun t c => t.landReboard c) t)

/-- The coaches of a slot position of a station when its die is lost are poisoned, and reported (19 R408, R409). -/
def State.poisonStation (s : State) (die : Nat) : State :=
  let hit (c : Coach) : Bool := c.onLine && s.position c.slot / 32 == ringOf die
  let t : State := (s.coaches.filter hit).foldl (fun t c => t.coachLog c die) s
  { t with coaches := t.coaches.map fun c => if hit c then { c with poison := true } else c }

/-- STATION_BRIDGE (19 R400, R407): the station of a lost or retired die is bridged. -/
def execEvStationBridge (die : Nat) (s : State) : Result :=
  let d := s.die die
  if die ≥ 8 || d.bridged || d.st = 0 || (d.lossShift.isNone && d.st ≠ 3) then .next s
  else .next (s.modDie die fun d => { d with bridged := true })

/-- REGION_COACH_REMOVAL (18 R394): a killed region's coaches leave the line. -/
def execEvRegionCoachRemoval (node : Nat) (s : State) : Result :=
  let dead := ((s.region? node).map (·.st)).getD 3 == 3
  if !dead then .next s
  else .next (State.stabilise ((s.coaches.filter fun c => c.node == node).foldl (fun s c => s.removeCoach c) s))

/-- FIRMWARE_ALIGHT (19 R408): firmware removes a poisoned coach; the catches that wait on it end FAILED, FAULT. -/
def execEvFirmwareAlight (slot : Nat) (s : State) : Result :=
  match s.coaches.find? fun c => c.slot == slot && c.onLine && c.poison with
  | none => .next s
  | some c =>
    let t := s.removeCoach c
    .next (State.stabilise (t.endLineOps (fun o => o.op == .catchTile && o.stage != .waiting && o.stage != .held && o.coach == c.fresh) 2 6))

end Sys2Proof.Machine
end

