-- ==== Sys2Proof/Machine/Distributor.lean ====
section
/-! DEFINITION. Machine/Distributor.lean: queues, launch packets, validation, the deal, steps and completion (14 R326 to R347; 11
R264, R265, R276 to R278, R286; 16 R357), launch, trigger, waitdep and segq. -/

namespace Sys2Proof.Machine

/-! ### Reading for the distributor -/

/-- Bytes of an address space read by the front die at .dev; none where they are unreadable (14 Table 14-9, order 1). POISON is
reported (19 R409). -/
def State.frontRead (s : State) (asid va n : Nat) : State × Option (List Byte) :=
  let r := stationReader 0 8 0 0 (.virt asid (BitVec.ofNat 64 va)) 0
  match State.readVirt r 0 (n / 4096 + 2) s (va % 2 ^ 64) n with
  | .ok t bs => (t, some bs)
  | .poison t p => (t.poisonLog p 0, none)
  | _ => (s, none)

/-- The release sides that an acquire of `n` bytes of an address space by the front die or the mailbox synchronises with (08
R211; 14 R342; 20 R416). -/
def State.frontHears (s : State) (who : Party) (asid va n : Nat) : List Sync :=
  match (s.xlate 8 asid (BitVec.ofNat 64 va) .read).2 with
  | .ok pa p => (if pteC p then s.chunkSyncs p else s.carried pa n).filter (·.reaches who)
  | _ => []

/-- The largest stamp of release sides, and what lies before any of them. -/
def stampOf (ys : List Sync) : Stamp := ys.foldl (fun a y => max a y.stamp) 0
def pastOf (ys : List Sync) : Past := ys.foldl (fun p y => joinPast p y.past) []

/-- Bytes of an address space written by the front die with a clock, as a release store at .sys after `release` or not: none where
the write faults (14 R330). -/
def State.frontWrite (s : State) (asid node va : Nat) (bs : List Byte) (k : Stamp) (release : Option Past) : Option State :=
  let v : DWord := BitVec.ofNat 64 va
  match s.xlate 8 asid v .write with
  | (s, .ok pa _) =>
    let w (s : State) (st : Stamp) : Writer :=
      { who := some frontParty, number := s.fresh, acked := true, syncs := release.toList.map fun p => Sync.mk frontParty st p }
    let s := s.touch 8 asid v true (w s 0)
    if inWindow pa then some (s.windowOp (stationReader 0 8 node 0 (.key 0) k) (.frontWrite 0) bs.length release [(pa, v, bs)])
    else if s.gone pa then some s
    else
      let (t, st) := s.performBytes k (bs.length / 32 + 2) pa bs
      some ((t.signedAll (w t st) pa bs.length).noticeWrite pa bs.length)
  | _ => none

/-- A field of a little-endian record. -/
def field (bs : List Byte) (off n : Nat) : Nat := leNat ((bs.drop off).take n)

/-! ### Queues and packets -/

/-- A launch id (14 R326). -/
def launchId (node source seq : Nat) : Nat := node * 2 ^ 52 + source * 2 ^ 47 + seq % 2 ^ 47

/-- The launch packet of Table 14-6. -/
def parsePacket (b : List Byte) : LaunchPacket where
  version := field b 0x00 2
  flags := field b 0x02 2
  threads := field b 0x04 4
  entry := BitVec.ofNat 64 (field b 0x08 8)
  gx := field b 0x10 4
  gy := field b 0x14 4
  gz := field b 0x18 4
  regs := field b 0x1C 2
  consist := field b 0x1E 1
  diemask := field b 0x1F 1
  shared := field b 0x20 4
  spill := field b 0x24 4
  diestore := field b 0x28 4
  mindie := field b 0x2C 1
  maxdie := field b 0x2D 1
  rsv2e := field b 0x2E 2
  prod := (List.range 4).map fun i => field b (0x30 + 8 * i) 8
  timetable := BitVec.ofNat 64 (field b 0x50 8)
  segmap := BitVec.ofNat 64 (field b 0x58 8)
  args := BitVec.ofNat 64 (field b 0x60 8)
  trapEntry := BitVec.ofNat 64 (field b 0x68 8)
  complete := BitVec.ofNat 64 (field b 0x70 8)
  rsv78 := field b 0x78 8

/-- The id that names no launch (14 R326). -/
def noLaunch : Nat := 2 ^ 64 - 1

/-- The producers a launch names. -/
def Launch.producers (l : Launch) : List Nat := l.packet.prod.filter (· != noLaunch)

/-- The id of a queue launch's predecessor (14 R326, R333). -/
def Launch.predecessor (l : Launch) : Option Nat :=
  if l.source < 16 && l.seq ≠ 0 then some (launchId l.node l.source (l.seq - 1)) else none

/-! ### Validation -/

/-- An entry PC's form (14 R329). -/
def entryForm (pc : PC) : Bool := pc.toNat % 8 ≤ 4 && pc.toNat % 64 < 8 && pc.toNat < 2 ^ 57

/-- A register count (14 Table 14-6). -/
def regsForm (n : Nat) : Bool := 8 ≤ n && n ≤ 256 && n % 8 == 0

/-- A timetable as read (14 Table 14-12): the size word's address and the variants, and whether it keeps R343. -/
structure Timetable where
  sizeAddr : DWord
  variants : List Variant
  good     : Bool
  deriving DecidableEq, Repr

/-- Classes strictly ascend. -/
def ascending : List Nat → Bool
  | a :: b :: r => a < b && ascending (b :: r)
  | _ => true

/-- The timetable in its header and variants. -/
def parseTimetable (h b : List Byte) : Timetable :=
  let n := field h 2 2
  let vs := (List.range n).map fun i => let o := 32 * i
    ({ entry := BitVec.ofNat 64 (field b o 8), cls := field b (o + 8) 4, regs := field b (o + 0xC) 2, shared := field b (o + 0x10) 4,
       spill := field b (o + 0x14) 4 } : Variant)
  let zero := field h 4 4 == 0 && (List.range n).all fun i => field b (32 * i + 0xE) 2 == 0 && field b (32 * i + 0x18) 8 == 0
  { sizeAddr := BitVec.ofNat 64 (field h 8 8), variants := vs,
    good := field h 0 2 == 1 && 1 ≤ n && n ≤ 8 && zero && ascending (vs.map (·.cls))
      && vs.all fun v => entryForm v.entry && regsForm v.regs && v.spill % 8 == 0 }

/-- A segment map as read (11 R276): its segments, and whether header and entries are in range but for LIMIT's bound. -/
structure SegMap where
  segments : List Segment
  good     : Bool
  deriving DecidableEq, Repr

/-- The segment map in its header and entries (11 Tables 11-4, 11-5). -/
def parseSegMap (h b : List Byte) : SegMap :=
  let n := field h 2 2
  let seg (i : Nat) : Segment := let o := 32 * i
    let reps := (List.range 4).map fun k => field b (o + 0xC + 2 * k) 2
    { start := BitVec.ofNat 64 (field b o 8), length := field b (o + 8) 4, replicas := reps.takeWhile (· != 0xFFFF),
      qdepth := field b (o + 0x14) 2, limit := field b (o + 0x16) 2, ocap := field b (o + 0x18) 4, ooff := field b (o + 0x1C) 4 }
  let ok (i : Nat) : Bool :=
    let g := seg i
    let reps := (List.range 4).map fun k => field b (32 * i + 0xC + 2 * k) 2
    g.start.toNat % 64 == 0 && g.length % 64 == 0 && 64 ≤ g.length && g.length ≤ 98304 && !g.replicas.isEmpty
      && (reps.drop g.replicas.length).all (· == 0xFFFF) && 1 ≤ g.qdepth && g.qdepth ≤ 256 && 1 ≤ g.limit && g.limit ≤ 64
      && g.ooff % 32 == 0
  { segments := (List.range n).map seg,
    good := field h 0 2 == 1 && 1 ≤ n && n ≤ 64 && field h 4 12 == 0 && (List.range n).all ok }

/-- The record size of a segment (11 R276). -/
def Segment.recordSize (g : Segment) : Nat := roundUp (32 + 4 * g.limit) 32

/-- Order 2 of Table 14-9: the offset of the first offending packet field. -/
def packetFault (p : LaunchPacket) (l : Launch) (negotiated : Nat) (tt : Option Timetable) : Option Nat :=
  let timed := p.timetable != 0
  let early := p.earlyStart && !(match l.predecessor with
    | some q => p.prod.contains q
    | none => false)
  let late (i : Nat) : Bool :=
    let q := p.prod.getD i noLaunch
    q != noLaunch && l.source < 16 && q / 2 ^ 47 == launchId l.node l.source 0 / 2 ^ 47 && l.seq ≤ q % 2 ^ 47
  let checks : List (Nat × Bool) :=
    [(0x00, negotiated == 0 || p.version != negotiated), (0x02, p.flags / 32 != 0 || early), (0x04, p.threads == 0),
     (0x08, if timed then p.entry != 0 else !entryForm p.entry), (0x10, p.gx == 0 || p.grid > 2 ^ 32), (0x14, p.gy == 0),
     (0x18, p.gz == 0), (0x1C, if timed then p.regs != 0 else !regsForm p.regs), (0x1E, p.consist == 0 || p.consist > 16),
     (0x1F, p.diemask == 0), (0x20, timed && p.shared != 0), (0x24, p.spill % 8 != 0 || (timed && p.spill != 0)),
     (0x2C, p.mindie == 0 || p.mindie > 8), (0x2D, p.maxdie < p.mindie || p.maxdie > 8), (0x2E, p.rsv2e != 0),
     (0x30, late 0), (0x38, late 1), (0x40, late 2), (0x48, late 3), (0x50, match tt with
       | some t => !t.good
       | none => false),
     (0x58, (p.segmap != 0) != p.travel), (0x68, p.trapEntry != 0 && !entryForm p.trapEntry),
     (0x70, p.complete.toNat % 64 != 0), (0x78, p.rsv78 != 0)]
  (checks.find? (·.2)).map (·.1)

/-- Members of a consist assigned to four empty cores (11 R265): each core's charges, pointer and granules. -/
def emptyFit (warps nreg granules : Nat) : Nat → Nat → List (List (Nat × Nat) × Nat × Nat) → Bool
  | 0, _, _ => true
  | n + 1, j, cores =>
    let fit (p : Nat) : Option (List Nat × Nat) := match cores[p]? with
      | none => none
      | some (used, ptr, gr) => if gr + granules > 224 then none else placeWarps nreg warps used ptr
    match ((List.range 4).map fun i => (j + i) % 4).find? fun p => (fit p).isSome with
    | none => false
    | some p => match fit p with
      | none => false
      | some (slots, ptr) => emptyFit warps nreg granules n (j + 1)
          (modAt cores p fun c => (c.1 ++ slots.map fun sl => (sl, nreg), ptr, c.2.2 + granules))

/-- Orders 3 to 6 and 8 for one set of resources: the resource code (14 Table 14-9). -/
def tooLarge (p : LaunchPacket) (regs shared spill : Nat) : Option Nat :=
  let g := ceilDiv p.threads 32
  if p.threads > 1024 then some 1
  else if ceilDiv g 4 * regs > 512 then some 2
  else if roundUp shared 1024 > 224 * 1024 then some 3
  else if spill > 2048 then some 4
  else if roundUp p.diestore 65536 > 2 ^ 26 then some 5
  else if !emptyFit g regs (ceilDiv shared 1024) (min p.consist p.grid) 0 (List.replicate 4 ([], 0, 0)) then some 6
  else none

/-- Two segments share a byte. -/
def segmentsOverlap (a b : Segment) : Bool :=
  a.start.toNat < b.start.toNat + b.length && b.start.toNat < a.start.toNat + a.length

/-- The pairs of a list, each once. -/
def pairsOf {α : Type} : List α → List (α × α)
  | [] => []
  | a :: r => r.map (fun b => (a, b)) ++ pairsOf r

/-- R277 is broken. `entries` and `regs` are the packet's, or every variant's. -/
def travelFault (p : LaunchPacket) (m : SegMap) (entries : List PC) (regs shared spill : List Nat) : Bool :=
  let segs := m.segments
  let reps := segs.flatMap (·.replicas)
  !m.good || segs.any (fun g => regs.any fun r => r < g.limit)
  || (pairsOf segs).any (fun q => segmentsOverlap q.1 q.2)
  || reps.eraseDups.length != reps.length
  || entries.any (fun e => !segs.any fun g => g.start.toNat ≤ e.toNat && e.toNat < g.start.toNat + g.length)
  || shared.any (· != 0) || spill.any (· != 0) || p.consist != 1 || p.grid > 2 ^ 22
  || segs.any fun g => g.ooff + g.ocap * g.recordSize > p.diestore

/-- An eligible die (14 R332). -/
def State.eligible (s : State) (l : Launch) (d : Nat) : Bool :=
  let held := s.allocs.any fun a => a.die == d && a.launch == some l.id
  l.packet.diemask.testBit d && s.online d && s.effCores l.node d ≥ 1
  && (s.logicalOrder d).any (fun c => !(s.effExcl l.node d).testBit c)
  && (held || s.dsFits l.node d (roundUp l.packet.diestore 65536))

/-- The dies a launch takes; none where there are fewer than MINDIE, or a replica is no logical core of them (14 R332). -/
def State.chooseDies (s : State) (l : Launch) : Option (List Nat) :=
  let ds := ((List.range 8).filter (s.eligible l)).take l.packet.maxdie
  let n := (s.logicalCores ds).length
  if ds.length < l.packet.mindie || l.segments.any (fun g => g.replicas.any fun c => n ≤ c) then none else some ds

/-! ### The deal -/

/-- One placement of the deal: the next workgroup by its position, or the next consist by its (14 R345, R346). -/
def State.dealOne (s : State) (id : Nat) : Option State :=
  match s.launch? id with
  | none => none
  | some l =>
    if l.nextWg ≥ l.total then none
    else if l.packet.consist ≥ 2 then
      let n := l.dies.length
      let pos := l.nextWg / l.packet.consist % (9 * n)
      match l.dies[pos % n]? with
      | none => none
      | some d => s.offerCluster id d (pos / n)
    else
      let cores := s.dealCores l
      match cores[l.nextWg % cores.length]? with
      | none => none
      | some (d, c) => s.offerCore id d c

/-- The deal goes on until a workgroup finds no room. -/
def State.dealAll (id : Nat) : Nat → State → State
  | 0, s => s
  | f + 1, s => match s.dealOne id with
    | none => s
    | some t => State.dealAll id f t

/-- More placements than the cores of a package can hold. -/
def dealTurns : Nat := 20000

/-- Every workgroup is placed by the deal. -/
def State.dealsWhole (s : State) (id : Nat) : Bool :=
  (((s.dealAll id dealTurns).launch? id).map fun l => decide (l.total ≤ l.nextWg)).getD false

/-- The dies of a launch with nothing on them, for order 12 of Table 14-9. -/
def State.emptied (s : State) (l : Launch) : State :=
  { s with warps := s.warps.filter (fun w => !l.dies.contains w.die), wgs := s.wgs.filter (fun g => !l.dies.contains g.die),
           allocs := s.allocs.filter fun a => !l.dies.contains a.die || a.launch.isNone }

/-- A resident launch fits its dies when they are empty (14 Table 14-9, order 12). -/
def State.residentFits (s : State) (l : Launch) : Bool :=
  let t := s.emptied l
  !l.packet.resident
  || ({ t with launches := t.launches.filter (fun m => m.id != l.id) ++ [{ l with nextWg := 0 }] } : State).dealsWhole l.id

/-! ### Ends before a placement -/

/-- A launch ends FAILED with a reason of Table 1-7 and a FIELD. -/
def Launch.failed (l : Launch) (reason fld : Nat) : Launch :=
  { l with failReason := reason, failField := fld, killed := true, total := l.nextWg, phase := .waiting }

/-- Validation in the order of Table 14-9 (14 R331): the launch waiting for its placement, or failed. -/
def State.validate (s : State) (l : Launch) (packet : Option (List Byte)) : State × Launch :=
  let asid := s.effAsid l.node
  match packet with
  | none => (s, l.failed 6 0xFF)
  | some b =>
    let p := parsePacket b
    let l := { l with packet := p, phase := .waiting, entry := p.entry, regs := p.regs, shared := p.shared, spill := p.spill,
                      total := p.grid }
    let (s, th) := if p.timetable = 0 then (s, some []) else s.frontRead asid p.timetable.toNat 16
    let nv := match th with
      | some h => min (field h 2 2) 8
      | none => 0
    let (s, tb) := if nv = 0 then (s, some []) else s.frontRead asid (p.timetable.toNat + 16) (32 * nv)
    let (s, mh) := if p.segmap = 0 || !p.travel then (s, some []) else s.frontRead asid p.segmap.toNat 16
    let ns := match mh with
      | some h => min (field h 2 2) 64
      | none => 0
    let (s, mb) := if ns = 0 then (s, some []) else s.frontRead asid (p.segmap.toNat + 16) (32 * ns)
    match th, tb, mh, mb with
    | some th, some tb, some mh, some mb =>
      let tt := if p.timetable = 0 then none else some (parseTimetable th tb)
      match packetFault p l (s.negotiated.getD 1 0) tt with
      | some off => (s, l.failed 6 off)
      | none =>
        let vs : List Variant := match tt with
          | none => []
          | some t => t.variants
        let m := parseSegMap mh mb
        let l := { l with timetable := vs, sizeAddr := (tt.map (·.sizeAddr)).getD 0, segments := if p.travel then m.segments else [] }
        match tooLarge p p.regs p.shared p.spill with
        | some code => (s, l.failed 16 code)
        | none =>
          if p.travel && travelFault p m (if vs.isEmpty then [p.entry] else vs.map (·.entry))
              (if vs.isEmpty then [p.regs] else vs.map (·.regs)) (p.shared :: vs.map (·.shared)) (p.spill :: vs.map (·.spill)) then
            (s, l.failed 16 7)
          else if vs.any fun v => (tooLarge p v.regs v.shared v.spill).isSome then (s, l.failed 16 8)
          else match s.chooseDies l with
            | none => (s, l.failed 17 0)
            | some ds =>
              let l := { l with dies := ds }
              if vs.isEmpty && !s.residentFits l then (s, l.failed 18 0) else (s, l)
    | _, _, _, _ => (s, l.failed 6 0xFF)

/-! ### Queues -/

/-- A queue descriptor that may be served, as read: ring base, its size in packets, TAIL and HEAD (14 R327). -/
def queueOf (b : List Byte) : Option (Nat × Nat × Nat × Nat) :=
  let c := field b 8 4
  if c / 2 ^ 31 = 1 && c / 32 % 2 ^ 26 = 0 && c % 32 ≤ 16 && field b 0xC 4 = 0 && field b 0 8 % 128 = 0 then
    some (field b 0 8, 2 ^ (c % 32), field b 0x10 8, field b 0x18 8)
  else none

/-- A launch is uncompleted. -/
def Launch.open_ (l : Launch) : Bool := l.phase != .ended

/-- A validated launch takes its place among the held ones; an ended one of the same id is forgotten. -/
def State.holdLaunch (s : State) (l : Launch) : State :=
  { s with launches := (s.launches.filter fun m => m.id != l.id) ++ [l] }

/-- A queue that has given every packet is not looked at again before its next SUBMIT (14 R327; 20 R414). -/
def State.unsubmit (s : State) (node queue : Nat) : State :=
  { s with submitted := s.submitted.filter fun p => !(p.node == node && p.queue == queue) }

/-- The queue descriptor of an active region, as the distributor reads it: none where it is not served (14 R327). -/
def State.readQueue (s : State) (node queue : Nat) : State × Option (Nat × Nat × Nat × Nat) :=
  match s.region? node with
  | none => (s, none)
  | some r =>
    if r.st ≠ 1 || r.qtable = 0 then (s, none)
    else
      let (t, b) := s.frontRead (s.effAsid node) (r.qtable.toNat + 32 * queue) 32
      (t, b.bind queueOf)

/-- A SUBMIT has the distributor reread its queue's descriptor and take packets, from then on or, where the queue is not served
now, once it is: enabled, its region active, its descriptor corrected (14 R327; 20 R414, R415). -/
def State.submit (s : State) (node queue : Nat) (p : Past) : State :=
  let t := (s.readQueue node queue).1.unsubmit node queue
  { t with submitted := t.submitted ++ [⟨node, queue, p⟩] }

/-- QUEUE_PACKET_TAKE (14 R327, R331): the next packet of a submitted queue is taken and validated. A queue that is not served
now, or whose region is not active, takes none and goes on once it is. -/
def execEvQueuePacketTake (node queue : Nat) (s : State) : Result :=
  match s.submitted.find? fun p => p.node == node && p.queue == queue with
  | none => .next s
  | some q => match s.readQueue node queue with
    | (_, none) => .next s
    | (t, some (base, size, tail, head)) =>
      let id := launchId node queue head
      if head ≥ tail then .next (t.unsubmit node queue)
      else if s.launches.any fun l => l.id == id && l.open_ then .next s
      else
        let asid := s.effAsid node
        let head_ := ((s.region? node).map (·.qtable.toNat)).getD 0 + 32 * queue + 0x18
        let (t, packet) := t.frontRead asid (base + 128 * (head % size)) 128
        match t.frontWrite asid node head_ (leBytes 8 (head + 1)) 0 none with
        | none => .next s
        | some t =>
          let l : Launch := { id := id, node := node, source := queue, seq := head % 2 ^ 47, past := q.past }
          let (t, l) := t.validate l packet
          .next (t.holdLaunch l)

/-- Why a launch waits at issue: 4,096 device launches are uncompleted (14 R335), or an acquire is in flight (08 R211). -/
def State.launchWaits (s : State) (c : Ctx) : Option Nat :=
  if (s.launches.filter fun l => l.source == 16 && l.open_).length ≥ 4096 then some 5
  else if s.pendingAcquire c.w.uid c.eff then some 4 else none

/-- launch (14 R335). -/
def execLaunch (f : FormX) (s : State) : Result :=
  match s.ctx? f.guard with
  | none => .next s
  | some c =>
    let x := f.xa.toNat; let tk := f.dst.toNat
    if c.eff = 0 then .next (s.finish c c.w)
    else match c.deadRead [x, x + 1] with
      | some r => .next (s.trapHere c 6 (BitVec.ofNat 64 r))
      | none =>
        if (s.launchWaits c).isSome then .next s.wait
        else
          let t := s.overwriteTicket c.w.uid tk
          let l : Launch :=
            { id := launchId c.l.node 16 s.devSeq, node := c.l.node, source := 16, seq := s.devSeq, phase := .reading,
              address := c.w.pair x c.low, issuer := some (c.w.uid, s.fresh, c.eff), carried := c.w.clock,
              past := c.w.pastOf c.eff s.fresh }
          let w := (c.w.setTicket tk (ticketVal 1 0 3 8 0 s.devSeq)).kill c.full (FormX.marked f [(0, x, 2)]) []
          let t : State := { t.holdLaunch l with devSeq := (s.devSeq + 1) % 2 ^ 40, fresh := s.fresh + 1 }
          .next (t.finish c w)

/-- DEVICE_LAUNCH_READ (14 R335): after its wait the packet is read once and validated. -/
def execEvDeviceLaunchRead (seq : Nat) (s : State) : Result :=
  match s.launches.find? fun l => l.source == 16 && l.seq == seq && l.phase == .reading with
  | none => .next s
  | some l => match l.issuer with
    | none => .next s
    | some (uid, n, m) =>
      if l.cancelled || !s.acknowledged uid n m then .next s
      else
        let l := { l with carried := max l.carried (((s.warp? uid).map (·.clock)).getD 0) }
        let (t, packet) := s.frontRead (s.effAsid l.node) l.address.toNat 128
        let (t, l) := t.validate l packet
        .next (t.putLaunch l)

/-! ### Placement -/

/-- A producer has completed as far as a launch's placement goes (14 R333). -/
def State.producerDone (s : State) (l : Launch) (p : Nat) : Bool :=
  match s.launch? p with
  | some q => q.phase == .ended
  | none => p / 2 ^ 47 == l.id / 2 ^ 47 && l.source < 16

/-- R333 lets a launch be placed. -/
def State.startable (s : State) (l : Launch) : Bool :=
  let early := if l.packet.earlyStart then l.predecessor else none
  (match l.predecessor with
   | none => true
   | some q => match s.launch? q with
     | none => true
     | some p => p.phase == .ended || (early == some q && p.placed && p.nextWg ≥ p.total && p.saved.isEmpty))
  && l.producers.all fun p => early == some p || s.producerDone l p

/-- The ended launches that R333 has held a launch back for. -/
def State.heldFor (s : State) (l : Launch) : List Launch :=
  s.launches.filter fun p => (l.producers ++ l.predecessor.toList).contains p.id && p.phase == .ended

/-- The launch stamp before the first placement (16 R357). -/
def State.heldStamp (s : State) (l : Launch) : Stamp := (s.heldFor l).foldl (fun a p => max a p.stampEnd) l.carried

/-- What lies before a launch's threads: with what its packet came after, the completions that it was held back for (14 R333,
R334). -/
def State.heldPast (s : State) (l : Launch) : Past := (s.heldFor l).foldl (fun a p => joinPast (joinPast a p.past) p.endPast) l.past

/-- The variant of a timetable the size word picks (14 R343), read as an acquire (R342), whose clock passes to the step's threads
(16 R358); a launch that finds none fails. -/
def State.chooseVariant (s : State) (l : Launch) : State × Launch :=
  if l.timetable.isEmpty then (s, l)
  else match s.frontRead (s.effAsid l.node) l.sizeAddr.toNat 4 with
    | (t, none) => (t, l.failed 6 0xFF)
    | (t, some b) => match l.timetable.find? fun v => leNat b ≤ v.cls with
      | none => (t, l.failed 16 8)
      | some v =>
        let ys := s.frontHears frontParty (s.effAsid l.node) l.sizeAddr.toNat 4
        (t, { l with entry := v.entry, regs := v.regs, shared := v.shared, spill := v.spill, past := joinPast l.past (pastOf ys),
                     stamp := max l.stamp (stampOf ys), carried := max l.carried (stampOf ys) })

/-- The dies stand: those chosen, or a fresh choice once one of them is not online (14 R332; 19 R402). -/
def State.settleDies (s : State) (l : Launch) (afresh : Bool) : Launch :=
  if !afresh && l.dies.all s.online then l
  else match s.chooseDies l with
    | none => l.failed 17 0
    | some ds => { l with dies := ds }

/-- Queues of a travel launch's replicas (11 R278, R281). -/
def State.openQueues (s : State) (l : Launch) : State :=
  let cores := s.logicalCores l.dies
  let qs := l.segments.zipIdx.flatMap fun g => g.1.replicas.filterMap fun c => (cores[c]?).map fun p =>
    (ArrivalQueue.mk l.id c p.1 p.2 g.2 [])
  { s with queues := (s.queues.filter fun q => q.launch != l.id) ++ qs }

/-- A launch made ready for its first placement, or for that of a step (14 R332, R342, R343; Table 14-9, order 12): running, or
failed. A resident one that has chosen its dies or its variant since its validation must fit them. -/
def State.prepare (s : State) (l : Launch) (afresh : Bool) : State × Launch :=
  let (s, l) := s.chooseVariant l
  if l.killed then (s, l)
  else
    let was := l.dies
    let l := s.settleDies l afresh
    if l.killed then (s, l)
    else if (afresh || l.dies != was || !l.timetable.isEmpty) && !s.residentFits l then (s, l.failed 18 0)
    else (s, { l with
      phase := .running
      stamp := if l.placed then l.stamp else s.heldStamp l
      past := if l.placed then l.past else s.heldPast l })

/-- Where refill offers a launch's pending work, in its order: cores, or clusters by position (14 R347). -/
def State.places (s : State) (l : Launch) : List (Nat × Nat) :=
  if l.packet.consist ≥ 2 then (List.range 9).flatMap fun j => l.dies.map fun d => (d, j)
  else if l.saved.isEmpty then s.dealCores l else s.logicalCores l.dies

/-- The next pending work of a launch placed there, if there is room. -/
def State.offerAt (s : State) (l : Launch) (p : Nat × Nat) : Option State :=
  if l.packet.consist ≥ 2 then s.offerCluster l.id p.1 p.2 else s.offerCore l.id p.1 p.2

/-- A place of a launch lies among the freed cores. -/
def State.freedAt (s : State) (l : Launch) (p : Nat × Nat) : Bool :=
  if l.packet.consist ≥ 2 then s.freed.any fun x => x.1 == p.1 && x.2 / 4 == p.2 else s.freed.contains p

/-- Refill: the next pending work goes to the first core on which room has freed, else to the first that lacked room when the
launch was last served and has it now (14 R347; log 36). -/
def State.refillOne (s : State) (l : Launch) : Option State :=
  let ps := s.places l
  (ps.filter (s.freedAt l) ++ ps.filter fun p => !l.roomy.contains p && !s.freedAt l p).findSome? (s.offerAt l)

/-- The launch as its turn finds it: one never placed is made ready, with its queues in travelling-thread mode. -/
def State.turnStart (s : State) (l : Launch) : State × Launch :=
  if l.phase = .waiting then
    let (t, m) := s.prepare l false
    if m.killed then (t.putLaunch m, m) else ((t.putLaunch m).openQueues m, m)
  else (s, l)

/-- One turn of a launch (14 R338): the deal goes on by one workgroup or consist, a resident launch is dealt whole, refill places
one, or a launch that cannot be placed fails; none where the next finds no room. -/
def State.turnOf (s : State) (l : Launch) : Option State :=
  let (t, m) := s.turnStart l
  if m.killed then some t
  else if m.suspended && m.saved.isEmpty then some (t.unsuspend m)
  else if m.packet.resident && m.nextWg = 0 && m.saved.isEmpty then
    if t.dealsWhole m.id then some (t.dealAll m.id dealTurns) else none
  else if m.dealt then t.refillOne m
  else t.dealOne m.id

/-- A launch with pending work that may be placed now (14 R333, R338). Of one that has lost a die, the saved workgroups and a
suspended travel launch's records survive and run on (19 R402; log 38). -/
def State.servable (s : State) (l : Launch) : Bool :=
  let active := ((s.region? l.node).map (·.st)).getD 0 == 1
  let left := l.nextWg < l.total || !l.saved.isEmpty || l.suspended
  active && !l.killed && !l.cancelled && !(l.dieLost && l.saved.isEmpty && !l.suspended) && !l.halted && left && match l.phase with
    | .waiting => s.startable l
    | .running => true
    | _ => false

/-- The source of a launch in the rotation of R338. -/
def Launch.turnKey (l : Launch) : Nat := l.node * 17 + l.source

/-- Launches in the order they are served: descending effective priority, equal ones in the rotation of R338 that starts
after the source last served; the device launches of one source take its turns in turn. -/
def State.served (s : State) : List Launch :=
  sortBy (fun (l : Launch) =>
      ((7 - s.effPrio l.node) * 4096 * 17 + (l.turnKey + 4096 * 17 - s.rotation) % (4096 * 17)) * (s.turns + 1) + l.turn)
    (s.launches.filter s.servable)

/-- Turns until no launch finds room. -/
def State.serveAll : Nat → State → State
  | 0, s => s
  | f + 1, s => match s.served.findSome? fun l => (s.turnOf l).map fun t => (t, l.turnKey, l.id) with
    | none => s
    | some (t, k, id) =>
      let n := t.turns + 1
      State.serveAll f ({ t with rotation := (k + 1) % (4096 * 17), turns := n }.modLaunch id fun l => { l with turn := n })

/-- After the turns of a cycle, the deal of a launch with work pending is over (14 R345, R346): refill will offer it only room
that frees from now on. -/
def State.lookAround (s : State) (l : Launch) : Launch :=
  let l' := { l with starved := if l.starved = 0 then s.cycle else l.starved }
  if l.packet.resident && l.nextWg = 0 && l.saved.isEmpty then l'
  else
    let (t, m) := s.turnStart l
    { l' with dealt := true,
              roomy := (if l.dealt then l.roomy else t.places m).filter fun p => (t.offerAt m p).isSome }

/-- The launches with pending work are served (14 R338, R345 to R347). -/
def State.serve (s : State) : State :=
  let t := State.serveAll dealTurns s
  { t with freed := [], launches := t.launches.map fun l => if t.servable l then t.lookAround l else l }

/-- DEAL (14 R333, R338, R345 to R347): the distributor serves the launches that have work to place. -/
def execEvDeal (launch : Nat) (s : State) : Result :=
  match s.launch? launch with
  | none => .next s
  | some l => if s.servable l then .next s.serve.stabilise else .next s

/-! ### Completion -/

/-- A launch's workgroups have all ended (14 R330, R342). -/
def State.wgsEnded (s : State) (l : Launch) : Bool :=
  l.nextWg ≥ l.total && l.saved.isEmpty && !s.wgs.any fun g => g.launch == l.id && !g.done

/-- No record of a travel launch is on its way (11 R286). -/
def State.noRecords (s : State) (l : Launch) : Bool :=
  !s.stages.any (fun d => d.launch == l.id) && !s.queues.any (fun q => q.launch == l.id && !q.records.isEmpty)
  && l.segments.all (·.overflow.isEmpty)

/-- Every access of a launch has been performed. -/
def State.accessesDone (s : State) (l : Launch) : Bool :=
  !s.accesses.any fun a => a.launch == l.id && a.op != .frontWrite 0

/-- A step boundary follows (14 R342). -/
def Launch.stepDue (l : Launch) : Bool := l.stepped && !l.packet.travel && !l.killed && !l.cancelled && !l.dieLost

/-- A launch's engine operations have ended. -/
def State.opsDone (s : State) (l : Launch) : Bool :=
  !s.copies.any (fun c => c.launch == l.id) && !s.lineOps.any (fun o => o.launch == l.id)

/-- The launch completes now (14 R330). -/
def State.completes (s : State) (l : Launch) : Bool :=
  l.open_ && (l.phase == .running || l.killed || l.cancelled) && s.wgsEnded l && !l.stepDue && s.noRecords l && s.accessesDone l
  && s.opsDone l

/-- State, reason and FIELD of the status word (14 Table 14-8; 19 R402). -/
def Launch.outcome (l : Launch) : Nat × Nat × Nat :=
  if l.dieLost then (2, 7, 0)
  else if l.cancelled then (3, 8, 0)
  else if l.killed then (2, l.failReason, l.failField)
  else (0, 0, 0)

/-- The status word. -/
def Launch.statusWord (l : Launch) : Nat :=
  let o := l.outcome
  o.1 * 2 ^ 30 + o.2.1 % 64 * 2 ^ 24 + o.2.2 % 256 * 2 ^ 16 + (if l.dieLost then 0 else l.cause % 256 * 2 ^ 8)

/-- The completion record is written: bytes 0x10 to 0x3F, then bytes 0x00 to 0x0F as a release at .sys (14 R330, Table 14-7);
a write that faults is dropped and counted. -/
def State.writeRecord (s : State) (l : Launch) (stamp : Stamp) : State :=
  if l.packet.complete = 0 then s
  else
    let asid := s.effAsid l.node
    let tail := leBytes 8 stamp ++ leBytes 4 l.diesLost ++ leBytes 4 l.step ++ List.replicate 32 (0 : Byte)
    let head := leBytes 8 l.id ++ leBytes 4 l.statusWord ++ leBytes 4 l.killedWgs
    match s.frontWrite asid l.node (l.packet.complete.toNat + 0x10) tail stamp none with
    | none => s.logged (.droppedCompletion l.id)
    | some t => match t.frontWrite asid l.node l.packet.complete.toNat head stamp (some (pastAdd (joinPast l.past l.endPast) frontParty.thread t.fresh)) with
      | none => s.logged (.droppedCompletion l.id)
      | some t => t

/-- LAUNCH_COMPLETION (14 R330, R335; 13 R295; 16 R357). -/
def execEvLaunchCompletion (launch : Nat) (s : State) : Result :=
  match s.launch? launch with
  | none => .next s
  | some l =>
    if !s.completes l then .next s
    else
      let stamp := max s.tick l.endStamp
      let t := s.writeRecord l stamp
      let t := t.putLaunch { l with phase := .ended, status := some l.statusWord, stampEnd := stamp }
      let t : State := { t with allocs := t.allocs.filter (fun a => a.launch != some launch),
                                queues := t.queues.filter (fun q => q.launch != launch) }
      let o := l.outcome
      let t := if l.source = 16 then
          t.endTicket { kind := 3, die := 8, unit := 0, seq := l.seq, state := o.1, reason := o.2.1, stamp := stamp,
                        past := joinPast l.past l.endPast }
        else t
      .next (t.stabilise)

/-- STEP_BOUNDARY (14 R342, R343; 13 R296): once everything the step did is done, the variant and the dies are chosen afresh,
and the grid is dealt again in the next step. Dies that are withdrawn lose their allocations. -/
def execEvStepBoundary (launch : Nat) (s : State) : Result :=
  match s.launch? launch with
  | none => .next s
  | some l =>
    if l.phase != .running || !l.stepDue || !s.wgsEnded l || !s.accessesDone l || !s.opsDone l then .next s
    else
      let l := { l with stepped := false, nextWg := 0, total := l.packet.grid, barcBroken := [], pbarReady := [],
                        starved := 0, hinted := false, stamp := max l.stamp l.endStamp, past := joinPast l.past l.endPast, dealt := false, roomy := [] }
      let (t, m) := s.prepare l true
      let m := if m.killed then m else { m with step := m.step + 1 }
      let t : State := t.putLaunch m
      .next { t with allocs := t.allocs.filter fun a => a.launch != some launch || m.dies.contains a.die }.serve.stabilise

/-- PREEMPTION_HINT (14 R338): 10,000 cycles without a placement while lower-priority workgroups hold cores of its dies. -/
def execEvPreemptionHint (launch lower : Nat) (s : State) : Result :=
  match s.launch? launch, s.launch? lower with
  | some l, some m =>
    let pending := l.phase != .ended && !l.killed && !l.cancelled && (l.nextWg < l.total || !l.saved.isEmpty)
    let holds := s.wgs.any fun g => g.launch == lower && !g.done && l.dies.contains g.die
    if pending && !l.hinted && l.starved ≠ 0 && s.cycle ≥ l.starved + 10000 && s.effPrio m.node < s.effPrio l.node && holds then
      .next ((s.logged (.hint launch lower)).modLaunch launch fun l => { l with hinted := true })
    else .next s
  | _, _ => .next s

/-! ### Dependences -/

/-- trigger (14 R336): the effective lanes are marked once their earlier accesses are acknowledged. -/
def execTrigger (f : FormV) (s : State) : Result :=
  match s.ctx? f.guard with
  | none => .next s
  | some c =>
    let new := (lanesOf c.eff).filter fun i => !c.w.triggered.getLsbD i && !c.w.trigWait.any fun t => t.lane == i
    let t := s.finish c { c.w with trigWait := c.w.trigWait ++ new.map fun i => ⟨i, s.fresh, c.w.pastAt i s.fresh⟩ }
    .next ({ t with fresh := t.fresh + 1 }.settleTriggers c.w.uid)

/-- Every workgroup of a producer has triggered, exited with its accesses performed, or been killed, and all are placed (14
R336, R337). -/
def State.producerTriggered (s : State) (l : Launch) (p : Nat) : Bool :=
  match s.launch? p with
  | none => p / 2 ^ 47 == l.id / 2 ^ 47 && l.source < 16
  | some q =>
    q.phase == .ended
    || (q.phase == .running && q.nextWg ≥ q.total && q.saved.isEmpty && !q.stepDue && s.noRecords q
      && (s.warps.filter fun w => w.launch == p).all (fun w => w.living &&& ~~~w.triggered == 0)
      && !s.accesses.any fun a => a.launch == p && !a.op.reads && a.op != .frontWrite 0 && match s.warp? a.warp with
        | none => true
        | some w => a.lanes.any fun x => !w.living.getLsbD x.lane)

/-- waitdep's value: no producer ended FAILED or CANCELLED, none lost workgroups (14 R337; 19 R401). -/
def State.producersGood (s : State) (l : Launch) : Bool :=
  l.producers.all fun p => match s.launch? p with
    | none => true
    | some q => q.killedWgs == 0 && !q.dieLost && !(q.phase == .ended && q.outcome.1 != 0)

/-- The largest trigger clock among the producers (16 Table 16-2). -/
def State.triggerClock (s : State) (l : Launch) : Stamp :=
  (s.launches.filter fun p => l.producers.contains p.id).foldl (fun a p => max a p.trigClock) 0

/-- What lies before the triggers and exits of the producers' threads (14 R337). -/
def State.triggerPast (s : State) (l : Launch) : Past :=
  (s.launches.filter fun p => l.producers.contains p.id).foldl (fun a p => joinPast a p.trigPast) []

/-- What a returning waitdep writes; it is an acquire at .dev. -/
def Warp.takeDeps (w : Warp) (pd : Nat) (eff : Mask) (good : Bool) (clock : Stamp) (p : Past) : Warp :=
  ((w.setPred pd eff (if good then BitVec.allOnes 32 else 0)).merge clock).lookAll eff p

/-- waitdep (14 R337). -/
def execWaitdep (f : FormV) (s : State) : Result :=
  match s.ctx? f.guard with
  | none => .next s
  | some c =>
    let pd := f.dst.toNat
    if c.eff = 0 then .next (s.finish c c.w)
    else if c.l.producers.all (s.producerTriggered c.l) then
      .next (s.finish c (c.w.takeDeps pd c.eff (s.producersGood c.l) (s.triggerClock c.l) (s.triggerPast c.l)))
    else .next (s.blockHere c (.deps pd c.eff))

/-- WAITDEP_RELEASE (14 R337). -/
def execEvWaitdepRelease (wid entry : Nat) (s : State) : Result :=
  match s.warp? wid with
  | none => .next s
  | some w => match s.launch? w.launch with
    | none => .next s
    | some l =>
      let x := w.entry entry
      match x.st, x.wait with
      | .block, .deps pd eff =>
        if l.producers.all (s.producerTriggered l) then
          .next (s.resume wid entry fun w => w.takeDeps pd eff (s.producersGood l) (s.triggerClock l) (s.triggerPast l))
        else .next s
      | _, _ => .next s

/-- segq (11 R288): OPS[75] selects the segment pinned on the issuing core. -/
def execSegq (f : FormX) (s : State) : Result :=
  match s.ctx? f.guard with
  | none => .next s
  | some c =>
    let x := f.xa.toNat; let d := f.dst.toNat
    let here := f.opsAt 75 75 == 1
    match c.deadRead (if here then [] else [x]) with
    | some r => .next (s.trapHere c 6 (BitVec.ofNat 64 r))
    | none =>
      let seg := if here then s.pinnedOn c.l c.w.die c.w.core else some (c.w.lane x c.low).toNat
      let v : Word := match seg with
        | some n => s.segWord c.l n
        | none => 0xFFFFFFFF
      let w := c.w.writeResult d false c.eff c.full (here || (c.w.reg x).countsU) none fun _ => v.setWidth 64
      .next (s.finish c (w.kill c.full (FormX.marked f [(0, x, if here then 0 else 1)]) [d]))

end Sys2Proof.Machine
end

