-- ==== Sys2Proof/Machine/Tickets.lean ====
section
/-! DEFINITION. Machine/Tickets.lean: ticket instructions and the resolution of a loaded ticket (01 R37 to R39; 09 R254 to
R258). -/

namespace Sys2Proof.Machine

/-- tkwait (09 R254): it blocks while its ticket is PENDING. The end that wakes it merges its stamp (16 Table 16-2); its return
is an acquire. -/
def execTkwait (f : FormX) (s : State) : Result :=
  match s.ctx? f.guard with
  | none => .next s
  | some c =>
    if c.eff = 0 then .next (s.finish c c.w)
    else if tkState (c.w.ticket f.dst.toNat) = 1 then .next (s.blockHere c (.ticket f.dst.toNat c.eff))
    else .next (s.finish c (c.w.sawEnd c.eff f.dst.toNat (s.endRecord? (c.w.ticket f.dst.toNat))))

/-- The ticket status word (09 Table 9-8): DETAIL comes from the unit's end record while it is held. -/
def State.ticketWord (s : State) (t : DWord) : Word :=
  let detail := if tkState t = 1 then 0 else match s.endRecord? t with
    | some r => r.detail
    | none => 0
  BitVec.ofNat 32 (tkState t * 2 ^ 30 + tkReason t * 2 ^ 24 + detail % 2 ^ 24)

/-- tktest (09 R255); a test that sees a state other than PENDING is an acquire (R254). -/
def execTktest (f : FormX) (s : State) : Result :=
  match s.ctx? f.guard with
  | none => .next s
  | some c =>
    let v := s.ticketWord (c.w.ticket f.xa.toNat)
    let w := if c.eff = 0 || tkState (c.w.ticket f.xa.toNat) = 1 then c.w
      else c.w.sawEnd c.eff f.xa.toNat (s.endRecord? (c.w.ticket f.xa.toNat))
    .next (s.finish c (w.writeResult f.dst.toNat false c.eff c.full true none fun _ => v.setWidth 64))

/-- The launch a ticket names. -/
def Launch.named (l : Launch) (t : DWord) : Bool :=
  tkKind t == 3 && tkDie t == 8 && tkUnit t == 0 && l.source == 16 && l.open_ && l.seq % 2 ^ 40 == tkSeq t

/-- A launch killed by tkcancel completes CANCELLED; its workgroups count as none that a policy, a region kill or a lost die
removed (14 R335, Table 14-7). -/
def State.cancelLaunch (s : State) (l : Launch) : State :=
  if l.killed || l.dieLost then s
  else (s.killLaunch l.id 0 8).modLaunch l.id fun m => { m with cancelled := true, killedWgs := l.killedWgs }

/-- tkcancel's effect on a PENDING ticket (09 R257; 14 R335; 18 R392): a copy is asked to stop; a board, replace or catch that
has not been written ends CANCELLED; a launch is killed. -/
def State.cancelTicket (s : State) (t : DWord) : State :=
  let s : State := { s with copies := s.copies.map fun c => if c.named t then { c with cancel := true } else c }
  let s : State := s.endLineOps (fun o => o.named t && o.op != .alight) 3 8
  match s.launches.find? fun l => l.named t with
  | some l => s.cancelLaunch l
  | none => s

/-- tkcancel (09 R257). -/
def execTkcancel (f : FormX) (s : State) : Result :=
  match s.ctx? f.guard with
  | none => .next s
  | some c =>
    let t := c.w.ticket f.dst.toNat
    if c.eff = 0 || tkState t ≠ 1 then .next (s.finish c c.w)
    else
      let u := s.finish c c.w
      .next (State.stabilise (u.cancelTicket t))

/-- tkget (09 R258). -/
def execTkget (f : FormX) (s : State) : Result :=
  match s.ctx? f.guard with
  | none => .next s
  | some c =>
    let t := c.w.ticket f.xa.toNat
    .next (s.finish c (c.w.writeResult f.dst.toNat true c.eff c.full true none fun _ => t))

/-- A ticket names a unit (01 R38). -/
def validUnit (t : DWord) : Bool :=
  (tkKind t == 1 && tkDie t < 8 && tkUnit t < 3) || (tkKind t == 2 && tkDie t < 8 && tkUnit t == 0)
  || (tkKind t == 3 && tkDie t == 8 && tkUnit t == 0)

/-- A ticket with a state and reason. -/
def withState (t : DWord) (st reason : Nat) : DWord := ticketVal st reason (tkKind t) (tkDie t) (tkUnit t) (tkSeq t)

/-- tkset (01 R38; 09 R258): a PENDING value that names no unit becomes FAILED, FAULT; one that names a unit is resolved. -/
def execTkset (f : FormX) (s : State) : Result :=
  match s.ctx? f.guard with
  | none => .next s
  | some c =>
    let n := f.dst.toNat; let src := f.xa.toNat
    if c.eff = 0 then .next (s.finish c c.w)
    else match c.deadRead [src, src + 1] with
      | some r => .next (s.trapHere c 6 (BitVec.ofNat 64 r))
      | none =>
        let v := c.w.pair src c.low
        let pending := tkState v == 1
        let v' := if pending && !validUnit v then withState v 2 6 else v
        let t := s.overwriteTicket c.w.uid n
        let t : State := if pending && validUnit v then { t with resolving := t.resolving ++ [(c.w.uid, n)] } else t
        .next (t.finish c ((c.w.setTicket n v').kill c.full (FormX.marked f [(0, src, 2)]) []))

/-- An operation a ticket names is in progress. -/
def State.inProgress (s : State) (t : DWord) : Bool :=
  s.copies.any (·.named t) || s.lineOps.any (·.named t) || s.launches.any (·.named t)

/-- TICKET_RESOLVE (01 R38): the unit answers from its end records and its operations in progress; a unit that holds neither,
or whose die is not ONLINE, answers FAILED, FAULT. -/
def execEvTicketResolve (wid reg : Nat) (s : State) : Result :=
  match s.warp? wid with
  | none => .next s
  | some w =>
    if !s.resolving.contains (wid, reg) then .next s
    else
      let t := w.ticket reg
      let s1 : State := { s with resolving := s.resolving.filter fun r => r != (wid, reg) }
      if tkState t ≠ 1 then .next s1
      else if tkDie t < 8 && !s.online (tkDie t) then .next (State.stabilise (s1.putWarp (w.setTicket reg (withState t 2 6))))
      else match s.endRecord? t with
        | some r => .next (State.stabilise (s1.putWarp { (w.setTicket reg (withState t r.state r.reason)).merge r.stamp with endPasts := tset w.endPasts reg r.past }))
        | none =>
          if s.inProgress t then .next s1
          else .next (State.stabilise (s1.putWarp (w.setTicket reg (withState t 2 6))))

end Sys2Proof.Machine
end

