-- ==== Sys2Proof/Machine/TravelEvents.lean ====
section
/-! DEFINITION. Machine/TravelEvents.lean: the shipping of thread records and the formation of warps (11 R279 to R287). -/

namespace Sys2Proof.Machine

/-- Turns of a segment's overflow area. -/
def overflowTurns : Nat := 4096

/-- An access of a copy, a station or the front die, which no thread performs. -/
def AccOp.engine : AccOp → Bool
  | .copyRead _ | .copyWrite _ | .frontWrite _ | .pageMove => true
  | _ => false

/-- A departed lane's earlier accesses are answered: its stores, atomics and reductions are performed, and its record holds
every value it had (11 R279, R280). -/
def State.departed (s : State) (d : Departure) : Bool :=
  !s.accesses.any fun a => a.warp == d.warp && !a.op.engine && a.lanes.any fun x => x.lane == d.lane

/-- A launch is halted for a save, or its queues and stages are saved (11 R289). -/
def State.halted (s : State) (id : Nat) : Bool := ((s.launch? id).map fun l => l.halted || l.suspended).getD false

/-- A staged record can ship. -/
def State.shippable (s : State) (d : Departure) : Bool := s.departed d && !s.halted d.launch

/-- THREAD_RECORD_SHIP (11 R279 to R281, R287): a staged record enters a queue of its segment or the overflow area, older
overflow records first; one that finds no room is SEGMENT_OVERFLOW. Of a launch's records that can ship, the lowest thread id
goes first (R281); those of one cycle choose in ascending thread id, once all of it have departed (12 R292). -/
def execEvThreadRecordShip (die core tid : Nat) (s : State) : Result :=
  match s.stages.find? fun d => d.die == die && d.core == core && d.record.tid.toNat == tid && s.shippable d with
  | none => .next s
  | some d =>
    if s.cycle ≤ d.cycle
        || s.stages.any fun x => x.launch == d.launch && x.record.tid.toNat < tid && (x.cycle == d.cycle || s.shippable x) then .next s
    else
      let t := State.moveOverflow d.launch d.seg overflowTurns { s with stages := s.stages.erase d }
      match t.launch? d.launch with
      | none => .next s
      | some l => match t.ship l d.seg d.record with
        | some u => .next (u.stabilise)
        | none => .next (State.stabilise (t.faultPolicy d.launch 0 0x29))

/-- A queue of a core that can form a warp now, with the warp formed. -/
def State.formOn (s : State) (die core : Nat) : Option (State × ArrivalQueue) :=
  (s.queues.filter fun q => q.die == die && q.core == core && s.online die).findSome? fun q =>
    match s.launch? q.launch with
    | none => none
    | some l =>
      if l.halted || l.suspended || l.killed || l.phase != .running then none
      else match formable q s.cycle with
        | none => none
        | some p => (s.formWarp q l p).map fun t => (t, q)

/-- WARP_FORMATION (11 R281 to R283): a replica core forms a warp from its queue; overflow records take the freed places. -/
def execEvWarpFormation (die core : Nat) (s : State) : Result :=
  match s.formOn die core with
  | none => .next s
  | some (t, q) => .next (State.stabilise (State.moveOverflow q.launch q.seg overflowTurns t))

end Sys2Proof.Machine
end

