-- ==== Sys2Proof/Machine/Preempt.lean ====
section
/-! DEFINITION. Machine/Preempt.lean: pre-emption, saves and restores (06 R168 to R174; 07 R195; 09 R259; 11 R289; 16 R371; 18
R392). A halted launch issues nothing until its save is complete. -/

namespace Sys2Proof.Machine

/-! ### The halt -/

/-- Covered matrix arrivals, which have not started: they are abandoned (07 R195). -/
def Warp.abandoned (w : Warp) : List Group :=
  w.collectivePcs.flatMap fun pc =>
    let gs := w.collectivesAt pc
    if w.covered gs && gs.any (fun g => isMatrix g.2.2.i) then gs.map (·.2.1) else []

/-- A split in BLOCK stays there, at its instruction, whatever it waited for comes about (06 R170). -/
def Entry.halt (x : Entry) : Entry := if x.st = .block then { x with wait := .halted } else x

/-- A warp at the halt (06 R169, R170): abandoned arrivals wait to issue. -/
def Warp.halt (w : Warp) : Warp :=
  let w := { w with entries := w.entries.map Entry.halt }
  let back := w.abandoned
  w.release (fun g => back.contains g) (·.key)

/-- Sleeping splits run on at the next PC (04 R99). -/
def State.wakeSleepers (s : State) (uid : Nat) : State :=
  (List.range 8).foldl (fun s e => match s.warp? uid with
    | none => s
    | some w =>
      let x := w.entry e
      match x.st, x.wait with
      | .block, .sleep _ => (s.putWarp (w.setEntry e { x with st := .run, wait := .none })).advance uid e [(x.pc, x.mask)]
      | _, _ => s) s

/-- The workgroups saved together with one: its consist's. -/
def State.savedWith (s : State) (g : Workgroup) : List Workgroup :=
  s.wgs.filter fun h => h.launch == g.launch && h.consist == g.consist

/-- A copy with a global destination as its record keeps it: to be done from its start (09 R259). The warp that issued it, or one
that holds its ticket, keeps the record. -/
def State.copyRecord (s : State) (c : Copy) : EngineRecord :=
  let keeper := (s.warp? c.warp <|> (s.holders c.launch c.named).head?).map fun w => (w.uid, w.wg)
  let rel (k : Nat) : Nat := if c.sspace = .ds then k - c.src.start else k
  .copy { c with started := false, stall := none, writes := [], pending := [], shadows := [], fold := 0, detail := 0, endStamp := 0,
                 ending := 0, reason := 0, srcEnd := rel c.srcEnd,
                 warp := (keeper.map (·.1)).getD c.warp, wg := (keeper.map (·.2)).getD c.wg,
                 src := (match c.sspace, c.src with
                   | .ds, .key k => .key (s.dsAddress k)
                   | _, p => p) }

/-- A catch as its record keeps it (18 Table 18-6). -/
def State.catchRecord (s : State) (o : StationOp) : EngineRecord :=
  .catchTile { o with stage := .waiting, slot := 0, coach := 0, reached := 0, arrived := 0,
                      barrier := (if o.bspace = .ds then o.barrier.map s.dsAddress else o.barrier),
                      place := (match o.space, o.place with
                        | .ds, .key k => .key (s.dsAddress k)
                        | _, p => p) }

/-- A copy that a save of a launch records: a PENDING ticket names it (06 R173). -/
def State.recordsCopy (s : State) (id : Nat) (c : Copy) : Bool :=
  c.launch == id && c.dspace == .gl && c.live && !(s.holders id c.named).isEmpty
/-- A catch that a save of a launch records (18 R392): one of a workgroup that is saved. -/
def State.recordsCatch (s : State) (id : Nat) (o : StationOp) : Bool :=
  o.launch == id && o.op == .catchTile && ((s.wg? o.wg).map fun g => (s.savedWith g).any (!·.done)).getD false

/-- The die-store ranges of an operation made relative, since its place may be another after the restore. -/
def Warp.floatRanges (w : Warp) (op : Nat) (base : Nat) : Warp :=
  { w with ranges := w.ranges.map fun r =>
      if r.op = op && r.space = .ds then { r with first := r.first - base, last := r.last - base } else r }

/-- The engine operations of a launch that its save records are cancelled (06 R173; 09 R238). -/
def State.recordOps (s : State) (id : Nat) : State :=
  let cs := s.copies.filter (s.recordsCopy id); let os := s.lineOps.filter (s.recordsCatch id)
  let mine (c : Copy) : Bool := cs.any fun x => x.id == c.id
  let recs := cs.map s.copyRecord ++ os.map s.catchRecord
  let s : State := s.discardShadows (fun _ => false) (fun c => mine c && c.shd)
  let s : State := cs.foldl (fun s c => (s.dropWindow c.id).modWarp c.warp fun w => w.floatRanges c.id (match c.src with
    | .key k => k
    | .virt _ _ => 0)) s
  let s : State := os.foldl (fun s o => s.modWarp o.warp fun w => w.floatRanges o.id (match o.place with
    | .key k => k
    | .virt _ _ => 0)) s
  { s with copies := s.copies.filter fun c => !mine c, lineOps := s.lineOps.filter fun o => !os.any fun x => x.id == o.id }.modLaunch id
    fun l => { l with records := l.records ++ recs }

/-- The save blocks of a travel launch's replica cores (11 R289): a header, the areas of its saved warps, its queue records, its
stage records. -/
def State.coreBlocks (s : State) (l : Launch) : List CoreBlock :=
  let limit (seg : Nat) : Nat := (l.segments[seg]?.map (·.limit)).getD 0
  (s.queues.filter (·.launch == l.id)).map fun q =>
    let here := l.saved.filter fun v => v.wg.die == q.die && v.wg.core == q.core
    let staged := s.stages.filter fun d => d.launch == l.id && d.die == q.die && d.core == q.core
    CoreBlock.mk q.logical ([q.logical, (here.map (·.wg.nwarps)).sum, q.records.length, 0].flatMap (leBytes 4)
      ++ here.flatMap (·.area) ++ (q.records.flatMap fun r => r.bytes (limit q.seg)) ++ staged.flatMap fun d => d.record.bytes (limit d.seg))

/-- Every warp of a launch halts (06 R168 to R170, R173; 16 R371); a travel launch's queues and stages wait for its restore (11
R289). -/
def State.haltLaunch (s : State) (id : Nat) : State :=
  let s : State := (s.warps.filter (·.launch == id)).foldl (fun s w => s.wakeSleepers w.uid) s
  let s : State := { s with accesses := s.accesses.filter fun a => a.launch != id || (match a.op with
    | .waitRead _ => false
    | _ => true) }
  let s : State := { s with warps := s.warps.map fun w => if w.launch = id then w.halt else w }
  let s := s.recordOps id
  let live := s.wgs.any fun g => g.launch == id && !g.done
  s.modLaunch id fun l =>
    { l with halted := live, suspended := l.packet.travel, blocks := if l.packet.travel && !live then s.coreBlocks l else [] }

/-- The workgroups of a travel launch with a thread that has not exited, wherever it is (11 Table 11-6). -/
def State.travelling (s : State) (id : Nat) : List Nat :=
  let tids := (s.warps.filter (·.launch == id)).flatMap fun w => (lanesOf w.living).map fun i => w.tids.getD i 0
  ((tids ++ (s.recordsOf id).map (·.tid)).map fun t => t.toNat / 1024).eraseDups

/-- The workgroups that an idempotent launch's discard starts again: those that have not retired (06 R171; 11 R266, R289). -/
def State.unretired (s : State) (l : Launch) : List Workgroup :=
  if l.packet.travel then
    (s.travelling l.id).map fun k =>
      { uid := s.fresh + k, launch := l.id, index := k, consist := k, member := 0, die := l.dies.headD 0, core := 0, logical := 0,
        nwarps := l.nwarps, threads := l.packet.threads, nreg := l.regs, sharedBytes := roundUp l.shared 1024 }
  else
    let mine := s.wgs.filter fun g => g.launch == l.id
    mine.filter fun g => !g.killed && mine.any fun h => h.consist == g.consist && !h.done

/-- The workgroups of an idempotent launch are discarded, and those that had not retired are to start again from the entry PC (06
R171). Each keeps its shared memory until the copies that use it have ended (09 R247). -/
def State.discardLaunch (s : State) (l : Launch) : State :=
  let again := (s.unretired l).map fun g => ({ wg := g, warps := [], spill := [], restart := true } : SavedWg)
  let mine := s.wgs.filter fun g => g.launch == l.id
  let s : State := (mine.foldl (fun s g => s.cancelOps g.uid) s).cancelLaunchOps l.id
  let s : State := (s.warps.filter (·.launch == l.id)).foldl (fun s w => s.releaseWarp w) s
  let s : State := { s with wgs := s.wgs.map fun g => if g.launch = l.id then { g with done := true, consist := 2 ^ 41 + g.uid } else g }
  let s : State := mine.foldl (fun s g => s.freeCore g.die g.core) s
  let s : State := if l.packet.travel then s.dropRecords l.id else s
  { s with fresh := s.fresh + l.total }.modLaunch l.id fun l =>
    { l with saved := l.saved ++ again, suspended := false, blocks := [], pbarReady := [], dealt := true, roomy := [], starved := 0 }

/-- One launch is pre-empted. -/
def State.preempt (s : State) (id : Nat) : State :=
  match s.launch? id with
  | none => s
  | some l =>
    if l.phase != .running || l.halted || l.killed || l.cancelled || l.suspended
        || !(s.wgs.any (fun g => g.launch == id && !g.done) || (l.packet.travel && !s.noRecords l)) then s
    else if l.packet.idempotent then s.discardLaunch l
    else s.haltLaunch id

/-- PREEMPTION_REQUEST (06 R168 to R173). -/
def execEvPreemptionRequest (launches : List Nat) (s : State) : Result :=
  .next (State.stabilise (launches.foldl (fun s id => s.preempt id) s))

/-! ### The save -/

/-- The spill image of a warp (06 R172). -/
def State.spillImage (s : State) (l : Launch) (w : Warp) : List (Nat × Byte) :=
  let k := s.frameKey w.die w.core w.slot
  (s.mem.filter fun c => k ≤ c.1 && c.1 < k + spillBytes l.spill).map fun c => (c.1 - k, c.2)

/-- The last outstanding reply has arrived, every copy into the images is complete (06 R169, R172), and so is every operation that
uses their shared memory (09 R247). -/
def State.saveReady (s : State) (gs : List Workgroup) : Bool :=
  let mine (uid : Nat) : Bool := gs.any (·.uid == uid)
  !s.accesses.any (fun a => s.warps.any fun w => w.uid == a.warp && mine w.wg)
  && !s.copies.any (fun c => mine c.wg && (c.dspace != .gl || !(s.holders c.launch c.named).isEmpty))
  && !gs.any fun g => s.sharedInUse g.uid

/-- The save area of a workgroup (06 R172, R173). -/
def State.saveArea (s : State) (l : Launch) (g : Workgroup) : SavedWg :=
  let ws := s.warps.filter (·.wg == g.uid)
  let of (wg : Nat) : Bool := wg == g.uid
  let spill := if l.spill = 0 then [] else ws.map (s.spillImage l)
  let engines := l.records.filter fun r => match r with
    | .copy c => of c.wg
    | .catchTile o => of o.wg
  { wg := g, warps := ws, spill := spill, engines := engines, area := s.areaOf l g ws spill l.records }

/-- SAVE_COMPLETE (06 R172): the save area of a workgroup, and of the members of its consist, is complete; the room they held is
free. The launch's saved workgroups are pending again once all are saved (14 R338). -/
def execEvSaveComplete (wg : Nat) (s : State) : Result :=
  match s.wg? wg with
  | none => .next s
  | some g => match s.launch? g.launch with
    | none => .next s
    | some l =>
      let gs := s.savedWith g
      if !l.halted || gs.all (·.done) || !s.saveReady gs then .next s
      else
        let mine (uid : Nat) : Bool := gs.any (·.uid == uid)
        let areas := gs.map (s.saveArea l)
        let t := s.discardShadows (fun x => mine x.wg) (fun c => mine c.wg && c.shd)
        let t : State := { t with warps := t.warps.filter (fun w => !mine w.wg), wgs := t.wgs.filter fun h => !mine h.uid }
        let left := t.wgs.any fun h => h.launch == l.id && !h.done
        let back (l : Launch) : Launch := { l with
          saved := l.saved ++ areas, halted := left, records := if left then l.records else [], dealt := true, roomy := [],
          starved := 0 }
        let u := (gs.foldl (fun t g => t.freeCore g.die g.core) t).modLaunch l.id back
        .next (u.modLaunch l.id fun l => if l.packet.travel && !left then { l with blocks := u.coreBlocks l } else l).stabilise

/-! ### The restore -/

/-- RESTORE (06 R170 to R174): a saved workgroup is placed on a core with room, with the members of its consist in the core's
cluster. -/
def execEvRestore (wg die core : Nat) (s : State) : Result :=
  match s.launches.find? fun l => l.saved.any fun v => v.wg.uid == wg with
  | none => .next s
  | some l => match l.saved.find? fun v => v.wg.uid == wg with
    | none => .next s
    | some v =>
      if !s.mayPlace l then .next s
      else match (if l.packet.consist ≥ 2 then s.restoreConsist l v.wg.consist die (core / 4) else s.restoreWg l v die core) with
        | none => .next s
        | some t => .next (t.stabilise)

end Sys2Proof.Machine
end

