-- ==== Sys2Proof/Machine/Firmware.lean ====
section
/-! DEFINITION. Machine/Firmware.lean: walks and fault service, firmware's decisions, the region table, allocations, and the
registers firmware writes (01 R25; 06 R167; 11 R274; 13 R295, R311, R312; 14 R321 to R324; 20 R418, R425). -/

namespace Sys2Proof.Machine

/-! ### Walks and their service -/

/-- TRANSLATION_WALK (13 R305, R311): a walk fills the TLB, or its fault is recorded for firmware once. -/
def execEvTranslationWalk (die asid : Nat) (va : DWord) (kind : AccessKind) (s : State) : Result :=
  if va.toNat ≥ 2 ^ 57 then .next s
  else match s.lookup die asid va with
    | (t, .leaf _ _ _) => .next t
    | (t, .fault l r) => .next (t.reportWalk (faultRecord va asid kind.code l r die 0))

/-- The ASID of a fault record (13 Table 13-6). -/
def recordAsid (r : BitVec 128) : Nat := bitsOf r.toNat 61 10

/-- Two addresses lie in one 4 KiB page. -/
def samePage (a b : DWord) : Bool := a.toNat / 4096 == b.toNat / 4096

/-- An entry waits for the service of a page: held, in BLOCK, or, for a fetch, with a group (01 R24; 06 R167). -/
def Entry.waitsPage (x : Entry) (asid : Nat) (va : DWord) : Bool :=
  (x.st == .held && recordAsid x.fault == asid && samePage (recordVa x.fault) va)
  || (x.st == .block && (match x.wait with
    | .pageFault a v => a == asid && samePage v va
    | _ => false))

/-- A group waits for the service of a fetch's page. -/
def fetchGroup (va : DWord) (g : Group) : Bool :=
  g.arrived && (match g.kind with
    | .firmware 0x10 v => samePage v va
    | _ => false)

/-- What waits in a warp for a page goes on (01 R25; 06 R167): blocked splits and fetches issue again, held lanes replay. A split
that leaves BLOCK issues its instruction first, whatever groups stand in its siding with lower keys by then: the spec does not say
whether R17 chooses between them at once (log 41). -/
def Warp.served (w : Warp) (asid : Nat) (va : DWord) (own : Bool) (now : Nat) : Warp :=
  let held := (List.range 8).filter fun e => (w.entry e).st == .held && (w.entry e).waitsPage asid va
  let wake (x : Entry) : Entry := if x.st = .block && x.waitsPage asid va then x.unblock else x
  let w := { w with entries := w.entries.map wake }
  let w := if own then w.release (fetchGroup va) (·.key) else w
  held.foldl (fun w e => w.unhold e now) w

/-- Something in a warp waits for a page. -/
def Warp.waitsPage (w : Warp) (asid : Nat) (va : DWord) (own : Bool) : Bool :=
  w.entries.any (fun x => x.waitsPage asid va) || (own && w.arrived.any fun p => fetchGroup va p.2)

/-- A fatal fault: the region's policy applies to whatever waits for the page, to a saved workgroup at its restore (06 R170);
engines and stations fail (01 R25; 09 R236). -/
def State.fatalFault (s : State) (asid : Nat) (va : DWord) : State :=
  let hit (x : Option (Nat × DWord)) : Bool := match x with
    | some (a, v) => a == asid && samePage v va
    | none => false
  let fail (c : Copy) : Copy := if hit c.stall then { c.fail 6 with stall := none } else c
  let s : State := { s with copies := s.copies.map fail }
  let s : State := s.endLineOps (fun o => hit o.stall) 2 6
  let note (own : Bool) (v : SavedWg) : SavedWg := if v.warps.any fun w => w.waitsPage asid va own then { v with fatal := true } else v
  let s : State := { s with launches := s.launches.map fun l => { l with saved := l.saved.map (note (s.effAsid l.node == asid)) } }
  s.warps.foldl (fun s w => match s.warp? w.uid with
    | none => s
    | some w => if w.waitsPage asid va (s.asidOf w == asid) then s.faultPolicy w.launch w.wg 0x10 else s) s

/-- A serviced fault: every waiting access of the page translates again (13 R311). -/
def State.pageServed (s : State) (asid : Nat) (va : DWord) : State :=
  let clear (x : Option (Nat × DWord)) : Option (Nat × DWord) := match x with
    | some (a, v) => if a = asid && samePage v va then none else x
    | none => none
  let again (own : Bool) (w : Warp) : Warp := w.served asid va own s.cycle
  let saved (l : Launch) (v : SavedWg) : SavedWg := { v with warps := v.warps.map (again (s.effAsid l.node == asid)) }
  { s with
    warps := s.warps.map (fun w => again (s.asidOf w == asid) w),
    copies := s.copies.map (fun c => { c with stall := clear c.stall }),
    lineOps := s.lineOps.map (fun o => { o with stall := clear o.stall }),
    launches := s.launches.map fun l => { l with saved := l.saved.map (saved l) } }

/-- FAULT_SERVICE_COMPLETE (01 R25; 06 R167; 09 R236; 13 R311): firmware has serviced a page, or found the fault fatal. Its
records are answered. -/
def execEvFaultServiceComplete (asid : Nat) (va : DWord) (served : Bool) (s : State) : Result :=
  let mine (r : LogRecord) : Bool := match r with
    | .translation r => recordAsid r == asid && samePage (recordVa r) va
    | _ => false
  let t : State := { s with log := s.log.filter fun r => !mine r }
  .next (State.stabilise (if served then t.pageServed asid va else t.fatalFault asid va))

/-- FIRMWARE_DECISION (06 R167, R170): on lanes that wait for firmware; one about a saved warp applies at its restore. -/
def execEvFirmwareDecision (wid entry : Nat) (key : PC) (resume : Bool) (s : State) : Result :=
  match s.warp? wid with
  | some _ => .next (State.stabilise (s.decided wid entry key resume))
  | none =>
    let note (v : SavedWg) : SavedWg :=
      if v.warps.any (·.uid == wid) then { v with decisions := v.decisions ++ [(wid, entry, key, resume)] } else v
    .next { s with launches := s.launches.map fun l => { l with saved := l.saved.map note } }

/-! ### Regions -/

/-- The region control block in 256 bytes (14 Tables 14-1 to 14-3). Reserved fields read as zero (00 R7). -/
def parseRegion (node : Nat) (b : List Byte) : Region where
  node := node
  parent := field b 0x02 2
  asid := field b 0x04 2
  ovr := field b 0x08 4 % 2 ^ 11
  st := field b 0x0C 4 / 2 ^ 30
  cshare := field b 0x0C 4 / 2 ^ 10 % 2 ^ 8
  priv := (field b 0x0C 4).testBit 9
  policy := field b 0x0C 4 / 2 ^ 3 % 4
  prio := field b 0x0C 4 % 8
  cores := (List.range 8).map fun d => field b (0x10 + d) 1
  dsbytes := (List.range 8).map fun d => field b (0x18 + 2 * d) 2
  coaches := field b 0x28 4
  shadow := field b 0x2C 4
  hshare := field b 0x30 2
  hwindow := field b 0x38 8
  qtable := BitVec.ofNat 64 (field b 0x48 8)
  excl := (List.range 8).map fun d => field b (0x50 + 8 * d) 8

/-- The block keeps R322. -/
def blockForm (node : Nat) (b : List Byte) (r : Region) : Bool :=
  field b 0 2 == 1 && (if node = 0 then r.parent == 0xFFFF && r.ovr == 0x7FF else r.parent < 4096) && r.asid < 1024
  && field b 0x06 2 == 0 && (!r.ovr.testBit 8 || r.cshare ≥ 1) && (!r.priv || node == 0)
  && r.cores.all (· ≤ 36) && r.dsbytes.all (· ≤ 1024) && r.coaches ≤ 256 && r.hshare ≤ 1024 && field b 0x32 6 == 0
  && r.excl.all (· < 2 ^ 36) && (b.drop 0x90).all (· == 0)

/-- A node's depth, counted up its parents; 8 where it exceeds 7, or goes round. -/
def depthOf (rs : List Region) : Nat → Nat → Nat
  | 0, _ => 0
  | f + 1, n => match rs.find? fun r => r.node == n with
    | none => 0
    | some r => if r.parent = 0xFFFF then 0 else 1 + depthOf rs f r.parent

/-- The tree stays at most 8 deep and without a cycle (14 R321). -/
def treeForm (rs : List Region) : Bool := rs.all fun r => depthOf rs 8 r.node ≤ 7

/-- An access, an engine's or station's operation or a waiting reader may still reach bytes of an allocation (13 R295). -/
def State.inUse (s : State) (a : Alloc) : Bool :=
  let lo := dieStoreKey a.die a.base
  let hit (k : Nat) : Bool := lo ≤ k && k < lo + a.size
  let at_ (p : Place) : Bool := match p with
    | .key k => hit k
    | .virt _ _ => false
  s.accesses.any (fun x => x.lanes.any fun y => !y.done && hit y.pa)
  || s.copies.any (fun c => at_ c.src || at_ c.dst || (c.barrier.map hit).getD false)
  || s.lineOps.any (fun o => at_ o.place || (o.barrier.map hit).getD false)
  || s.warps.any fun w => w.entries.any fun e => match e.wait with
    | .value v => v.lanes.any fun y => !y.satisfied && hit y.addr
    | .phase k .. => hit k
    | _ => false

/-- The node of an allocation whose region is destroyed, while something may still reach it. -/
def noNode : Nat := 4096

/-- Allocations without a region go once nothing reaches them (13 R295; log 12). -/
def State.sweepAllocs (s : State) : State :=
  let gone := s.allocs.filter fun a => a.node == noNode && !s.inUse a
  let s : State := gone.foldl (fun s a => s.wipe (dieStoreKey a.die a.base) (dieStoreKey a.die a.base + a.size)) s
  { s with allocs := s.allocs.filter fun a => !gone.contains a }

/-- A region firmware destroys (13 R295; 16 R360): its die-store allocations go, the history it owns is lost. -/
def State.destroyRegion (s : State) (node : Nat) : State :=
  let out (a : Alloc) : Alloc := if a.launch.isNone && a.node == node then { a with node := noNode } else a
  let s : State := ({ s with allocs := s.allocs.map out } : State).sweepAllocs
  { s with versions := s.versions.filter (fun v => s.sectorOwner v.sector != some node),
           histPages := s.histPages.map fun h => if h.owner = some node then { h with owner := none } else h }

/-- REGION_UPDATE (14 R321 to R323; 16 R363): the block of a node is read and installed, or firmware receives an error. Firmware
raises a floor only up to t - HWINDOW: a larger FLOOR raises it to there (log 38). -/
def execEvRegionUpdate (node : Nat) (s : State) : Result :=
  if node ≥ 4096 then .next s
  else
    let b := s.read (s.regionTable.toNat + 256 * node) 256
    let r := parseRegion node b
    let rs := (s.regions.filter fun x => x.node != node) ++ [r]
    if !blockForm node b r || !treeForm rs then .next (s.logged (.regionError node))
    else
      let was := ((s.region? node).map (·.st)).getD 0
      let t : State := { s with regions := sortBy (·.node) rs }
      let t := if r.st = 0 && was ≠ 0 then t.destroyRegion node else t
      .next (t.raiseRegionFloor node (min (field b 0x40 8) (t.tick - t.effHwindow node)))

/-- The launch allocations a region holds on a die. -/
def State.launchBytes (s : State) (node die : Nat) : Nat :=
  (s.allocs.filter fun a => a.die == die && a.node == node && a.launch.isSome).foldl (fun n a => n + a.size) 0

/-- A region's allocation on a die. -/
def State.regionAlloc? (s : State) (node die : Nat) : Option Alloc :=
  s.allocs.find? fun a => a.die == die && a.launch.isNone && a.node == node

/-- A region's allocation at a base with a size, its first `keep` bytes those of the old one with their poison, the others zero.
-/
def State.setAlloc (s : State) (node die base size keep : Nat) (old : Option Alloc) : State :=
  let bad := match old with
    | some a =>
      let from_ := dieStoreKey die a.base / 32
      (s.poisoned.filter fun q => from_ ≤ q && q < from_ + keep / 32).map fun q => dieStoreKey die base / 32 + (q - from_)
    | none => []
  let bs := match old with
    | some a => s.read (dieStoreKey die a.base) keep
    | none => []
  let s : State := match old with
    | some a => s.wipe (dieStoreKey die a.base) (dieStoreKey die a.base + a.size)
    | none => s
  let s : State := s.wipe (dieStoreKey die base) (dieStoreKey die base + size)
  let s : State := s.write (dieStoreKey die base) bs
  let a : Alloc := { die := die, launch := none, node := node, base := base, size := size,
                     spaceClock := (old.map (·.spaceClock)).getD 0 }
  { s with poisoned := s.poisoned ++ bad, allocs := (s.allocs.filter fun x => !(x.die == die && x.launch.isNone && x.node == node))
                     ++ if size = 0 then [] else [a] }

/-- REGION_ALLOCATION (13 R295; 14 R324): firmware makes, resizes or ends a region's allocation of `units` × 64 KiB. It keeps its
place when it can, and neither moves nor shrinks while something may still reach its bytes (log 12). -/
def execEvRegionAllocation (node die units : Nat) (s : State) : Result :=
  let size := units * 65536
  let old := s.regionAlloc? node die
  let was := (old.map (·.size)).getD 0
  let budget := s.effDs node die * 65536
  if (s.region? node).isNone || !s.online die || size + s.launchBytes node die > budget
      || (size > was && !s.dsFits node die (size - was)) then .next s
  else
    let rest : State := { s with allocs := s.allocs.filter fun x => !(x.die == die && x.launch.isNone && x.node == node) }
    let ring := s.die die
    let clear (b : Nat) : Bool := b + size ≤ 2 ^ 26 && !ring.ringMeets b size
      && !rest.allocs.any fun a => a.die == die && b < a.base + a.size && a.base < b + size
    let place := match old with
      | some a => if size ≤ a.size || clear a.base then some a.base else rest.dieRange die size
      | none => rest.dieRange die size
    match place with
    | none => .next s
    | some b =>
      if old.any fun a => s.inUse a && (b != a.base || size < a.size) then .next s
      else .next (s.setAlloc node die b size (min was size) old)

/-! ### Registers -/

/-- ROOT_REGISTER_WRITE (13 R312): bits [51:12] and [0]; others are zero. -/
def execEvRootRegisterWrite (asid : Nat) (value : DWord) (s : State) : Result :=
  if asid ≥ 1024 then .next s
  else .next { s with roots := tset s.roots asid (value &&& 0x000F_FFFF_FFFF_F001) }

/-- SAMPLE_RING_WRITE (11 R274, Table 11-3): SIZE and BASE; WIDX counts afresh. Firmware places the ring clear of every other
allocation (13 R295): a write that would not is ignored (log 38). -/
def execEvSampleRingWrite (die : Nat) (value : DWord) (s : State) : Result :=
  let ring : Die := { harvest := 0, ringSize := bitsOf value.toNat 18 14, ringBase := bitsOf value.toNat 0 14 }
  if s.allocs.any fun a => a.die == die && ring.ringMeets a.base a.size then .next s
  else .next (s.modDie die fun d => { d with ringSize := bitsOf value.toNat 18 14, ringBase := bitsOf value.toNat 0 14, ringWidx := 0 })

/-- FABRIC_WINDOW_WRITE (20 R418, Table 20-6): reserved bits and bits [20:0] of PBASE are zero. -/
def execEvFabricWindowWrite (window : Nat) (value : BitVec 128) (s : State) : Result :=
  if window ≥ 4 then .next s
  else .next { s with fabric := s.fabric.set window (value &&& 0xFFFF_FFFE_0000_0FFF_FFFF_FFFF_FFFF_0001) }

/-- SVN_RAISE (20 R425): no higher than the running image's SVN; it never falls. -/
def execEvSvnRaise (value : Nat) (s : State) : Result :=
  if s.boot = .firmware && s.fusedSvn ≤ value && value ≤ s.svn then .next { s with fusedSvn := value } else .next s

/-- REGISTER_WRITE (00 R7; 07 Table 7-10; 14 R321; 20 R413): writing 1 clears STICKY and MORE of a matrix error record. -/
def execEvRegisterWrite (reg : PlainReg) (value : DWord) (s : State) : Result :=
  match reg with
  | .regionTable => .next { s with regionTable := value }
  | .hostAccess node =>
    let rest := s.hostMask.filter (· != node)
    .next { s with hostMask := if value.getLsbD 0 && 0 < node && node < 4096 then insertBy id node rest else rest }
  | .matrixError die core => .next (s.modCore die core fun c => { c with matrixErr := c.matrixErr &&& ~~~(value &&& 0xC000_0000_0000_0000) })

/-- OPERATING_POINT_CHANGE (20 R428): the core rail within 450 to 650 mV. -/
def execEvOperatingPointChange (millivolts : Nat) (s : State) : Result :=
  if 450 ≤ millivolts && millivolts ≤ 650 then .next { s with millivolts := millivolts } else .next s

end Sys2Proof.Machine
end

