-- ==== Sys2Proof/Machine/Dies.lean ====
section
/-! DEFINITION. Machine/Dies.lean: lost and retired dies, evacuation (19 R398 to R406), the mesh's subnetworks (13 R297), sample
buffers (11 R273, R274) and power-gating (11 R275). -/

namespace Sys2Proof.Machine

/-- Every region that maps a page of which `hit` picks a byte, uses a table `table` picks, or owns the history of such a page,
is killed (19 R406). `hit` is given an address and a length. -/
def State.killMapping (s : State) (hit : Nat → Nat → Bool) (table : Nat → Bool) : State :=
  let owns (n : Nat) : Bool := s.histPages.any fun h => h.owner == some n && hit (h.page * 4096) (h.count * 4096)
  let out := s.regions.filter fun r => r.st != 0 && r.st != 3
    && ((s.leavesOf (s.effAsid r.node)).any (fun x => hit (pteAddr x.pte) x.bytes) || (s.tablesOf (s.effAsid r.node)).any table || owns r.node)
  out.foldl (fun s r => s.killRegion r.node 0x14 5) s

/-! ### Loss -/

/-- Bit d set in a launch's dies-lost field; what it has not placed, and what is to start again, is never placed (19 R402). -/
def Launch.lose (l : Launch) (d : Nat) : Launch :=
  { l with dieLost := true, diesLost := l.diesLost ||| 2 ^ d, total := l.nextWg,
           saved := l.saved.filter fun v => !v.restart }

/-- A key lies in a die's store, or in the shared memory of a workgroup on the die. -/
def State.keyOnDie (s : State) (d k : Nat) : Bool :=
  (dieStoreKey d 0 ≤ k && k < dieStoreKey d 0 + 2 ^ 26)
  || (k ≥ 2 ^ 60 && ((s.wg? ((k - 2 ^ 60) / 2 ^ 20)).map (·.die)) == some d)
def State.placeOnDie (s : State) (d : Nat) : Place → Bool
  | .key k => s.keyOnDie d k
  | .virt _ _ => false

/-- A copy, or a station's operation, ends with a die (19 Table 19-2). -/
def State.copyOnDie (s : State) (d : Nat) (c : Copy) : Bool :=
  c.die == d || s.placeOnDie d c.src || s.placeOnDie d c.dst || (c.barrier.map (s.keyOnDie d)).getD false
def State.opOnDie (s : State) (d : Nat) (o : StationOp) : Bool :=
  o.die == d || s.placeOnDie d o.place || (o.barrier.map (s.keyOnDie d)).getD false

/-- Travel records on a die are removed: queued, staged, in an overflow area (19 Table 19-2). -/
def State.dropDieRecords (s : State) (d : Nat) : State :=
  let home (l : Launch) (g : Segment) : Bool := ((s.logicalCores l.dies)[g.replicas.headD 0]?.map (·.1)) == some d
  { s with queues := s.queues.filter (fun q => q.die != d), stages := s.stages.filter (fun x => x.die != d),
           launches := s.launches.map fun l =>
             { l with segments := l.segments.map fun g => if home l g then { g with overflow := [] } else g } }

/-- The launch after the saved workgroups that `gone` picks are removed; one that was to start again counts as pending. -/
def Launch.removeSaved (l : Launch) (gone : SavedWg → Bool) : Launch :=
  { l with saved := l.saved.filter (fun v => !gone v), killedWgs := l.killedWgs + (l.saved.filter fun v => gone v && !v.restart).length }

/-- The launch after the saved workgroups that were last on a die are removed. -/
def Launch.dropSaved (l : Launch) (d : Nat) : Launch := l.removeSaved fun v => !v.restart && v.wg.die == d

/-- The launch once no die of it can take what it has saved or pending: all gone, with those saved workgroups (19 R400, R402). -/
def Launch.strand (l : Launch) (d : Nat) : Launch :=
  (l.lose d).removeSaved fun _ => true

/-- No die of a launch takes work any more: each is lost or OFFLINE. -/
def State.stranded (s : State) (l : Launch) : Bool := l.dies.all fun k => (s.die k).st == 3 || (s.die k).lossShift.isSome

/-- Every item of Table 19-2 reaches its end (19 R401, R402). -/
def State.endOnDie (s : State) (d : Nat) : State :=
  let held := (s.launches.filter fun l => l.open_ && l.placed && l.dies.contains d).map (·.id)
  let s : State := { s with accesses := s.accesses.filter fun a => !(a.die == d && !a.op.engine) }
  let s : State := (s.copies.filter (s.copyOnDie d)).foldl (fun s c => s.endCopy c 2 7 0) s
  let s : State := s.endLineOps (s.opOnDie d) 2 7
  let s : State := s.dropDieRecords d
  let s : State := (s.wgs.filter fun g => g.die == d && !g.done).foldl (fun s g => s.killWg g.uid 0) s
  let s : State := { s with launches := s.launches.map fun l => l.dropSaved d }
  let s : State := held.foldl (fun s id =>
    let s : State := s.breakInstances id (fun w => w.launch == id) (fun _ => true) isPbarN
    s.modLaunch id fun l => { (if s.stranded l then l.strand d else l.lose d) with pbarBroken := true, pbarReady := [] }) s
  let s : State := s.wipe (dieStoreKey d 0) (dieStoreKey d 0 + 2 ^ 26)
  { s with allocs := s.allocs.filter fun a => a.die != d }

/-- A die is lost (19 R399): FENCED, its kind of loss, its memory path as probed, the coaches at its station poisoned (R408),
and its work ended. -/
def State.loseDie (s : State) (d why : Nat) (path : Bool) : State :=
  let path := path && (s.die d).mempath
  let s : State := s.modDie d fun x => { x with st := 1, why := why, fatal := 0, mempath := path, lossShift := some s.lineShift }
  let s : State := (s.poisonStation d).endOnDie d
  if path then s else s.killMapping (fun pa _ => homeOf pa == d) (fun t => homeOf t == d)

/-- LOSE_COMMAND (19 R399): WHY 4, at once; the memory path is untouched. -/
def execEvLoseCommand (die : Nat) (s : State) : Result :=
  if s.online die then .next (State.stabilise (s.loseDie die 4 true)) else .next s

/-- DIE_FATAL_ERROR (19 R399; 20 R428): a fatal error of kind 1 to 3, after which the die will be lost. -/
def execEvDieFatalError (die why : Nat) (s : State) : Result :=
  if s.online die && (s.die die).fatal = 0 && 1 ≤ why && why ≤ 3 then .next (s.modDie die fun d => { d with fatal := why }) else .next s

/-- DIE_LOST (19 R399, R401 to R403, R406): the front die moves the die to FENCED and probes its memory path. -/
def execEvDieLost (die : Nat) (pathServes : Bool) (s : State) : Result :=
  if s.online die && (s.die die).fatal ≠ 0 then .next (State.stabilise (s.loseDie die (s.die die).fatal pathServes)) else .next s

/-- A die is lost. -/
def Die.lost (d : Die) : Bool := d.lossShift.isSome

/-- MEMPATH_FAIL (19 R399, R403, R406): a lost die's memory path fails, at any moment after the loss. -/
def execEvMempathFail (die : Nat) (s : State) : Result :=
  if (s.die die).lost && (s.die die).mempath then
    .next (State.stabilise ((s.modDie die fun d => { d with mempath := false }).killMapping (fun pa _ => homeOf pa == die)
      (fun t => homeOf t == die)))
  else .next s

/-- DIE_STATE_WRITE (19 R398, R400): the two transitions firmware may write. A die with a fatal error is no healthy one. -/
def execEvDieStateWrite (die state : Nat) (s : State) : Result :=
  let d := s.die die
  if die ≥ 8 || state ≠ 2 then .next s
  else if d.st = 0 && d.fatal = 0 then .next (s.modDie die fun d => { d with st := 2, why := 5 })
  else if d.st = 1 && d.mempath then .next (s.modDie die fun d => { d with st := 2 })
  else .next s

/-! ### Evacuation -/

/-- A die is being evacuated. -/
def State.evacuating (s : State) (d : Nat) : Bool := d < 8 && (s.die d).st == 2 && (s.die d).mempath

/-- A page stands on a die and has not been poisoned by its evacuation. -/
def State.toMove (s : State) (d pa : Nat) : Bool := homeOf pa == d && !(s.die d).poisonedPages.contains (pa / 4096 * 4096)

/-- The table pages of a die that are still to be moved (19 R404, step 1). -/
def State.tablesOn (s : State) (d : Nat) : List Nat := (s.roots.flatMap fun r => s.tablesOf r.1).filter (s.toMove d)

/-- A data page of an address space: one that a leaf maps, or the fresh page of a shadow (09 R237). -/
inductive DataPage where
  | leaf (x : Leaf)
  | shadow (p : ShadowPage)
  deriving DecidableEq, Repr

def DataPage.va : DataPage → Nat
  | .leaf x => x.va
  | .shadow p => p.va.toNat
def DataPage.size : DataPage → Nat
  | .leaf x => pageSize x.level
  | .shadow p => p.size
def DataPage.pa : DataPage → Nat
  | .leaf x => pteAddr x.pte
  | .shadow p => p.new
def DataPage.bytes : DataPage → Nat
  | .leaf x => x.bytes
  | .shadow p => if p.clen = 0 then p.size else p.clen * 256

/-- The data pages of an address space, a page before the shadow that stands in for it. -/
def State.dataPages (s : State) (asid : Nat) : List DataPage :=
  let shadows := (s.shadows.filter (·.asid == asid)).flatMap (·.pages) ++ (s.copies.filter (·.asid == asid)).flatMap (·.shadows)
  sortBy DataPage.va ((s.leavesOf asid).map .leaf ++ shadows.map .shadow)

/-- The widest leaf of any address space in which a leaf's page lies: the page moves with it (19 R405). -/
def State.widest (s : State) (asid : Nat) (x : Leaf) : Nat × Leaf :=
  (s.roots.flatMap fun r => (s.leavesOf r.1).map (r.1, ·)).foldl (fun best y =>
    if pteAddr y.2.pte ≤ pteAddr x.pte && pteAddr x.pte < pteAddr y.2.pte + y.2.bytes && best.2.bytes < y.2.bytes then y else best) (asid, x)

/-- The data page of a die that is moved next, with its address space (19 R404, step 2). -/
def State.nextPage (s : State) (d : Nat) : Option (Nat × DataPage) :=
  (sortBy (fun (r : Region) => (7 - s.effPrio r.node) * 4096 + r.node) s.regions).findSome? fun r =>
    let asid := s.effAsid r.node
    ((s.dataPages asid).find? fun x => s.toMove d x.pa).map fun x => match x with
      | .leaf y => ((s.widest asid y).1, .leaf (s.widest asid y).2)
      | .shadow p => (asid, .shadow p)

/-- The tables a walk reads (13 R305). -/
def State.walkTables (s : State) (va : DWord) : Nat → Nat → Nat → List Nat
  | 0, _, _ => []
  | f + 1, level, table =>
    let p : DWord := BitVec.ofNat 64 (s.readNat (table + 8 * vaIndex va level) 8)
    table :: if !pteV p || s.malformed p level || pteLeaf p then [] else s.walkTables va f (level + 1) (pteAddr p)

/-- The ranges of memory that a table, a leaf or a shadow uses. -/
def State.usedRanges (s : State) : List (Nat × Nat) :=
  (s.roots.flatMap fun r => (s.tablesOf r.1).map (·, 4096) ++ (s.leavesOf r.1).map fun x => (pteAddr x.pte, x.bytes))
  ++ s.poolTaken

/-- No used range meets [pa, pa + n). -/
def clearOf (used : List (Nat × Nat)) (pa n : Nat) : Bool := !used.any fun u => pa < u.1 + u.2 && u.1 < pa + n

/-- A home has `n` free bytes below an offset, at a multiple of `align`: if any place is free, one at its start or just past a
used range is. -/
def roomAt (used : List (Nat × Nat)) (h limit align n : Nat) : Bool :=
  (0 :: (used.filter fun u => homeOf u.1 == h).map fun u => offsetOf u.1 + u.2).any fun b =>
    let o := roundUp b align
    o + n ≤ limit && clearOf used (homeKey h o) n

/-- Some online die has room for a page (19 R404). -/
def State.onlineRoom (s : State) (align n : Nat) : Bool :=
  let used := s.usedRanges
  (List.range 8).any fun h => s.online h && roomAt used h s.frames align n

/-- The host windows granted for backing, in ascending number, that have room for a page (19 R404; 20 R417). -/
def State.backingRoom (s : State) (align n : Nat) : List Nat :=
  let used := s.usedRanges
  (List.range 4).filter fun w => (s.windows.getD w {}).flags.testBit 3 && roomAt used (8 + w) (s.homeSize (8 + w)) align n

/-- What moves: a table, or a data page. -/
inductive Moved where
  | table | page
  deriving DecidableEq, Repr

/-- A destination of a move (19 R404): a free page of an online die; for a data page, where no online die has room, one in the
first host window granted for backing that has. -/
def State.destOk (s : State) (pa align n : Nat) (m : Moved) : Bool :=
  pa % align == 0 && clearOf s.usedRanges pa n
  && (if homeOf pa < 8 then s.online (homeOf pa) && offsetOf pa + n ≤ s.frames
      else m == .page && !s.onlineRoom align n && (s.backingRoom align n).head? == some (homeOf pa - 8)
        && offsetOf pa + n ≤ s.homeSize (homeOf pa))

/-- A page finds no destination (19 R404). -/
def State.noDest (s : State) (align n : Nat) (m : Moved) : Bool :=
  !s.onlineRoom align n && (m != .page || (s.backingRoom align n).isEmpty)

/-- An access that used the old page is still on its way (13 R313). -/
def State.pageBusy (s : State) (pa n : Nat) : Bool :=
  s.accesses.any fun a => a.lanes.any fun x => !x.done && pa ≤ x.pa && x.pa < pa + n

/-- A page's bytes at another place, and its poison. The writes that its bytes are the values of come along: no load misses one
there, and an acquire synchronises with their release sides (08 R211; 19 R405). -/
def State.carryPage (s : State) (old new n : Nat) (m : Stamp) : State :=
  let bad := s.poisoned.filter fun q => old ≤ q * 32 && q * 32 < old + n
  let moved := (s.written.filter fun p => old ≤ p.1 * 32 && p.1 * 32 < old + n).map fun p =>
    (p.1 - old / 32 + new / 32, p.2.map fun x => { x with lo := x.lo - old + new, old := [], was := m, stamp := m,
                                                          holes := x.holes.map (· - old + new) })
  let s : State := (s.write new (s.read old n)).forget new n
  { s with poisoned := s.poisoned ++ bad.map (fun q => new / 32 + (q - old / 32)),
           written := moved.foldl (fun t p => tset t p.1 p.2) s.written }

/-- The largest stamp of a page's sectors. -/
def State.pageStamp (s : State) (pa n : Nat) : Stamp := (List.range (n / 32)).foldl (fun a i => max a (s.versionStamp (pa + 32 * i))) 0

/-- A page moved within homes 0 to 7, every sector with stamp `m` (19 R405). -/
def State.relocatePage (s : State) (old new n : Nat) (m : Stamp) : State :=
  let s := s.carryPage old new n m
  { s with stamps := (List.range (n / 32)).foldl (fun t i => tset t (new / 32 + i) m) s.stamps }.raiseSlices new n m

/-- A page table moved: every entry and root register that names it names the new page (19 R404, step 1). -/
def State.moveTable (s : State) (old new : Nat) : State :=
  let (s, m) := s.orderStamp (s.pageStamp old 4096)
  let s : State := s.relocatePage old new 4096 m
  let named := (s.roots.flatMap fun r => s.tablesOf r.1).eraseDups.flatMap fun t => (List.range 512).filterMap fun i =>
    let p : DWord := BitVec.ofNat 64 (s.readNat (t + 8 * i) 8)
    if pteV p && !pteLeaf p && pteAddr p == old then some (t + 8 * i) else none
  let s : State := named.foldl (fun s a => (s.performWrite a (leBytes 8 (new + s.readNat a 8 % 4096)) 0).1) s
  { s with roots := s.roots.map (fun r => if pteAddr r.2 = old then (r.1, BitVec.ofNat 64 (new + r.2.toNat % 4096)) else r),
           tlb := s.tlb.filter fun t => !(old ≤ t.pteAt && t.pteAt < old + 4096) }

/-- A shadow's page whose old page has moved. -/
def ShadowPage.moved (old new : Nat) (p : ShadowPage) : ShadowPage := if p.old = old then { p with old := new } else p

/-- A leaf of a moved page names the new one; one that leaves homes 0 to 7 loses H (19 R405). -/
def movedLeaf (old new : Nat) (p : DWord) : DWord :=
  let drop := if pteH p && homeOf new ≥ 8 then 2 ^ 5 else 0
  BitVec.ofNat 64 (bitsOf p.toNat 0 12 - drop + (new + (pteAddr p - old)) + bitsOf p.toNat 52 12 * 2 ^ 52)

/-- The leaves of any address space that map bytes of a page, each with its address space. -/
def State.leavesIn (s : State) (pa n : Nat) : List (Nat × Leaf) :=
  s.roots.flatMap fun r => ((s.leavesOf r.1).filter fun x => pa ≤ pteAddr x.pte && pteAddr x.pte < pa + n).map (r.1, ·)

/-- A page's sectors go out through a host window, its poison and its release sides with them (19 R405, R409; log 40). -/
def State.sendPage (s : State) (old new n : Nat) (m : Stamp) : State :=
  let parts := (List.range (n / 128)).map fun i => (new + 128 * i, (0 : DWord), s.read (old + 128 * i) 128)
  let s : State := s.carryPage old new n m
  { s.windowOp (stationReader 0 8 0 noLaunch (.key 0) m) .pageMove 128 none parts with
      backing := s.backing ++ (List.range (ceilDiv n 4096)).map fun i => new + 4096 * i }

/-- Bytes of a page that moves to home 0 to 7 or out through a window. -/
def State.sendOrRelocate (s : State) (old new n : Nat) (m : Stamp) : State :=
  if homeOf new < 8 then s.relocatePage old new n m else s.sendPage old new n m

/-- The pages of homes that name a moved page, other than by a leaf, name the new one. -/
def State.renamePage (s : State) (old new : Nat) : State :=
  { s with poolTaken := s.poolTaken.map (fun p => if p.1 = old then (new, p.2) else p),
           shadows := s.shadows.map (fun y => { y with pages := y.pages.map (ShadowPage.moved old new) }),
           copies := s.copies.map (fun c => { c with shadows := c.shadows.map (ShadowPage.moved old new) }) }

/-- The history of a page whose leaf keeps H at another home: every page of history in it begins anew at stamp `m`, and one at the
leaf's own page at least (16 R360; 19 R405). -/
def State.historyMoved (s : State) (asid : Nat) (x : Leaf) (new n : Nat) (m : Stamp) : List HistPage :=
  let old := pteAddr x.pte
  let within := s.histPages.filter fun h => old ≤ h.page * 4096 && h.page * 4096 < old + n
  let fresh (h : HistPage) (page : Nat) : HistPage := { h with page := page, base := m, live := true, given := m }
  if !within.isEmpty then within.map fun h => fresh h (h.page - old / 4096 + new / 4096)
  else [{ page := new / 4096, count := ceilDiv n 4096, asid := asid, va := BitVec.ofNat 64 x.va, owner := none, base := m, live := true,
          given := m }]

/-- A data page moved (19 R405): copied, every leaf that maps it remapped with one stamp, its history left behind. A page in a
host window has no H. -/
def State.moveLeaf (s : State) (asid : Nat) (x : Leaf) (new : Nat) : State :=
  let old := pteAddr x.pte; let n := x.bytes; let d := homeOf old
  let leaves := s.leavesIn old n
  let keepH := leaves.any (fun y => pteH y.2.pte) && homeOf new < 8
  let (s, m) := s.orderStamp (s.pageStamp old n)
  let s : State := s.sendOrRelocate old new n m
  let s : State := leaves.foldl (fun (s : State) y => (s.performWrite y.2.entry (leBytes 8 (movedLeaf old new y.2.pte).toNat) 0).1) s
  let inOld (sec : Nat) : Bool := old ≤ sec * 32 && sec * 32 < old + n
  let s : State :=
    { s with tlb := s.tlb.filter (fun t => !leaves.any fun y => y.2.entry == t.pteAt),
             versions := s.versions.filter (fun v => !inOld v.sector),
             mapHistory := s.mapHistory.filter (fun r => homeOf (pteAddr r.old) != d),
             histPages := (s.histPages.filter fun h => !(old ≤ h.page * 4096 && h.page * 4096 < old + n)) ++
               if keepH then s.historyMoved asid x new n m else [] }
  leaves.foldl (fun s y => s.moveReaders y.1
      { va := BitVec.ofNat 64 y.2.va, size := pageSize y.2.level, old := pteAddr y.2.pte, new := new + (pteAddr y.2.pte - old),
        clen := pteClen y.2.pte } (movedLeaf old new y.2.pte))
    (s.renamePage old new)

/-- The fresh page of a shadow moved: the shadow names the new one (09 R237; 19 R405). -/
def State.moveShadow (s : State) (p : ShadowPage) (new : Nat) : State :=
  let n := roundUp (DataPage.shadow p).bytes 4096
  let (s, m) := s.orderStamp (s.pageStamp p.new n)
  let rename (q : ShadowPage) : ShadowPage := if q.new = p.new then { q with new := new } else q
  let s : State := s.sendOrRelocate p.new new n m
  { s with poolTaken := s.poolTaken.map (fun b => if b.1 = p.new then (new, b.2) else b),
           shadows := s.shadows.map (fun y => { y with pages := y.pages.map rename }),
           copies := s.copies.map (fun c => { c with shadows := c.shadows.map rename }) }

/-- A data page moved. -/
def State.movePage (s : State) (asid : Nat) (x : DataPage) (new : Nat) : State :=
  match x with
  | .leaf y => s.moveLeaf asid y new
  | .shadow p => s.moveShadow p new

/-- A page that finds no destination is poisoned and counted in PPOIS; the regions that map a byte of it are killed (19 R404,
R406). -/
def State.poisonPage (s : State) (d pa n : Nat) : State :=
  let s : State := { s with poisoned := (s.poisoned ++ (List.range (n / 32)).map fun i => pa / 32 + i).eraseDups }
  let pages := (List.range (ceilDiv n 4096)).map fun i => pa + 4096 * i
  let s : State := s.modDie d fun x => { x with ppois := x.ppois + 1, poisonedPages := x.poisonedPages ++ pages }
  s.killMapping (fun p m => p < pa + n && pa < p + m) (fun t => t == pa)

/-- The data page of an address that is the next to move from an evacuating die without tables. -/
def State.pageDue (s : State) (asid : Nat) (va : DWord) : Option (Nat × DataPage) :=
  (List.range 8).findSome? fun d =>
    if s.evacuating d && (s.tablesOn d).isEmpty then
      (s.nextPage d).filter fun x => x.1 == asid && x.2.va ≤ va.toNat && va.toNat < x.2.va + x.2.size
    else none

/-- PAGE_MOVE (19 R404, R405): one page of an evacuating die. A table on the walk comes first; a data page is moved only in the
order of R404, once the die holds no table. A move out of that order is refused, and so is poison while a destination has room. -/
def execEvPageMove (asid : Nat) (va : DWord) (dest : Option Nat) (s : State) : Result :=
  match s.rootOf asid with
  | none => .next s
  | some root =>
    match (s.walkTables va 5 0 root).find? fun pa => s.evacuating (homeOf pa) && s.toMove (homeOf pa) pa with
    | some t =>
      if s.pageBusy t 4096 then .next s
      else match dest with
        | none => if s.noDest 4096 4096 .table then .next (State.stabilise (s.poisonPage (homeOf t) t 4096)) else .next s
        | some pa => if s.destOk pa 4096 4096 .table then .next (s.moveTable t pa) else .next s
    | none => match s.pageDue asid va with
      | none => .next s
      | some (owner, x) =>
        let n := roundUp x.bytes 4096
        if s.pageBusy x.pa x.bytes then .next s
        else match dest with
          | none => if s.noDest x.size n .page then .next (State.stabilise (s.poisonPage (homeOf x.pa) x.pa x.bytes)) else .next s
          | some pa => if s.destOk pa x.size n .page then .next (s.movePage owner x pa) else .next s

/-- Work of a launch remains on a die (19 R400). -/
def State.workOn (s : State) (d : Nat) : Bool :=
  s.wgs.any (·.die == d) || s.stages.any (·.die == d) || s.queues.any (fun q => q.die == d && !q.records.isEmpty)
  || s.copies.any (·.die == d) || s.lineOps.any (·.die == d)
  || s.launches.any fun l => l.segments.any fun g =>
      !g.overflow.isEmpty && ((s.logicalCores l.dies)[g.replicas.headD 0]?.map (·.1)) == some d

/-- DIE_OFFLINE (19 R400, R403, R404): every page moved or poisoned, or a lost die without memory path; a retired die, once no
work remains on it, frees its die store, and a launch that holds no other die for its saved or pending workgroups fails. -/
def execEvDieOffline (die : Nat) (s : State) : Result :=
  let d := s.die die
  let ready := if d.lost && !d.mempath then d.st == 1 || d.st == 2
    else d.st == 2 && (s.tablesOn die).isEmpty && (s.nextPage die).isNone
  if die ≥ 8 || !ready || (!d.lost && s.workOn die) then .next s
  else
    let t := s.modDie die fun d => { d with st := 3 }
    if d.lost then .next t
    else
      let t : State := (t.allocs.filter fun a => a.die == die).foldl (fun t a =>
        t.wipe (dieStoreKey die a.base) (dieStoreKey die a.base + a.size)) t
      let fails (l : Launch) : Bool :=
        l.phase == .running && l.dies.contains die && t.stranded l && (!l.saved.isEmpty || l.nextWg < l.total)
      let launches := t.launches.map fun l => if fails l then l.strand die else l
      .next { t with allocs := t.allocs.filter (fun a => a.die != die), launches := launches }.stabilise

/-! ### The mesh -/

/-- SUBNET_POWER_UP (13 R297): subnetwork n, while subnetwork n - 1 is powered. -/
def execEvSubnetPowerUp (die subnet : Nat) (s : State) : Result :=
  if 1 ≤ subnet && subnet ≤ 3 && (s.die die).subnets.testBit (subnet - 1) then
    .next (s.modDie die fun d => { d with subnets := d.subnets ||| 2 ^ subnet })
  else .next s

/-- SUBNET_POWER_DOWN (13 R297); subnetwork 0 is always powered. -/
def execEvSubnetPowerDown (die subnet : Nat) (s : State) : Result :=
  if 1 ≤ subnet && subnet ≤ 3 && (s.die die).subnets.testBit subnet then
    .next (s.modDie die fun d => { d with subnets := d.subnets - 2 ^ subnet })
  else .next s

/-! ### Sample buffers -/

/-- A LOST record (11 Table 11-2). -/
def lostRecord (n : Nat) : DWord := BitVec.ofNat 64 (n % 2 ^ 47 * 8 + 7)

/-- A cluster of a die changed. -/
def State.modCluster (s : State) (d k : Nat) (f : Cluster → Cluster) : State :=
  s.modDie d fun x => { x with clusters := modAt x.clusters k f }

/-- One record leaves a buffer for the die's ring (11 R273, R274): the place it frees takes a LOST record when records were
dropped. -/
def State.drain (s : State) (d k : Nat) : State :=
  let x := s.die d
  match (x.clusters.getD k {}).buffer with
  | [] => s
  | r :: rest =>
    let s : State := if x.ringSize = 0 then s
      else s.storeBytes none (dieStoreKey d (4096 * x.ringBase + 8 * (x.ringWidx % (512 * x.ringSize)))) (leBytes 8 r.toNat)
    let s : State := s.modDie d fun x => { x with ringWidx := if x.ringSize = 0 then x.ringWidx else x.ringWidx + 1 }
    s.modCluster d k fun c => { c with buffer := rest ++ (if c.lost = 0 then [] else [lostRecord c.lost]), lost := 0 }

/-- SAMPLE_DRAIN (11 R273, R274). -/
def execEvSampleDrain (die cluster : Nat) (s : State) : Result := .next (s.drain die cluster)

/-- A whole buffer drained. -/
def State.drainAll (d k : Nat) : Nat → State → State
  | 0, s => s
  | f + 1, s => State.drainAll d k f (s.drain d k)

/-! ### Power-gating -/

/-- Warps of a cluster. -/
def State.clusterWarps (s : State) (d k : Nat) : List Warp := s.warps.filter fun w => w.die == d && w.core / 4 == k

/-- CLUSTER_POWER_GATE (11 R275): a cluster without warps is drained and gated. -/
def execEvClusterPowerGate (die cluster : Nat) (s : State) : Result :=
  if cluster ≥ 9 || !(s.clusterWarps die cluster).isEmpty then .next s
  else .next ((State.drainAll die cluster 514 s).modCluster die cluster fun c => { c with gated := true })

/-- THERMAL_EMERGENCY_GATE (11 R275; 20 R428): resident work is pre-empted and the cluster gated without draining. -/
def execEvThermalEmergencyGate (die cluster : Nat) (s : State) : Result :=
  let ids := ((s.clusterWarps die cluster).map (·.launch)).eraseDups
  let t := s.modCluster die cluster fun c =>
    { c with gated := true, kept := c.kept + c.buffer.length + c.lost, buffer := [], lost := 0 }
  .next (State.stabilise (ids.foldl (fun t id => t.preempt id) t))

/-- CLUSTER_UNGATE (11 R275): the first record is a LOST record with the kept count. -/
def execEvClusterUngate (die cluster : Nat) (s : State) : Result :=
  .next (s.modCluster die cluster fun c =>
    if c.gated then { c with gated := false, kept := 0, buffer := if c.kept = 0 then c.buffer else c.buffer ++ [lostRecord c.kept] } else c)

end Sys2Proof.Machine
end

