-- ==== Sys2Proof/Machine/Mailbox.lean ====
section
/-! DEFINITION. Machine/Mailbox.lean: the mailbox engine and its commands (20 R411 to R417, R427), boot, verification and attestation
(20 R422 to R426), windows and the fabric (20 R418 to R421). -/

namespace Sys2Proof.Machine

/-! ### Packets -/

/-- The 256 bytes of a packet (20 Table 20-1). -/
def Packet.bytes (p : Packet) : List Byte :=
  leBytes 1 p.op ++ leBytes 1 p.rsv ++ leBytes 2 p.tag ++ leBytes 2 p.region ++ leBytes 2 p.len ++ leBytes 8 p.addr.toNat
    ++ leBytes 8 p.arg0.toNat ++ leBytes 4 p.arg1.toNat ++ leBytes 2 p.version ++ leBytes 2 p.status ++ p.payload
    ++ List.replicate (224 - p.payload.length) 0

/-- The packet in 256 bytes (20 Table 20-1): bytes past LEN that are not zero stand in its payload, which is then longer than
LEN. -/
def packetOf (b : List Byte) : Packet :=
  let n := field b 6 2; let body := (b.drop 0x20).take 224
  { op := field b 0 1, rsv := field b 1 1, tag := field b 2 2, region := field b 4 2, len := n, addr := BitVec.ofNat 64 (field b 8 8),
    arg0 := BitVec.ofNat 64 (field b 0x10 8), arg1 := BitVec.ofNat 32 (field b 0x18 4), version := field b 0x1C 2,
    status := field b 0x1E 2, payload := if (body.drop n).all (· == 0) then body.take n else body }

/-- STATUS codes (20 Table 20-3). -/
inductive MailStatus where
  | ok | denied | fault | malformed | noVersion | busy | verifyFailed | timeout | poison
  deriving DecidableEq, Repr

def MailStatus.code : MailStatus → Nat
  | .ok => 0 | .denied => 1 | .fault => 2 | .malformed => 3 | .noVersion => 4 | .busy => 5 | .verifyFailed => 6 | .timeout => 7
  | .poison => 8

/-- The response to a command (20 R411). -/
def State.reply (s : State) (p : Packet) (st : MailStatus) (arg0 : DWord := 0) (payload : List Byte := []) : State :=
  { s with outbound := s.outbound ++
      [{ op := p.op % 128 + 128, tag := p.tag, region := p.region, len := payload.length, arg0 := arg0, status := st.code,
         payload := payload }] }

/-- A command keeps the header of Table 20-1 (20 R412). -/
def State.packetForm (s : State) (p : Packet) (op : Nat) : Bool :=
  p.op == op && p.rsv == 0 && p.tag < 65536 && p.region < 65536 && p.len ≤ 224 && p.version == s.negotiated.getD 0 0
  && p.status == 0 && p.payload.length == p.len

/-- A number is a multiple of 2 MiB. -/
def twoMiB (n : Nat) : Bool := n % 2 ^ 21 == 0

/-- Bytes of the staging buffer (20 R423). -/
def stagingBytes : Nat := 2 ^ 25

/-- A command keeps its row of Table 20-2 (20 R412, R413, R423). -/
def argsForm (p : Packet) : Bool :=
  let page (n : Nat) : Bool := p.addr.toNat % 4096 + n ≤ 4096 && (p.region != 0xFFFF || p.addr.toNat + n ≤ stagingBytes)
  match p.op with
  | 1 => p.arg0 == 0 && p.arg1 == 0 && 1 ≤ p.len && page p.len
  | 2 => p.arg0 == 0 && p.len == 0 && 1 ≤ p.arg1.toNat && p.arg1.toNat ≤ 224 && page p.arg1.toNat
  | 3 => p.addr == 0 && p.arg0 == 0 && p.arg1.toNat < 16 && p.len == 0
  | 4 => p.addr.toNat % 64 == 0 && p.len == 0
  | 5 => twoMiB p.addr.toNat && twoMiB p.arg0.toNat && p.arg0.toNat ≤ 2 ^ 48 && p.arg1.toNat < 16 && p.len == 0 && p.region == 0
  | 6 => p.addr == 0 && p.arg0.toNat < 2 ^ 32 && p.arg1.toNat < 4 && p.len == 0 && p.region == 0
  | 7 => p.addr == 0 && p.arg1 == 0 && p.len == 0 && p.region == 0
  | 8 => p.arg0 == 0 && p.arg1 == 0 && p.len == 32 && p.region == 0
  | _ => false

/-- A region's node that a host may not name (20 R413), or any region before firmware runs (20 R422). -/
def State.hostDenied (s : State) (n : Nat) : Bool :=
  s.boot != .firmware || n == 0 || !s.hostMask.contains n || (match s.region? n with
    | none => true
    | some r => r.st == 0 || r.st == 3)

/-! ### WRITE and READ -/

/-- The die that holds the staging buffer: the lowest that passes power-on test (20 R423). -/
def State.stagingDie (s : State) : Nat := ((List.range 8).find? fun d => s.online d && (s.die d).harvest != 0).getD 0

/-- The mailbox as a reader, ORIGIN 0xFFFF in its fault records (20 R413). -/
def State.mailReader (s : State) (node op : Nat) (va : DWord) : Copy :=
  { stationReader op 8 node 0 (.virt (s.effAsid node) va) s.mailClock with unit := 0xFFFF }

/-- The record of an access that is not permitted (13 Table 13-6, REASON 2). -/
def State.deniedRecord (s : State) (asid : Nat) (va : DWord) (kind : Nat) : BitVec 128 :=
  let level := match s.walk asid va with
    | .leaf l _ _ => l
    | .fault l _ => l
  faultRecord va asid kind level 2 8 0xFFFF

/-- Bytes written through a window, at most 128 in a packet (20 R420). -/
def State.windowWrite (s : State) (r : Copy) (va : DWord) (pa : Nat) (bs : List Byte) : State :=
  let s : State := s.windowOp r (.frontWrite r.id) (min 128 bs.length) none [(pa, va, bs.take 128)]
  if bs.length ≤ 128 then s
  else s.windowOp r (.frontWrite r.id) (bs.length - 128) none [(pa + 128, va + 128, bs.drop 128)]

/-- The mailbox as a writer (20 R414). -/
def State.mailWriter (s : State) : Writer := { who := some mailParty, number := s.fresh, acked := true }

/-- A WRITE to a region's address (20 R413, R414): each sector's store carries the acknowledgements of those before it (16
R353). -/
def State.mailWrite (s : State) (p : Packet) : State :=
  let asid := s.effAsid p.region
  match s.xlate 8 asid p.addr .write with
  | (s, .fault l r) => (s.report (faultRecord p.addr asid 4 l r 8 0xFFFF)).reply p .fault
  | (s, .denied) => (s.report (s.deniedRecord asid p.addr 4)).reply p .fault
  | (s, .ok pa _) =>
    let s := s.touch 8 asid p.addr true s.mailWriter
    if inWindow pa then
      let op := s.fresh
      { { s with fresh := op + 1 }.windowWrite (s.mailReader p.region op p.addr) p.addr pa p.payload with mailOp := some (p, op) }
    else if s.gone pa then (s.poisonLog pa p.region).reply p .poison
    else
      let (t, st) := s.performInTurn s.mailClock 9 pa p.payload
      ({ (t.signedAll s.mailWriter pa p.len).noticeWrite pa p.len with mailClock := max s.mailClock st }).reply p .ok

/-- WRITE (20 R413, R414, R423, R424). -/
def State.doWrite (s : State) (p : Packet) : State :=
  if p.region = 0xFFFF then match s.boot with
    | .boot => (s.write (dieStoreKey s.stagingDie p.addr.toNat) p.payload).reply p .ok
    | .verifying _ => s.reply p .busy
    | .firmware => s.reply p .denied
  else if s.hostDenied p.region then s.reply p .denied
  else s.mailWrite p

/-- What a READ, or a READC's read of its record, comes to. -/
def State.mailRead (s : State) (p : Packet) (op n : Nat) : State :=
  let asid := s.effAsid p.region
  match State.readVirt (s.mailReader p.region op p.addr) 3 2 s p.addr.toNat n with
  | .ok t bs =>
    let st := s.sourceStamp 8 asid s.mailClock 4 p.addr.toNat n
    ({ t.dropWindow op with mailClock := max s.mailClock st, mailOp := none }).reply p .ok 0 bs
  | .fault t _ rec => ({ t.report rec with mailOp := none }).reply p .fault
  | .denied t => ({ t.report (t.deniedRecord asid p.addr 3) with mailOp := none }).reply p .fault
  | .poison t pa => ({ (t.poisonLog pa p.region).dropWindow op with mailOp := none }).reply p .poison
  | .window t g => { t.windowCopy (s.mailReader p.region op p.addr) false (g.map fun x => (x.1, x.2, [])) with mailOp := some (p, op) }

/-- READ (20 R413, R414, R423). -/
def State.doRead (s : State) (p : Packet) : State :=
  if p.region = 0xFFFF then
    if s.boot = .firmware then s.reply p .denied
    else s.reply p .ok 0 (s.read (dieStoreKey s.stagingDie p.addr.toNat) p.arg1.toNat)
  else if s.hostDenied p.region then s.reply p .denied
  else { s with fresh := s.fresh + 1 }.mailRead p s.fresh p.arg1.toNat

/-! ### Queues and completion records -/

/-- SUBMIT (20 R414, R415, R427): the distributor rereads the queue's descriptor; every earlier command happens before what it
starts. -/
def State.doSubmit (s : State) (p : Packet) : State :=
  if s.hostDenied p.region then s.reply p .denied
  else if s.negotiated.getD 1 0 = 0 then s.reply p .noVersion
  else (s.submit p.region p.arg1.toNat (pastAdd s.mailPast mailAgent s.fresh)).reply p .ok

/-- READC (20 R413, R416): it parks, at most 64 at once. -/
def State.doReadc (s : State) (p : Packet) : State :=
  if s.hostDenied p.region then s.reply p .denied
  else if s.parked.length ≥ 64 then s.reply p .busy
  else
    let asid := s.effAsid p.region
    match s.xlate 8 asid p.addr .read with
    | (t, .fault l r) => (t.report (faultRecord p.addr asid 3 l r 8 0xFFFF)).reply p .fault
    | (t, .denied) => (t.report (t.deniedRecord asid p.addr 3)).reply p .fault
    | (t, .ok _ _) =>
      let d := if p.arg1 = 0 then none else some (s.tick + 1000 * p.arg1.toNat)
      { t with parked := t.parked ++ [{ packet := p, deadline := d, op := s.fresh }], fresh := s.fresh + 1 }

/-- A parked READC is gone. -/
def State.unpark (s : State) (r : ParkedReadc) : State := { s with parked := s.parked.filter fun x => x != r }

/-- What the engine finds of a parked READC's record: nothing while bytes 0x00 to 0x07 do not name the launch, else the record,
read whole (20 R416). -/
def State.readRecord (s : State) (r : ParkedReadc) : EngineOut (List Byte) :=
  let p := r.packet
  let read (s : State) (n : Nat) := State.readVirt (s.mailReader p.region r.op p.addr) 3 2 s p.addr.toNat n
  (read s 8).bind fun t bs => if leNat bs = p.arg0.toNat then read t 64 else .ok t []

/-- A parked READC rereads its record: it ends once the record names the expected launch, as an acquire at .sys (20 R416). -/
def State.readcMatch (s : State) (r : ParkedReadc) : State :=
  let p := r.packet
  let asid := s.effAsid p.region
  match s.readRecord r with
  | .ok t [] => if s.accesses.any fun a => a.op == .copyRead r.op then t.dropWindow r.op else t
  | .ok t bs =>
    let ys := s.frontHears mailParty asid p.addr.toNat 64
    let st := max (s.sourceStamp 8 asid s.mailClock 4 p.addr.toNat 64) (stampOf ys)
    ({ (t.dropWindow r.op).unpark r with mailClock := max s.mailClock st, mailPast := joinPast s.mailPast (pastOf ys) }).reply p .ok 0 bs
  | .fault t _ rec => ((t.report rec).unpark r).reply p .fault
  | .denied t => ((t.report (t.deniedRecord asid p.addr 3)).unpark r).reply p .fault
  | .poison t pa => (((t.poisonLog pa p.region).dropWindow r.op).unpark r).reply p .poison
  | .window t g =>
    if s.accesses.any fun a => a.op == .copyRead r.op && a.lanes.any (!·.done) then s
    else t.windowCopy (s.mailReader p.region r.op p.addr) false (g.map fun x => (x.1, x.2, []))

/-- READC_MATCH (20 R416): each parked READC of a TAG rereads its record. -/
def execEvReadcMatch (tag : Nat) (s : State) : Result :=
  .next ((s.parked.filter fun r => r.packet.tag == tag).foldl (fun s r => s.readcMatch r) s)

/-- READC_TIMEOUT (20 R416): each parked READC of a TAG whose limit has expired. -/
def execEvReadcTimeout (tag : Nat) (s : State) : Result :=
  let due (r : ParkedReadc) : Bool := r.packet.tag == tag && (match r.deadline with
    | some t => t ≤ s.tick
    | none => false)
  .next ((s.parked.filter due).foldl (fun s r => ((s.dropWindow r.op).unpark r).reply r.packet .timeout) s)

/-! ### Windows, versions -/

/-- The evacuated pages that a leaf or a shadow still names (19 R404; 20 R417). -/
def State.backed (s : State) : List Nat := s.backing.filter fun pa => !clearOf s.usedRanges pa 4096

/-- GRANT (20 R417): a revocation is BUSY while evacuated pages lie in the window. -/
def State.doGrant (s : State) (p : Packet) : State :=
  let w := p.arg1.toNat % 4
  if p.arg0 = 0 then
    if s.backed.any fun pa => homeOf pa == 8 + w then s.reply p .busy
    else ({ s with windows := s.windows.set w {} }).reply p .ok
  else ({ s with windows := s.windows.set w { base := p.addr.toNat, size := p.arg0.toNat, flags := p.arg1.toNat } }).reply p .ok

/-- The versions the device offers for an interface (20 R427): lowest and highest. -/
def State.offered (s : State) (i : Nat) : Nat × Nat :=
  if i = 3 then (s.imageVersions % 256, s.imageVersions / 256) else (1, 1)

/-- NEGOTIATE (20 R422, R427). -/
def State.doNegotiate (s : State) (p : Packet) : State :=
  let i := p.arg1.toNat
  let (lo, hi) := s.offered i
  let v := min hi (p.arg0.toNat / 2 ^ 16); let old := s.negotiated.getD i 0
  if s.boot ≠ .firmware && i ≠ 0 then s.reply p .denied
  else if v < max lo (p.arg0.toNat % 2 ^ 16) then s.reply p .noVersion
  else if old ≠ 0 && v ≠ old && s.launches.any (·.open_) then s.reply p .busy
  else ({ s with negotiated := s.negotiated.set i v }).reply p .ok (BitVec.ofNat 64 v)

/-! ### Boot and attestation -/

/-- A WRITE to the staging buffer. -/
def toStaging (p : Packet) : Bool := p.op == 1 && p.region == 0xFFFF

/-- A WRITE to the staging buffer while BOOT verifies is BUSY (20 R424). -/
def State.refuseWrite (s : State) (p : Packet) : State :=
  s.reply p (if s.packetForm p 1 && argsForm p then .busy else .malformed)

/-- BOOT (20 R424): verification starts, and the commands behind it wait for its end, but for WRITEs to the staging buffer; a
second BOOT after an OK is DENIED. -/
def State.doBoot (s : State) (p : Packet) : State :=
  match s.boot with
  | .boot =>
    let t : State := { s with boot := .verifying p, inbound := s.inbound.filter fun q => !toStaging q }
    (s.inbound.filter fun q => toStaging q).foldl State.refuseWrite t
  | .verifying _ => s.reply p .busy
  | .firmware => s.reply p .denied

/-- BOOT verifies: a command is under way (20 R414, R424). -/
def State.verifying (s : State) : Bool :=
  match s.boot with
  | .verifying _ => true
  | _ => false

/-- The boot ROM's checks of a staged image, in the order of R424 (20 R423, R424). -/
def State.imageGood (s : State) (arg0 : Nat) : Bool :=
  let b := s.read (dieStoreKey s.stagingDie 0) arg0
  let body := field b 4 4
  let part (o n : Nat) : List Byte := (b.drop o).take n
  let message := part 0 0x1D0 ++ part 0x4300 body
  arg0 ≤ stagingBytes && arg0 == 0x4300 + body && 1 ≤ body && body ≤ 33537024
  && field b 0x1CC 4 == 0 && (part 0x42B0 80).all (· == 0)
  && beNat (sha384 (part 0x18 388)) == Config.fusedRsaHash && beNat (sha384 (part 0x19C 48)) == Config.fusedSlhHash
  && rsaVerifies (part 0x18 388) message (part 0x1D0 384) && slhVerifies (part 0x19C 48) message (part 0x350 16224)
  && s.fusedSvn ≤ field b 8 8

/-- The attestation report (20 R426, Table 20-9). -/
def State.attestReport (s : State) (nonce : List Byte) : List Byte :=
  let running := s.boot = .firmware
  let body := leBytes 2 1 ++ leBytes 2 (if running then 1 else 0) ++ List.replicate 12 0 ++ nonce ++ s.measurement
    ++ leBytes 8 (if running then s.svn else s.fusedSvn) ++ (List.range 4).flatMap (fun i => leBytes 2 (s.negotiated.getD i 0))
    ++ (List.range 8).flatMap (fun d => leBytes 8 (s.die d).harvest.toNat)
    ++ beBytes 388 Config.identityRsaKey ++ beBytes 48 Config.identitySlhKey ++ List.replicate 28 0
  body ++ beBytes 384 (Config.identityRsaSign body) ++ beBytes 16224 (Config.identitySlhSign body)

/-- ATTEST (20 R426): the report goes to a granted window that allows writes. -/
def State.doAttest (s : State) (p : Packet) : State :=
  let pa := p.addr.toNat; let w := s.windows.getD (homeOf pa - 8) {}
  if homeOf pa < 8 || homeOf pa > 11 || offsetOf pa + 17248 > w.size || !w.flags.testBit 2 then s.reply p .fault
  else
    let r := s.attestReport p.payload; let op := s.fresh
    { { s with fresh := op + 1 }.windowOp (stationReader op 8 0 0 (.key 0) s.mailClock) (.frontWrite op) 32 none
        ((List.range 539).map fun i => (pa + 32 * i, 0, (r.drop (32 * i)).take 32)) with mailOp := some (p, op) }

/-! ### The mailbox engine -/

/-- A command whose turn has come (20 R412, R414). -/
def State.perform (s : State) (p : Packet) : State :=
  if !s.packetForm p p.op || !argsForm p then s.reply p .malformed
  else match p.op with
    | 1 => s.doWrite p
    | 2 => s.doRead p
    | 3 => s.doSubmit p
    | 4 => s.doReadc p
    | 5 => s.doGrant p
    | 6 => s.doNegotiate p
    | 7 => s.doBoot p
    | 8 => s.doAttest p
    | _ => s.reply p .malformed

/-- A command of OP `op` arrives: the mailbox engine performs commands one at a time, in arrival order, and holds one that comes
while another waits for a window or BOOT verifies (20 R414). A packet of another OP is MALFORMED. -/
def State.command (s : State) (p : Packet) (op : Nat) : Result :=
  let p := if p.op = op then p else { p with rsv := 1 }
  if s.verifying && toStaging p then .next (s.refuseWrite p)
  else if s.mailOp.isSome || s.verifying then .next { s with inbound := s.inbound ++ [p] } else .next (s.perform p)

/-- Held commands are performed until one waits (20 R414). -/
def State.runHeld : Nat → State → State
  | 0, s => s
  | n + 1, s => match s.mailOp, s.inbound with
    | none, p :: r => if s.verifying then s else State.runHeld n (({ s with inbound := r } : State).perform p)
    | _, _ => s

/-- A command that waited for its window accesses ends once they are answered (20 R414, R419, R426). -/
def State.finishOne (s : State) : State :=
  match s.mailOp with
  | none => s
  | some (p, op) =>
    if p.op = 2 then
      if s.accesses.any fun a => a.op == .copyRead op && a.lanes.any (!·.done) then s
      else s.mailRead p op p.arg1.toNat
    else if s.accesses.any fun a => a.op == .frontWrite op then s
    else ({ s with mailOp := none }).reply p .ok

/-- So do the commands held behind it. -/
def State.finishMail (s : State) : State := State.runHeld s.inbound.length s.finishOne

/-- BOOT_VERIFY (20 R424): the measurement is written and firmware starts, which sets the history reserve aside (13 R315; log
38), or the buffer is zeroed. -/
def execEvBootVerify (s : State) : Result :=
  match s.boot with
  | .verifying p =>
    let k := dieStoreKey s.stagingDie 0; let n := p.arg0.toNat
    if s.imageGood n then
      .next (({ s with boot := .firmware, hreserve := min 12 (max 1 Config.historyReserve),
                       measurement := sha384 (s.read k n), svn := s.readNat (k + 8) 8,
                       imageVersions := s.readNat (k + 2) 2 }).reply p .ok).finishMail
    else .next (({ s.wipe k (k + stagingBytes) with boot := .boot }).reply p .verifyFailed).finishMail
  | _ => .next s

/-- WRITE (20 R413). -/
def execEvWrite (p : Packet) (s : State) : Result := s.command p 1
/-- READ (20 R413). -/
def execEvRead (p : Packet) (s : State) : Result := s.command p 2
/-- SUBMIT (20 R415). -/
def execEvSubmit (p : Packet) (s : State) : Result := s.command p 3
/-- READC (20 R416). -/
def execEvReadc (p : Packet) (s : State) : Result := s.command p 4
/-- GRANT (20 R417). -/
def execEvGrant (p : Packet) (s : State) : Result := s.command p 5
/-- NEGOTIATE (20 R427). -/
def execEvNegotiate (p : Packet) (s : State) : Result := s.command p 6
/-- BOOT (20 R424). -/
def execEvBoot (p : Packet) (s : State) : Result := s.command p 7
/-- ATTEST (20 R426). -/
def execEvAttest (p : Packet) (s : State) : Result := s.command p 8

/-! ### Windows and the fabric -/

/-- WINDOW_ACCESS_REPLY (20 R419, R420). -/
def execEvWindowAccessReply (acc lane : Nat) (data : BitVec 128) (s : State) : Result :=
  .next (State.stabilise (s.windowReply acc lane data).finishMail)

/-- WINDOW_TIMEOUT (20 R420, R421). -/
def execEvWindowTimeout (acc lane : Nat) (s : State) : Result := .next (State.stabilise (s.windowExpire acc lane).finishMail)

/-- FABRIC_PORT_DOWN (20 R421). -/
def execEvFabricPortDown (port : Nat) (s : State) : Result :=
  .next { s with ports := s.ports &&& ~~~(BitVec.ofNat 8 (2 ^ port)) }

/-- Another package, which acts at .sys (20 R418). -/
def remoteParty : Party := { mailParty with thread := mailAgent + 1 }

/-- FABRIC_REMOTE_REQUEST (20 R418): served at the slices as a .sys access; a page of an unreachable home reads as poison and
takes no store (19 R403). -/
def execEvFabricRemoteRequest (r : FabricRequest) (s : State) : Result :=
  let n := if r.write then r.data.length else r.len
  if r.port ≥ 8 || !s.ports.getLsbD r.port || homeOf r.pa ≥ 8 || n = 0 || offsetOf r.pa + n > s.populated then .next s
  else if r.write then
    let t : State := if s.gone r.pa then s
      else ((s.performBytes 0 (n / 32 + 2) r.pa r.data).1.signedAll { who := some remoteParty, number := s.fresh, acked := true } r.pa n).noticeWrite r.pa n
    .next { t with fabricOut := t.fabricOut ++ [{ port := r.port, pa := r.pa, data := [] }] }
  else match s.readThrough r.pa 0 n with
    | .ok bs => .next { s.raiseSlices r.pa n 0 with fabricOut := s.fabricOut ++ [{ port := r.port, pa := r.pa, data := bs }] }
    | .error pa => .next { s.poisonLog pa 0 with fabricOut := s.fabricOut ++ [{ port := r.port, pa := r.pa, data := [], poison := true }] }

/-- FRONT_DIE_RESET (20 R422, R425; 16 R350; 19 R398): the state after reset, with what is fused. -/
def execEvFrontDieReset (s : State) : Result :=
  .next { State.reset with dies := s.dies.map (fun d => ({ harvest := d.harvest } : Die)), fusedSvn := s.fusedSvn,
                           agenda := s.agenda, free := s.free, fresh := s.fresh }

end Sys2Proof.Machine
end

