-- ==== Sys2Proof/Machine/Uses.lean ====
section
/-! DEFINITION. Machine/Uses.lean: the registers, predicates and tickets each instruction reads and writes, as the checks of
REG_RANGE, the scoreboard and the pairing rules count them (01 R30, R43; 02 R66; 06 R154; 07 R194). -/

namespace Sys2Proof.Machine

/-- What an instruction reads and writes; `routes` are the lowest bits of the route bytes of its routed sources. -/
structure Uses where
  reads   : List Nat := []
  writes  : List Nat := []
  preads  : List Nat := []
  pwrites : List Nat := []
  treads  : List Nat := []
  twrites : List Nat := []
  routes  : List Nat := []
  deriving DecidableEq, Repr

/-- Register sources of formats V and I with the lowest bit of their route bytes. -/
def Uses.ofSrcs (srcs : List (Src × Nat)) (writes : List Nat) : Uses where
  reads := srcs.flatMap fun p => p.1.regs
  writes := writes
  routes := srcs.filterMap fun p => if p.1.rt = .none then none else some p.2

/-- A destination of TYPE. -/
def FormV.dstOf (f : FormV) (wide : Bool) : List Nat := dstRegs f.dst.toNat wide
def FormI.dstOf (f : FormI) (wide : Bool) : List Nat := dstRegs f.dst.toNat wide

/-- Sources of format V by width, and a destination. -/
def FormV.use1 (f : FormV) (a : Bool) (writes : List Nat) : Uses := .ofSrcs [(f.a a, 30)] writes
def FormV.use2 (f : FormV) (a b : Bool) (writes : List Nat) : Uses := .ofSrcs [(f.a a, 30), (f.b b, 46)] writes
def FormV.use3 (f : FormV) (a b c : Bool) (writes : List Nat) : Uses :=
  .ofSrcs [(f.a a, 30), (f.b b, 46), (f.c c, 62)] writes
/-- Source A of format I. -/
def FormI.use1 (f : FormI) (a : Bool) (writes : List Nat) : Uses := .ofSrcs [(f.a a, 30)] writes

/-- One or two sources of TYPE and a destination of TYPE. -/
def FormV.same1 (f : FormV) : Uses := FormV.use1 f f.type.wide (FormV.dstOf f f.type.wide)
def FormV.same2 (f : FormV) : Uses := FormV.use2 f f.type.wide f.type.wide (FormV.dstOf f f.type.wide)
def FormV.same3 (f : FormV) : Uses := FormV.use3 f f.type.wide f.type.wide f.type.wide (FormV.dstOf f f.type.wide)
def FormI.same1 (f : FormI) : Uses := FormI.use1 f f.type.wide (FormI.dstOf f f.type.wide)
/-- A 32-bit control operand (04 R108). -/
def FormV.ctl (f : FormV) : Uses := FormV.use2 f f.type.wide false (FormV.dstOf f f.type.wide)

/-- A collective's member register (04 R102). -/
def FormV.withMask (f : FormV) (u : Uses) : Uses := { u with reads := u.reads ++ FormV.memberReg f }

/-- A memory instruction's address, data and third operand. -/
def FormM.use (f : FormM) (reads writes : List Nat) : Uses := { reads := f.adrRegs ++ reads, writes := writes }

/-- The mask register of a matrix instruction. -/
def FormX.maskReg (f : FormX) : List Nat := if f.allLanes then [] else [f.xe.toNat]

/-- What an instruction uses besides its guard. -/
def usesOf : Instr → Uses
  | .call f => { writes := dstRegs f.lnk.toNat true }
  | .brx f | .ret f => { reads := dstRegs f.lnk.toNat true }
  | .poll f => FormV.withMask f
      (if f.opsAt 85 84 = 2 then { preads := [f.sa.toNat], writes := [f.dst.toNat] }
       else { preads := [f.sa.toNat], pwrites := [f.dst.toNat] })
  | .fold f => FormV.withMask f (FormV.use1 f false [f.dst.toNat])
  | .peer f => FormV.withMask f (FormV.use1 f f.type.wide [f.dst.toNat])
  | .pcomb f => { preads := [f.sa.toNat, f.sb.toNat, f.sc.toNat], pwrites := [f.dst.toNat] }
  | .iadd f | .isub f | .imul f | .imulh f | .idiv f | .irem f | .imin f | .imax f => FormV.same2 f
  | .iaddI f | .isubI f | .imulI f | .imulhI f | .idivI f | .iremI f | .iminI f | .imaxI f => FormI.same1 f
  | .imad f | .ffma f => FormV.same3 f
  | .imadw f => FormV.use3 f false false true (FormV.dstOf f true)
  | .iabs f | .ineg f | .mov f | .brev f => FormV.same1 f
  | .icmp f | .fcmp f => { FormV.use2 f f.type.wide f.type.wide [] with pwrites := [f.dst.toNat] }
  | .icmpI f | .fcmpI f => { FormI.use1 f f.type.wide [] with pwrites := [f.dst.toNat] }
  | .sel f => { FormV.same2 f with preads := [f.opsAt 87 84 / 2 % 8] }
  | .selI f => { FormI.same1 f with preads := [f.opsAt 87 84 / 2 % 8] }
  | .movi f => { writes := FormI.dstOf f f.type.wide }
  | .lea f => if f.ops.toNat % 2 = 1 then FormI.use1 f false (FormI.dstOf f true) else { writes := FormI.dstOf f true }
  | .and_ f | .or_ f | .xor_ f | .andn f | .orn f => FormV.same2 f
  | .andI f | .orI f | .xorI f | .andnI f | .ornI f => FormI.same1 f
  | .shl f | .shr f | .sar f | .rol f | .ror f | .bfe f | .prmb f => FormV.ctl f
  | .shlI f | .shrI f | .sarI f | .rolI f | .rorI f | .bfeI f | .prmbI f => FormI.same1 f
  | .bfi f => { FormV.ctl f with reads := (FormV.ctl f).reads ++ FormV.dstOf f f.type.wide }
  | .bfiI f => { FormI.same1 f with reads := (FormI.same1 f).reads ++ FormI.dstOf f f.type.wide }
  | .popc f | .clz f | .ctz f | .fclass f => FormV.use1 f f.type.wide [f.dst.toNat]
  | .fadd f | .fsub f | .fmul f | .fdiv f | .fmin f | .fmax f | .fminn f | .fmaxn f => FormV.same2 f
  | .faddI f | .fsubI f | .fmulI f | .fminI f | .fmaxI f | .fminnI f | .fmaxnI f => FormI.same1 f
  | .fabs f | .fneg f | .frcp f | .frsq f | .fsqrt f | .fex2 f | .flg2 f | .fsin f | .fcos f | .ftanh f => FormV.same1 f
  | .fcvt f =>
    let u := FormV.use1 f f.stype.wide (FormV.dstOf f f.type.wide)
    if f.opsAt 89 88 = 1 || f.opsAt 89 88 = 2 then { u with reads := u.reads ++ [f.dst.toNat] } else u
  | .icvt f | .fcvti f => FormV.use1 f f.stype.wide (FormV.dstOf f f.type.wide)
  | .quant f =>
    { reads := f.sa.toNat :: (if f.opsAt 90 90 = 1 || f.opsAt 89 88 = 2 then [f.sb.toNat] else []),
      writes := planeRegs f.dst.toNat 9 }
  | .deq f => { reads := planeRegs f.sa.toNat (f.opsAt 93 91 + 1) ++ [f.sb.toNat], writes := FormV.dstOf f f.type.wide }
  | .plsplit f => { reads := [f.sa.toNat], writes := planeRegs f.dst.toNat 8 }
  | .pljoin f => { reads := planeRegs f.sa.toNat (f.opsAt 93 91 + 1), writes := [f.dst.toNat] }
  | .mma f =>
    { reads := regRange f.xa.toNat (fragRegs f.shape f.codeA) ++ regRange f.xb.toNat (fragRegs f.shape f.codeB)
               ++ regRange f.xc.toNat 32 ++ regRange f.xd.toNat 4 ++ FormX.maskReg f,
      writes := regRange f.dst.toNat 32 }
  | .mloop f =>
    { reads := regRange f.dst.toNat 32 ++ regRange f.xc.toNat 4 ++ regRange f.xd.toNat 4 ++ FormX.maskReg f,
      writes := regRange f.dst.toNat 32 ++ regRange f.xa.toNat (fragRegs f.shape f.codeA)
                ++ regRange f.xb.toNat (fragRegs f.shape f.codeB) }
  | .mldf f =>
    { reads := f.xa.toNat :: FormX.maskReg f, writes := regRange f.dst.toNat (lineRegs f.shape f.kind f.codeA) }
  | .mstf f => { reads := f.xa.toNat :: regRange f.xb.toNat (lineRegs f.shape f.kind f.codeA) ++ FormX.maskReg f }
  | .mfmt f => { reads := [f.xa.toNat, f.xb.toNat, f.xc.toNat, f.xd.toNat], writes := regRange f.dst.toNat 4 }
  | .ld f => FormM.use f [] (dataRegs f.dat.toNat f.bytes)
  | .st f => FormM.use f (dataRegs f.dat.toNat f.bytes) []
  | .prefetch f | .cctl f => FormM.use f [] []
  | .atom f =>
    FormM.use f (dataRegs f.dat.toNat f.bytes ++ if f.atop = 8 then dataRegs f.aux.toNat f.bytes else [])
      (dataRegs f.dat.toNat f.bytes)
  | .atomf f => FormM.use f (dataRegs f.dat.toNat f.bytes) (dataRegs f.dat.toNat f.bytes)
  | .red f => FormM.use f (dataRegs f.dat.toNat f.bytes) []
  | .waitval f => FormM.use f [f.aux.toNat, f.aux.toNat + 1] [f.dat.toNat]
  | .cpy f => { reads := FormX.copyRegs f false, twrites := [f.dst.toNat] }
  | .cpy2d f => { reads := FormX.copyRegs f true, twrites := [f.dst.toNat] }
  | .publish f => { treads := FormX.tickets f, writes := dstRegs f.dst.toNat true }
  | .abinit f | .abexp f | .abwait f => { reads := [f.xa.toNat, f.xb.toNat] }
  | .abarv f => { reads := f.xa.toNat :: if f.opsAt 93 93 = 1 then [f.xb.toNat] else [] }
  | .abtest f => { reads := [f.xa.toNat, f.xb.toNat], pwrites := [f.dst.toNat] }
  | .tkwait f => { treads := [f.dst.toNat] }
  | .tktest f => { treads := [f.xa.toNat], writes := [f.dst.toNat] }
  | .tkcancel f => { treads := [f.dst.toNat], twrites := [f.dst.toNat] }
  | .tkget f => { treads := [f.xa.toNat], writes := dstRegs f.dst.toNat true }
  | .tkset f => { reads := dstRegs f.xa.toNat true, twrites := [f.dst.toNat] }
  | .board f | .replace f => { reads := dstRegs f.xa.toNat (f.opsAt 95 95 == 0) ++ [f.xb.toNat], twrites := [f.dst.toNat] }
  | .alight f => { reads := [f.xb.toNat], twrites := [f.dst.toNat] }
  | .catchTile f =>
    { reads := [f.xa.toNat, f.xb.toNat, f.xc.toNat] ++ (if f.opsAt 91 91 = 1 then dstRegs f.xd.toNat true else []),
      twrites := [f.dst.toNat] }
  | .lineq f => { reads := [f.xb.toNat], writes := regRange f.dst.toNat 4 }
  | .barc f | .bard f | .pbar f | .waitdep f => { pwrites := [f.dst.toNat] }
  | .launch f => { reads := dstRegs f.xa.toNat true, twrites := [f.dst.toNat] }
  | .segq f => { reads := if f.opsAt 75 75 = 1 then [] else [f.xa.toNat], writes := [f.dst.toNat] }
  | .ldAsof f => FormM.use f [f.aux.toNat, f.aux.toNat + 1] (dataRegs f.dat.toNat f.bytes)
  | .stStamp f => FormM.use f (dataRegs f.dat.toNat f.bytes) (dstRegs f.aux.toNat true)
  | .stamp f | .hnow f => { writes := dstRegs f.dst.toNat true }
  | .hfloor f => FormM.use f [] (dstRegs f.dat.toNat true)
  | .htrim f => { reads := dstRegs f.xa.toNat true, writes := dstRegs f.dst.toNat true }
  | .sread f => { reads := if f.ops.toNat % 2 = 1 then [f.sa.toNat] else [], writes := FormI.dstOf f (f.type == .n64) }
  | .swrite f => { reads := [f.sa.toNat] }
  | _ => {}

/-- What an instruction uses, its guard among the predicates it reads; nop's is ignored (02 R50). -/
def uses (i : Instr) : Uses :=
  let u := usesOf i
  match i with
  | .nop _ => u
  | _ => { u with preads := i.guard.1 :: u.preads }

/-- The lowest register at or beyond a warp's count (01 R30). -/
def Uses.beyond (u : Uses) (nreg : Nat) : Option Nat := least ((u.reads ++ u.writes).filter fun n => nreg ≤ n)

/-- The class of an instruction, bits [9:6] (02 R50). -/
def classOf (i : Instr) : Nat := (i.opcode.getD 0) / 64

/-- Instructions forbidden in travelling-thread mode (11 R284). -/
def travelForbidden : Instr → Bool
  | .poll _ | .fold _ | .peer _ | .bar _ | .barc _ | .bard _ | .pbar _ | .mma _ | .mloop _ | .mldf _ | .mstf _ | .mfmt _ => true
  | _ => false

/-! ### Pairing (02 R65, R66) -/

/-- Classes 0x7 to 0xB and 0xD. -/
def memoryClass (k : Nat) : Bool := 7 ≤ k && k ≤ 11 || k == 13

/-- The classes of a pair. -/
def pairClasses (a b : Nat) : Bool :=
  2 ≤ a && a ≤ 6 && memoryClass b || 2 ≤ b && b ≤ 6 && memoryClass a
  || (a == 2 || a == 3) && (b == 4 || b == 5) || (b == 2 || b == 3) && (a == 4 || a == 5)

/-- Instructions of the pairing classes that never pair. -/
def neverPairs : Instr → Bool
  | .fence _ | .waitval _ | .abwait _ | .tkwait _ | .htrim _ => true
  | _ => false

/-- Two lists meet. -/
def meetsList (a b : List Nat) : Bool := a.any (b.contains ·)

/-- Neither reads or writes what the other writes, where a write to p0 writes nothing (01 R36); and their destinations differ,
p0 among them. -/
def Uses.apart (u v : Uses) : Bool :=
  let real (l : List Nat) : List Nat := l.filter (· != 0)
  !meetsList u.writes (v.reads ++ v.writes) && !meetsList v.writes u.reads
  && !meetsList (real u.pwrites) (v.preads ++ v.pwrites) && !meetsList (real v.pwrites) u.preads
  && !meetsList u.pwrites v.pwrites && !meetsList u.twrites (v.treads ++ v.twrites) && !meetsList v.twrites u.treads

/-- At most four registers read, two of a bank. -/
def Uses.portsFit (u v : Uses) : Bool :=
  let rs := (u.reads ++ v.reads).eraseDups
  rs.length ≤ 4 && (List.range 4).all fun b => (rs.filter (· % 4 == b)).length ≤ 2

/-- Why two instructions may not pair: reason 2 is their classes, 3 their operands. -/
def pairFault (i k : Instr) : Option Nat :=
  let u := uses i; let v := uses k
  if !pairClasses (classOf i) (classOf k) || neverPairs i || neverPairs k then some 2
  else if !u.apart v || !u.portsFit v || u.routes.length + v.routes.length > 1 then some 3
  else none

/-- The template's overlap that covers a slot: the lowest j whose bits j and j + 1 are both set, when one covers it. -/
def overlapAt (pair slot : Nat) : Option Nat :=
  let both := (List.range 3).filter fun j => pair.testBit j && pair.testBit (j + 1)
  if both.any fun j => j ≤ slot && slot ≤ j + 2 then both.head? else none

/-- The reason and j of an illegal pair at a slot whose line has an ENTRY mask and a PAIR template. -/
def illegalPair (entry pair slot : Nat) (i : Instr) (k : Option Instr) : Option (Nat × Nat) :=
  match overlapAt pair slot with
  | some j => some (0, j)
  | none => match k with
    | none => none
    | some k => if entry.testBit (slot + 1) then some (1, slot) else (pairFault i k).map fun r => (r, slot)

end Sys2Proof.Machine
end

