-- ==== Sys2Proof/Machine/Ready.lean ====
section
/-! DEFINITION. Machine/Ready.lean: the decode-time checks (02 R48, R64 to R68), what holds an instruction back at issue, with its stall
reason (06 R154, Table 6-12; 07 R194), and which splits are ready. -/

namespace Sys2Proof.Machine

/-! ### Decode-time checks -/

/-- Orders 3 to 6 of Table 2-13 for one slot: the instruction, or the cause and trap value. -/
def slotCheck (nreg : Nat) (travel : Bool) (slot : Nat) (word : Slot96) : Except (Nat × DWord) Instr :=
  let tv (n : Nat) : DWord := BitVec.ofNat 64 n
  match readWord word with
  | none => .error (1, tv (word.toNat % 1024))
  | some i => match encodingFault i with
    | some b => .error (2, tv (96 * slot + b))
    | none =>
      let u := uses i
      match u.beyond nreg with
      | some r => .error (5, tv r)
      | none =>
        if travel && travelForbidden i then .error (0x28, tv (0x8000 + word.toNat % 1024))
        else match travel, least u.routes with
          | true, some b => .error (0x28, tv (96 * slot + b))
          | _, _ => .ok i

/-- What a line gives a split at a slot: one instruction, a legal pair, or a cause with its trap value (02 R48, R65 to R68). The
cause of a pair's second slot goes before ILLEGAL_PAIR and is taken at that slot, the first being complete: the first issues
alone, and the split then finds the cause (log 37). -/
def lineCheck (nreg : Nat) (travel : Bool) (line slot : Nat) : Except (Nat × DWord) (Instr × Option Instr) :=
  let lw := lineWord line; let rsv := bitsOf lw 9 7; let entry := bitsOf lw 0 5; let pair := bitsOf lw 5 4
  if rsv ≠ 0 then .error (2, BitVec.ofNat 64 (489 + lowBit rsv))
  else match slotCheck nreg travel slot (lineSlot line slot) with
    | .error e => .error e
    | .ok i =>
      let illegal (k : Option Instr) : Except (Nat × DWord) (Instr × Option Instr) :=
        match illegalPair entry pair slot i k with
        | some (r, j) => .error (3, BitVec.ofNat 64 (j + 4 * r))
        | none => .ok (i, k)
      if pair.testBit slot then
        match slotCheck nreg travel (slot + 1) (lineSlot line (slot + 1)) with
        | .error _ => .ok (i, none)
        | .ok k => illegal (some k)
      else illegal none

/-! ### What holds an instruction back -/

/-- The space an instruction stores to, an arrival barrier's instructions among them (07 R194). -/
def storeSpace : Instr → Option Space
  | .st f | .atom f | .atomf f | .red f => some f.spc
  | .stStamp _ => some .gl
  | .abinit f | .abexp f | .abarv f => some (FormX.abSpace f)
  | _ => none

/-- Two spaces may name the same memory: .co names a workgroup's own shared memory too (08 R205). -/
def spacesMeet (a b : Space) : Bool := a == b || ((a == .sh || a == .co) && (b == .sh || b == .co))

/-- Why an instruction waits for a running mloop (07 R194): the slice or the memory it reads, shared memory among it where it
reads scale bytes (R185), or a register. -/
def MloopState.holds (l : MloopState) (i : Instr) : Option Nat :=
  match l.i with
  | .mloop f =>
    let u := uses (.mloop f); let v := uses i
    if isMatrix i || (match storeSpace i with
        | some spc => spacesMeet spc (FormX.mspace f) || (f.shape == 2 && spacesMeet spc .sh)
        | none => false) then some 6
    else if meetsList (u.reads ++ u.writes) (v.reads ++ v.writes) then some 3 else none
  | _ => none

/-- Why a warp's scoreboards hold an instruction (06 R154): a register of an access in flight, or of a running mloop. -/
def State.scoreboard (s : State) (w : Warp) (i : Instr) : Option Nat :=
  let v := uses i
  let held := (s.accesses.filter (·.warp == w.uid)).flatMap (·.holds)
  if meetsList held (v.reads ++ v.writes) then some 4 else w.mloop.bind (·.holds i)

/-- Why an instruction waits for its lanes' earlier accesses, as a release does (08 R213). -/
def State.releaseWaits (s : State) (c : Ctx) : Option Nat := if s.pendingFor c.w.uid c.eff then some (s.holdReason c) else none

/-- What a wait past an instruction's own checks comes to. -/
def unlessFault (fault : Option (Nat × DWord)) (wait : Option Nat) : Option Nat := if fault.isSome then none else wait

/-- Why an instruction past its scoreboards waits at issue, as its meaning says. -/
def State.issueWaits (s : State) (c : Ctx) (i : Instr) : Option Nat :=
  let ab (f : FormX) (q : AbAsk) : Option Nat := unlessFault (s.abFault c f q.reads) (s.abWaits c f q.releases)
  let line (q : LineAsk) : Option Nat := unlessFault (q.fault c) (s.lineWaits c q.entry)
  match i with
  | .mma f => s.matrixWaits c f (FormX.mmaReads f)
  | .mloop f => s.matrixWaits c f (FormX.mloopReads f)
  | .mldf f => s.matrixWaits c f (FormX.mldfReads f)
  | .mstf f => s.matrixWaits c f (FormX.mstfReads f)
  | i =>
    if c.eff = 0 then none
    else match i with
      | .fence f => if s.fenceWaits c f then some (s.holdReason c) else none
      | .bar _ | .barc _ | .bard _ | .pbar _ | .stamp _ => s.releaseWaits c
      | .cpy f => unlessFault (s.copyFault c f false) (s.copyWaits c f false)
      | .cpy2d f => unlessFault (s.copyFault c f true) (s.copyWaits c f true)
      | .abinit f => ab f (FormX.abinitAsk f)
      | .abexp f => ab f (FormX.abexpAsk f)
      | .abarv f => ab f (FormX.abarvAsk f)
      | .abwait f | .abtest f => ab f (FormX.abwaitAsk f)
      | .board f | .replace f => line (s.boardAsk f)
      | .alight f => line (FormX.alightAsk f)
      | .catchTile f => line (s.catchAsk f)
      | .launch f => unlessFault ((c.deadRead [f.xa.toNat, f.xa.toNat + 1]).map fun r => (6, BitVec.ofNat 64 r)) (s.launchWaits c)
      | .ldAsof f => match s.memGate c (FormM.asofAsk f) with
        | .wait r => some r
        | _ => if s.asofWaits c f then some 4 else none
      | i => (memAsk i).bind fun q => match s.memGate c q with
        | .wait r => some r
        | _ => none

/-- Why an instruction of a split does not issue yet. -/
def State.stallOf (s : State) (c : Ctx) (i : Instr) : Option Nat := s.scoreboard c.w i <|> s.issueWaits c i

/-! ### Ready splits -/

/-- What an instruction at a PC of a split sees. -/
def splitCtx (w : Warp) (l : Launch) (g : Workgroup) (e : Nat) (pc : PC) (i : Instr) : Ctx :=
  let m := (w.entry e).mask
  { w := w, l := l, g := g, e := e, pc := pc, run := m, eff := effMask w m i.guard, second := none }

/-- Why a split's next instruction, or one of its next pair, does not issue yet: a pair issues in one cycle (02 R67). -/
def State.stallPair (s : State) (w : Warp) (l : Launch) (g : Workgroup) (e : Nat) (i : Instr) (k : Option Instr) : Option Nat :=
  let pc := (w.entry e).pc
  s.stallOf (splitCtx w l g e pc i) i <|> k.bind fun k => s.stallOf (splitCtx w l g e (nextSlot pc) k) k

/-- The instruction, or the pair, that a split would issue. -/
def State.peek (s : State) (w : Warp) (l : Launch) (e : Nat) : Option (Instr × Option Instr) :=
  let pc := (w.entry e).pc
  match (s.fetchLine w (s.asidOf w) e pc).2 with
  | .line line => match lineCheck w.nreg l.packet.travel line (pc.toNat % 8) with
    | .ok p => some p
    | .error _ => none
  | _ => none

/-- Why a split in RUN does not issue yet, where its own state says so: a restored mloop's step comes first (07 R195), or
`stallPair`. -/
def State.stall (s : State) (w : Warp) (e : Nat) : Option Nat :=
  match s.launch? w.launch, s.wg? w.wg with
  | some l, some g =>
    if (w.mloop.map (·.resumed)).getD false then some 6
    else (s.peek w l e).bind fun p => s.stallPair w l g e p.1 p.2
  | _, _ => none

/-- A split may issue at all: its launch is not halted (06 R168), its die has not lost it (19 R400), its cluster has power (11
R275). -/
def State.awake (s : State) (w : Warp) : Bool :=
  (s.wg? w.wg).isSome && (match s.launch? w.launch with
    | some l => !l.halted
    | none => false)
  && ((s.die w.die).st == 0 || (s.die w.die).st == 2) && !s.gated w.die w.core

/-- A split is ready (06 R154). -/
def State.ready (s : State) (w : Warp) (e : Nat) : Bool :=
  (w.entry e).st == .run && (w.entry e).mask != 0 && s.awake w && (s.stall w e).isNone

end Sys2Proof.Machine
end

