-- ==== Sys2Proof/Machine/Sample.lean ====
section
/-! DEFINITION. Machine/Sample.lean: sampling (06 R175, R176; 11 R273): the sampled split, its stall reason, its record, and the clusters'
buffers that take it. -/

namespace Sys2Proof.Machine

/-- The number of a scheduler among all. -/
def schedOf (w : Warp) : Nat := (w.die * 36 + w.core) * 4 + w.sched

/-- The lowest live entry of a warp, else its lowest held one. -/
def Warp.lowLive (w : Warp) : Nat :=
  (((List.range 8).find? fun e => (w.entry e).live) <|> (List.range 8).find? fun e => (w.entry e).st != .free).getD 0

/-- The split of a warp that is sampled, and whether it issued this cycle (06 R175). -/
def State.sampledEntry (s : State) (w : Warp) : Nat × Bool :=
  match s.lastIssued.find? fun x => x.1 == schedOf w && x.2.1 == s.cycle && x.2.2.1 == w.uid with
  | some (_, _, _, e) => (e, true)
  | none => (w.lowLive, false)

/-- The stall reason of an arrived group (06 Table 6-12). -/
def GroupKind.reason : GroupKind → Nat
  | .collective _ => 15
  | .bar _ => 11
  | .barc _ _ => 12
  | .bard _ _ => 13
  | .pbar _ _ => 14
  | .firmware _ _ => 24
  | _ => 16

/-- The stall reason of a wait (06 Table 6-12); a wait on a catch's ticket is a catch wait. -/
def Wait.reason (x : Wait) (w : Warp) : Nat :=
  match x with
  | .none => 22
  | .ticket n _ => if tkKind (w.ticket n) = 2 then 25 else 8
  | .value _ => 9
  | .phase .. => 10
  | .sleep _ => 17
  | .pageFault _ _ => 19
  | .publish _ _ _ => 8
  | .deps _ _ => 26
  | .trim _ _ _ _ => 4
  | .trapBusy => 23
  | .halted => 28

/-- A warp's collective groups at a PC wait for the matrix slice, not for arrivals (07 R177, R186). -/
def Warp.atSlice (w : Warp) (g : Group) : Bool :=
  match g.kind with
  | .collective k => isMatrix k.i && w.covered (w.collectivesAt g.key)
  | _ => false

/-- Why a matrix instruction waits at the slice: a range entry of its warp (09 R245), or the slice or the memory it reads (07
R194). -/
def State.sliceReason (s : State) (w : Warp) (pc : PC) : Nat :=
  let gs := w.collectivesAt pc
  match gs with
  | [] => 6
  | (e, _, k) :: _ =>
    let m := gs.foldl (fun a g => a ||| g.2.2.contrib) 0
    match s.warpCtx? w e pc m with
    | none => 6
    | some c => if (s.matrixTouches c k.i m).any fun x => w.rangeHit x.1 x.2.1 x.2.2.1 x.2.2.2 then 20 else 6

/-- The stall reason of an arrived group. -/
def State.groupReason (s : State) (w : Warp) (g : Group) : Nat := if w.atSlice g then s.sliceReason w g.key else g.kind.reason

/-- The stall reason of a split that has not issued (06 R176). A split in CWAIT whose siding holds arrived groups of several kinds
is sampled with the reason of the first that stands there (DESIGN CHOICE, log 33). -/
def State.reasonOf (s : State) (w : Warp) (e : Nat) : Nat :=
  let x := w.entry e
  if ((s.launch? w.launch).map (·.halted)).getD false then 28
  else match x.st with
    | .run => (s.stall w e).getD 22
    | .block => x.wait.reason w
    | .jwait => 16
    | .cwait => ((x.siding.find? (·.arrived)).map (s.groupReason w)).getD 16
    | .held => 18
    | .free => 22

/-- A sample record (06 Table 6-10). -/
def State.sampleOf (s : State) (w : Warp) : DWord :=
  let (e, issued) := s.sampledEntry w
  BitVec.ofNat 64 ((if issued then 0 else s.reasonOf w e) * 2 ^ 59 + (if issued then 2 ^ 58 else 0) + w.core % 4 * 2 ^ 56 + w.slot * 2 ^ 50
    + (w.entry e).pc.toNat % 2 ^ 50)

/-- A record enters a cluster's buffer of 512, or is counted as lost (11 R273). -/
def Cluster.take (c : Cluster) (r : DWord) : Cluster :=
  if c.buffer.length < 512 then { c with buffer := c.buffer ++ [r] } else { c with lost := c.lost + 1 }

/-- A scheduler records its next resident warp in rotation over its slots, once in a cycle that is a multiple of N (06 R175,
R176). -/
def State.sampleAt (s : State) (die core sched : Nat) : State :=
  let k := s.core die core
  let n := 2 ^ (6 + bitsOf k.sampctl.toNat 1 4)
  if !k.sampctl.getLsbD 0 || sched ≥ 4 || s.cycle % n ≠ 0 || k.sampled.getD sched 0 = s.cycle + 1 || s.gated die core
      || !(s.die die).harvest.getLsbD core then s
  else
    let mine := (s.warpsOn die core).filter fun w => w.sched == sched
    let first := k.rotors.getD sched 0
    match sortBy (fun (w : Warp) => (w.slot + 16 - first) % 16) mine with
    | [] => s
    | w :: _ =>
      let t := s.modCluster die (core / 4) fun c => c.take (s.sampleOf w)
      t.modCore die core fun k => { k with rotors := k.rotors.set sched ((w.slot + 1) % 16),
                                           sampled := k.sampled.set sched (s.cycle + 1) }

/-- SAMPLE (06 R175, R176). -/
def execEvSample (die core sched : Nat) (s : State) : Result := .next (s.sampleAt die core sched)

/-- The samples due at the end of a cycle: every scheduler of every core whose sr.sampctl has EN (06 R175). -/
def State.sampleAll (s : State) : State :=
  (s.cores.zipIdx.filter fun p => p.1.sampctl.getLsbD 0).foldl (fun s p =>
    (List.range 4).foldl (fun s k => s.sampleAt (p.2 / 36) (p.2 % 36) k) s) s

end Sys2Proof.Machine
end

