-- ==== Sys2Proof/Machine/Issue.lean ====
section
/-! DEFINITION. Machine/Issue.lean: which split issues (06 R154, R155), the fetch and the decode-time checks (02 R45 to R49, R64 to
R68; 13 R310), the internal events that are enabled, one step of the machine over a meaning of instructions, and the state in
which a given word issues next. -/

namespace Sys2Proof.Machine

/-! ### Ready splits -/

/-- The ready splits of a scheduler. -/
def State.readySplits (s : State) (k : Nat) : List (Warp × Nat) :=
  (s.warps.filter fun w => schedOf w == k).flatMap fun w =>
    (List.range 8).filterMap fun e => if s.ready w e then some (w, e) else none

/-- RUN entries of a scheduler's warps (01 R28). -/
def State.runEntries (s : State) (k : Nat) : Nat :=
  (s.warps.filter fun w => schedOf w == k).foldl (fun a w => a + (w.entries.filter (·.st == .run)).length) 0

/-- The scheduler's choice (06 R155): urgent splits, the least recently issued first; else the highest region priority, the least
recently issued, the lowest slot and entry. -/
def State.choose (s : State) (k : Nat) : Option (Warp × Nat) :=
  let rs := s.readySplits k
  let age (p : Warp × Nat) : Nat := (p.1.entry p.2).lastIssue * 512 + p.1.slot * 8 + p.2
  let urgent := rs.filter fun p => (p.1.entry p.2).readySince + 3 * s.runEntries k + 32 ≤ s.cycle
  match sortBy age urgent with
  | p :: _ => some p
  | [] =>
    let prio (p : Warp × Nat) : Nat := ((s.launch? p.1.launch).map fun l => s.effPrio l.node).getD 0
    let top := rs.foldl (fun a p => max a (prio p)) 0
    (sortBy age (rs.filter fun p => prio p == top)).head?

/-! ### The front end of one issue -/

/-- Instructions whose lanes do not all go on to the next slot when they are effective. -/
def movesLanes : Instr → Bool
  | .bra _ | .brx _ | .call _ | .ret _ | .exit_ _ | .step_ _ | .trap _ | .bkpt _ | .tret _ => true
  | _ => false

/-- Sequential flow that leaves the segment is checked before the instruction takes effect (11 R279). -/
def State.sequentialFault (s : State) (l : Launch) (w : Warp) (e : Nat) (pc : PC) (i : Instr) (k : Option Instr) :
    Option (Nat × DWord) :=
  let m := (w.entry e).mask
  let next := match k with
    | some _ => nextSlot (nextSlot pc)
    | none => nextSlot pc
  let branch := classOf i == 0 && (i.opcode.getD 0) % 64 ≥ 1 && (i.opcode.getD 0) % 64 ≤ 4
  if branch || (movesLanes i && effMask w m i.guard != 0) then none else s.departCheck l w [(next, m)]

/-- A page fault of a pair's second instruction holds its lanes before either takes effect (02 R67): the split blocked, or the
state with those lanes held. Where the fault holds no lanes (every running lane faults, or no entry is free) R67 says nothing:
the split blocks at the pair's first slot and neither has taken effect (log 38). -/
def State.holdPair (s : State) (c : Ctx) (k : Instr) : Except State State :=
  match memAsk k with
  | none => .ok s
  | some q => match s.memGate c q with
    | .global => match s.glLanes c q.adr q.off q.need with
      | .blocked t => .error t
      | .denied t _ => .ok t
      | .ok t _ _ => .ok t
    | _ => .ok s

/-- A cause found at issue (02 R68). -/
def State.trapAt (s : State) (uid e : Nat) (pc : PC) (cause : Nat) (tv : DWord) : State :=
  State.done (s.takeTrap uid e pc cause tv)

/-- The split counts as issued in this cycle (06 R155, R175). -/
def State.noteIssue (s : State) (uid e : Nat) : State :=
  match s.warp? uid with
  | none => s
  | some w =>
    let x := w.entry e; let k := schedOf w
    let t : State := s.putWarp (w.setEntry e { x with lastIssue := s.cycle, readySince := s.cycle + 1 })
    { t with lastIssued := s.lastIssued.filter (fun r => r.1 != k) ++ [(k, s.cycle, uid, e)] }

/-- A scheduler has issued in this cycle (06 R154). -/
def State.hasIssued (s : State) (k : Nat) : Bool := s.lastIssued.any fun r => r.1 == k && r.2.1 == s.cycle

/-- A pair whose split a page fault of its second may have changed has nothing to wait for. -/
def State.stillClear (s : State) (uid e : Nat) (i : Instr) (k : Option Instr) : Bool :=
  match s.warp? uid with
  | none => false
  | some w => match s.launch? w.launch, s.wg? w.wg with
    | some l, some g => (w.entry e).st == .run && (s.stallPair w l g e i k).isNone
    | _, _ => false

/-- The fetch and every check of Table 2-13 but the last: the split has its instruction at the issue stage, or has taken what the
first failing check gives. -/
def State.front (s : State) (w : Warp) (l : Launch) (g : Workgroup) (e : Nat) : State :=
  let pc := (w.entry e).pc
  match s.fetchLine w (s.asidOf w) e pc with
  | (t, .missing r) => State.done ((t.reportWalk r).waitFirmware w.uid e pc 0x10 (recordVa r))
  | (t, .noExec) => t.trapAt w.uid e pc 0x11 pc
  | (t, .check) => t.trapAt w.uid e pc 0x16 (lineOf pc)
  | (t, .line line) => match lineCheck w.nreg l.packet.travel line (pc.toNat % 8) with
    | .error (cause, tv) => (t.noteIssue w.uid e).trapAt w.uid e pc cause tv
    | .ok (i, k) => match t.sequentialFault l w e pc i k with
      | some (cause, tv) => (t.noteIssue w.uid e).trapAt w.uid e pc cause tv
      | none =>
        let held := match k with
          | none => Except.ok t
          | some k => t.holdPair (splitCtx w l g e pc k) k
        match held with
        | .error u => u
        | .ok u =>
          if k.isNone || u.stillClear w.uid e i k then
            { u.noteIssue w.uid e with issue := some { warp := w.uid, entry := e, pc := pc, instr := i, second := k } }
          else u

/-- A scheduler's turn: the split it chooses comes to the issue stage. It issues at most once in a cycle (06 R154). -/
def State.issueAt (s : State) (k : Nat) : State :=
  if s.hasIssued k then s
  else match s.choose k with
    | none => s
    | some (w, e) => match s.launch? w.launch, s.wg? w.wg with
      | some l, some g => s.front w l g e
      | _, _ => s

/-- SCHEDULER_ISSUE (06 R154, R155): a scheduler's choice comes to the issue stage; the next step gives it its effect. -/
def execEvSchedulerIssue (die core sched : Nat) (s : State) : Result :=
  if s.issue.isSome then .next s else .next (s.issueAt ((die * 36 + core) * 4 + sched))

/-! ### Internal events -/

/-- The events of a waiting entry. -/
def Entry.events (x : Entry) (uid e : Nat) : List Instr :=
  if x.st != .block then [] else match x.wait with
    | .value v => [.evWaitvalWake uid e, .evWaitvalLimit uid e]
        ++ (v.lanes.filter fun l => !l.satisfied).map fun l => .evWaitvalReread uid e l.lane
    | .phase .. => [.evAbwaitWake uid e]
    | .sleep _ => [.evSleepExpiry uid e]
    | .publish .. => [.evPublishSwap uid e]
    | .deps .. => [.evWaitdepRelease uid e]
    | _ => []

/-- The events of a warp. -/
def Warp.events (w : Warp) : List Instr :=
  ((List.range 8).flatMap fun e => (w.entry e).events w.uid e)
  ++ (if w.mloop.isSome then [.evMloopStep w.uid] else [])
  ++ (if w.arrived.any (fun p => match p.2.kind with
        | .collective k => isMatrix k.i
        | _ => false) then [.evMatrixSliceStart w.die w.core w.sched] else [])

/-- The events of an access in flight. -/
def Access.events (a : Access) : List Instr :=
  match a.op with
  | .asof => [.evAsofReply a.id]
  | _ => ((a.lanes.filter fun x => !x.done).map fun x => .evGlWritePerformed a.id x.lane) ++ [.evAccessReply a.id]

/-- The events of a copy. -/
def Copy.events (c : Copy) : List Instr :=
  if c.cancel || !c.live then [.evCopyEnd c.id]
  else if !c.started then [.evCopyEngineStart c.id]
  else match c.pending with
    | [] => [.evCopyEnd c.id]
    | k :: _ => [.evCopySectorDelivery c.id k]

/-- The events of a station's operation. -/
def StationOp.events (o : StationOp) : List Instr :=
  match o.stage with
  | .held | .waiting => [.evStationRequest o.id]
  | .reading => [.evStationSourceRead o.id]
  | .ready => match o.op with
    | .board => [.evBoardPayloadWrite o.id]
    | .replace => [.evReplaceSwap o.id]
    | .catchTile => [.evCatchDelivery o.id]
    | .alight => [.evAlightRemoval o.id]

/-- The events of a launch. -/
def State.launchEvents (s : State) (l : Launch) : List Instr :=
  (l.pbarReady.map fun n => .evPbarRelease l.id n)
  ++ (if l.phase = .reading then [.evDeviceLaunchRead l.seq] else [])
  ++ (if l.phase = .ended then [] else [.evStepBoundary l.id, .evLaunchCompletion l.id])
  ++ (if l.starved = 0 then [] else (s.launches.filter fun m => m.id != l.id).map fun m => .evPreemptionHint l.id m.id)
  ++ (if l.halted then (s.wgs.filter fun g => g.launch == l.id).map fun g => .evSaveComplete g.uid else [])

/-- An operation's request is not behind an earlier one of its die that is free to go: requests reach the directory in the
order of their issue (log 2). -/
def State.lineNext (s : State) (o : StationOp) : Bool :=
  o.stage != .waiting || !s.lineOps.any fun x =>
    x.stage == .waiting && x.die == o.die && x.id < o.id && s.acknowledged x.warp x.id x.lanes

/-- The events of the line: its operations, and coaches of dead regions (18 R394). -/
def State.lineEvents (s : State) : List Instr :=
  (s.lineOps.filter s.lineNext).flatMap (·.events)
  ++ ((s.coaches.filter fun c => ((s.region? c.node).map (·.st)).getD 3 == 3).map fun c => .evRegionCoachRemoval c.node)

/-- The events of a die that is lost or being retired (19 R404, R407). -/
def State.dieEvents (s : State) (d : Nat) : List Instr :=
  if (s.die d).st = 0 then [] else
    (if (s.die d).bridged then [] else [.evStationBridge d]) ++ (if (s.die d).st = 3 then [] else [.evDieOffline d])

/-- The slots advance every 4 cycles, once every operation due at its passage has ended (18 R379). -/
def State.lineTurn (s : State) : Option Instr :=
  if (s.coaches.isEmpty && s.lineOps.isEmpty) || s.cycle < s.lineStart + 4 * (s.lineShift + 1) || s.lineOps.any s.lineDue then none
  else some .evSlotAdvance

/-- Sample buffers that hold records (11 R273). -/
def State.drainEvents (s : State) (d : Nat) : List Instr :=
  ((s.die d).clusters.zipIdx.filter fun p => !p.1.buffer.isEmpty).map fun p => .evSampleDrain d p.2

/-- The events the machine itself can bring about now; one that finds its condition unmet changes nothing (log 2, log 4). -/
def State.events (s : State) : List Instr :=
  (s.accesses.flatMap (·.events)) ++ (s.warps.flatMap (·.events)) ++ (s.copies.flatMap (·.events))
  ++ (s.resolving.map fun r => .evTicketResolve r.1 r.2)
  ++ (s.launches.flatMap s.launchEvents) ++ ((s.served.take 1).map fun l => .evDeal l.id)
  ++ ((s.submitted.filter fun q => ((s.region? q.node).map (·.st)).getD 0 == 1).map fun q => .evQueuePacketTake q.node q.queue)
  ++ ((sortBy (fun (d : Departure) => d.record.tid.toNat) s.stages).map fun d => .evThreadRecordShip d.die d.core d.record.tid.toNat)
  ++ ((s.queues.filter fun q => !q.records.isEmpty).map fun q => .evWarpFormation q.die q.core)
  ++ s.lineEvents ++ (List.range 8).flatMap s.dieEvents ++ (List.range 8).flatMap s.drainEvents
  ++ (if s.pendingFloors.isEmpty then [] else [.evFloorInEffect 0])
  ++ (s.parked.flatMap fun p => [.evReadcMatch p.packet.tag, .evReadcTimeout p.packet.tag])
  ++ (match s.boot with
    | .verifying _ => [.evBootVerify]
    | _ => [])

/-! ### One step -/

/-- An error of the environment strikes (13 R317; 18 R393): a sector's is corrected and counted, or makes it POISON; a payload's
marks its coach. A line's waits for the fetch (02 R47). -/
def State.strike (s : State) (u : Upset) : State :=
  match u with
  | .line _ _ => { s with upsets := s.upsets ++ [u] }
  | .sector sec fatal =>
    if fatal then { s with poisoned := (s.poisoned ++ [sec]).eraseDups } else s.correctedError (homeOf (sec * 32))
  | .coach slot => match s.coaches.find? fun c => c.slot == slot && c.onLine && !c.poison with
    | none => s
    | some c => { s.coachLog c c.srcDie with coaches := s.coaches.map fun x => if x.fresh = c.fresh then { x with poison := true } else x }

/-- What the environment brings at the end of a cycle. -/
def State.struck (s : State) : State := s.upsets.foldl State.strike { s with upsets := [] }

/-- A core as the next cycle finds it: a write of sr.sampctl counts from then on (06 R162). -/
def Core.next (k : Core) : Core := { k with sampctl := k.sampNext.getD k.sampctl, sampNext := none }

/-- The end of a cycle: samples are taken (06 R175); the walks that faulted in it are over (13 R311); a split that is not ready
starts counting anew (06 R155); the slots of an empty line advance unseen (18 R379). -/
def State.nextCycle (s : State) : State :=
  let s := s.sampleAll.struck.sweepAllocs
  let c := s.cycle + 1
  let fresh (w : Warp) : Warp :=
    { w with entries := w.entries.zipIdx.map fun p => if s.ready w p.2 then p.1 else { p.1 with readySince := c } }
  let shift := if s.coaches.isEmpty && s.lineOps.isEmpty then (c - s.lineStart) / 4 else s.lineShift
  { s with cycle := c, turn := 0, warps := s.warps.map fresh, lineShift := shift, walks := [], cores := s.cores.map Core.next }

/-- The next scheduler of this cycle with a ready split that has not issued in it. -/
def State.nextScheduler (s : State) : Option Nat :=
  least ((s.warps.map schedOf).filter fun k => s.turn ≤ k + 1 && !s.hasIssued k && !(s.readySplits k).isEmpty)

/-- The next scheduler of the cycle issues; when none is left the cycle ends. -/
def State.turnStep (ex : Instr → State → Result) (s : State) : Result :=
  match s.nextScheduler with
  | none => .next s.nextCycle
  | some k =>
    let t : State := { s.issueAt k with turn := k + 2 }
    match t.issue with
    | none => .next t
    | some i => ex i.instr t

/-- One step, given the meanings of instructions (logs 2 and 15): the second of a pair, or an instruction an event brought to the
issue stage; else the next event of the agenda; else, at the start of a cycle, its internal events enter the agenda; else the next
scheduler. The marks of a pair's first act after its second (02 R67). -/
def State.stepWith (ex : Instr → State → Result) (s : State) : Result :=
  match s.issue with
  | some i =>
    let r := if (s.ctx? i.instr.guard).isNone then .next { s with issue := none } else ex i.instr s
    match r with
    | .next t => .next (if i.marked.isEmpty then t else t.modWarp i.warp fun w => w.kill true i.marked [])
    | r => r
  | none => match s.agenda with
    | i :: r => ex i { s with agenda := r }
    | [] =>
      if s.turn = 0 then
        match s.lineTurn with
        | some i => ex i s
        | none => .next { s with agenda := s.events, turn := 1 }
      else s.turnStep ex

/-! ### The state in which a word issues next (log 15) -/

/-- The address of the line that holds the word. -/
def wordLine : Nat := 0x10000

/-- A launch of 32 threads with 256 registers and a region 0 that owns every budget. -/
def wordRegion : Region where
  node := 0
  parent := 0xFFFF
  asid := 0
  ovr := 0x7FF
  st := 1
  cshare := 1
  priv := true
  policy := 0
  prio := 4
  cores := List.replicate 8 36
  dsbytes := List.replicate 8 1024
  coaches := 64
  shadow := 0
  hshare := 0
  hwindow := 0
  qtable := 0
  excl := []

/-- The word in slot 0 of a line that every address space 0 maps, and a warp of 32 lanes that issues it next. -/
def State.placeWord (s : State) (word : Nat) : State :=
  let id := s.fresh; let wg := id + 1; let uid := id + 2
  let l : Launch := { id := id, node := 0, source := 0, seq := 0, phase := .running, placed := true, nextWg := 1, total := 1,
                      packet := { threads := 32, gx := 1, gy := 1, gz := 1, regs := 256, entry := BitVec.ofNat 64 wordLine },
                      dies := [0], entry := BitVec.ofNat 64 wordLine, regs := 256 }
  let g : Workgroup := { uid := wg, launch := id, index := 0, consist := 0, member := 0, die := 0, core := 0, logical := 0,
                         nwarps := 1, threads := 32, nreg := 256, sharedBytes := 0 }
  let w := freshWarp uid wg id 0 0 0 0 256 (firstLanes 32) (BitVec.ofNat 64 wordLine) 0 s.cycle
  let s : State := s.write 0x1000 (leBytes 8 0x2001)
  let s : State := s.write 0x2000 (leBytes 8 0x3001)
  let s : State := s.write 0x3000 (leBytes 8 0x19F)
  let s : State := s.write wordLine (leBytes 64 (makeLine 31 0 [word]))
  let s : State := s.modDie 0 fun d => { d with st := 0, mempath := true, clusters := List.replicate 9 {} }
  { s with roots := [(0, 0x1001)], tlb := [], regions := [wordRegion], launches := [l], wgs := [g], warps := [w],
           accesses := [], agenda := [], issue := none, turn := 1, fresh := id + 3 }

end Sys2Proof.Machine
end

