-- ==== Sys2Proof/Machine/IntArith.lean ====
section
/-! DEFINITION. Machine/IntArith.lean: the meanings of class 0x2 (04 R108 to R115, R122). -/

namespace Sys2Proof.Machine

/-- An affine result of two counted operands (01 R33): the operation applied to bases and strides. -/
def affineOf (op : Nat) (c : Ctx) (a b : Opd) : Option (Word × Word) :=
  match a.count c, b.count c, a.affine c, b.affine c with
  | .a _ _, .u, some (x, p), some (y, _) =>
    if op = 0 then some (x + y, p) else if op = 1 then some (x - y, p) else some (x * y, p * y)
  | .u, .a _ _, some (x, _), some (y, q) =>
    if op = 0 then some (x + y, q) else if op = 1 then none else some (x * y, x * q)
  | .a _ p, .a _ q, some (x, _), some (y, _) => if op = 1 && p == q then some (x - y, 0) else none
  | _, _, _, _ => none

/-- A two-operand integer instruction written under R74, U when both operands count as U (04 R109, R122). `aff` names the
affine rule of R33, for 32-bit types without .sat. -/
def State.int2 (s : State) (guard : Nat × Bool) (t : Ty) (sat : Bool) (dst : Nat) (a b : Opd) (marks : List Nat)
    (aff : Option Nat) (op : Int → Int → Int) : Result :=
  s.alu guard (a.regs ++ b.regs) marks (dstRegs dst t.wide) fun c =>
    let aff := match aff with
      | some k => if t.width = 32 && !sat then affineOf k c a b else none
      | none => none
    .ok (c.w.writeResult dst t.wide c.eff c.full (allU c [a, b]) aff
      fun i => t.result sat (op (t.read (a.val c i)) (t.read (b.val c i))))

/-- idiv and irem: a zero divisor in any effective lane traps INT_DIVIDE_ZERO with the set of those lanes (04 R109). -/
def State.intDiv (s : State) (guard : Nat × Bool) (t : Ty) (sat : Bool) (dst : Nat) (a b : Opd) (marks : List Nat)
    (op : Int → Int → Int) : Result :=
  s.alu guard (a.regs ++ b.regs) marks (dstRegs dst t.wide) fun c =>
    let z := maskOf fun i => c.eff.getLsbD i && t.read (b.val c i) == 0
    if z != 0 then .error (0x30, z.setWidth 64)
    else .ok (c.w.writeResult dst t.wide c.eff c.full (allU c [a, b]) none
      fun i => t.result sat (op (t.read (a.val c i)) (t.read (b.val c i))))

/-- A format V instruction of two data sources. -/
def FormV.int2 (f : FormV) (s : State) (aff : Option Nat) (op : Int → Int → Int) : Result :=
  let a := f.a f.type.wide; let b := f.b f.type.wide
  s.int2 f.guard f.type f.sat f.dst.toNat (.src a) (.src b) (f.marked [(0, a), (1, b)]) aff op
/-- Its I twin (02 R57). -/
def FormI.int2 (f : FormI) (s : State) (aff : Option Nat) (op : Int → Int → Int) : Result :=
  let a := f.a f.type.wide
  s.int2 f.guard f.type f.sat f.dst.toNat (.src a) (.imm f.immVal) (f.marked a) aff op
def FormV.intDiv (f : FormV) (s : State) (op : Int → Int → Int) : Result :=
  let a := f.a f.type.wide; let b := f.b f.type.wide
  s.intDiv f.guard f.type f.sat f.dst.toNat (.src a) (.src b) (f.marked [(0, a), (1, b)]) op
def FormI.intDiv (f : FormI) (s : State) (op : Int → Int → Int) : Result :=
  let a := f.a f.type.wide
  s.intDiv f.guard f.type f.sat f.dst.toNat (.src a) (.imm f.immVal) (f.marked a) op

/-- The high w bits of the exact product (04 R109). -/
def mulHigh (t : Ty) (a b : Int) : Int := (a * b) / (2 ^ t.width : Int)

/-- iadd (04 R109). -/
def execIadd (f : FormV) (s : State) : Result := FormV.int2 f s (some 0) (· + ·)
def execIaddI (f : FormI) (s : State) : Result := FormI.int2 f s (some 0) (· + ·)
/-- isub (04 R109). -/
def execIsub (f : FormV) (s : State) : Result := FormV.int2 f s (some 1) (· - ·)
def execIsubI (f : FormI) (s : State) : Result := FormI.int2 f s (some 1) (· - ·)
/-- imul (04 R109). -/
def execImul (f : FormV) (s : State) : Result := FormV.int2 f s (some 2) (· * ·)
def execImulI (f : FormI) (s : State) : Result := FormI.int2 f s (some 2) (· * ·)
/-- imulh (04 R109). -/
def execImulh (f : FormV) (s : State) : Result := FormV.int2 f s none (mulHigh f.type)
def execImulhI (f : FormI) (s : State) : Result := FormI.int2 f s none (mulHigh f.type)
/-- imin and imax (04 R109). -/
def execImin (f : FormV) (s : State) : Result := FormV.int2 f s none min
def execIminI (f : FormI) (s : State) : Result := FormI.int2 f s none min
def execImax (f : FormV) (s : State) : Result := FormV.int2 f s none max
def execImaxI (f : FormI) (s : State) : Result := FormI.int2 f s none max
/-- idiv (04 R109): towards zero. -/
def execIdiv (f : FormV) (s : State) : Result := FormV.intDiv f s quotInt
def execIdivI (f : FormI) (s : State) : Result := FormI.intDiv f s quotInt
/-- irem (04 R109): the sign of a. -/
def execIrem (f : FormV) (s : State) : Result := FormV.intDiv f s remInt
def execIremI (f : FormI) (s : State) : Result := FormI.intDiv f s remInt

/-- imad (04 R110): a × b + c, exact, under R74. -/
def execImad (f : FormV) (s : State) : Result :=
  let t := f.type
  let a := f.a t.wide; let b := f.b t.wide; let c3 := f.c t.wide
  s.alu f.guard (a.regs ++ b.regs ++ c3.regs) (f.marked [(0, a), (1, b), (2, c3)]) (dstRegs f.dst.toNat t.wide) fun c =>
    .ok (c.w.writeResult f.dst.toNat t.wide c.eff c.full (allU c [.src a, .src b, .src c3]) none
      fun i => t.result f.sat (t.read (a.val c i) * t.read (b.val c i) + t.read (c3.val c i)))

/-- imadw (04 R110): 32-bit factors, a 64-bit addend and result of the same signedness. -/
def execImadw (f : FormV) (s : State) : Result :=
  let t := f.type
  let w : Ty := if t == .i32 then .i64 else .n64
  let a := f.a false; let b := f.b false; let c3 := f.c true
  s.alu f.guard (a.regs ++ b.regs ++ c3.regs) (f.marked [(0, a), (1, b), (2, c3)]) (dstRegs f.dst.toNat true) fun c =>
    .ok (c.w.writeResult f.dst.toNat true c.eff c.full (allU c [.src a, .src b, .src c3]) none
      fun i => w.result f.sat (t.read (a.val c i) * t.read (b.val c i) + w.read (c3.val c i)))

/-- A one-source integer instruction. -/
def FormV.int1 (f : FormV) (s : State) (op : Int → Int) : Result :=
  let t := f.type; let a := f.a t.wide
  s.alu f.guard a.regs (f.marked [(0, a)]) (dstRegs f.dst.toNat t.wide) fun c =>
    .ok (c.w.writeResult f.dst.toNat t.wide c.eff c.full (allU c [.src a]) none
      fun i => t.result f.sat (op (t.read (a.val c i))))

/-- iabs and ineg (04 R111). -/
def execIabs (f : FormV) (s : State) : Result := FormV.int1 f s fun a => if a < 0 then -a else a
def execIneg (f : FormV) (s : State) : Result := FormV.int1 f s fun a => -a

/-- A compare: the predicate bit of each effective lane (04 R112; 05 R129). -/
def State.compare (s : State) (guard : Nat × Bool) (pd : Nat) (a b : Opd) (marks : List Nat)
    (op : DWord → DWord → Bool) : Result :=
  s.alu guard (a.regs ++ b.regs) marks [] fun c =>
    .ok (c.w.setPred pd c.eff (maskOf fun i => op (a.val c i) (b.val c i)))

/-- icmp (04 R112). -/
def execIcmp (f : FormV) (s : State) : Result :=
  let t := f.type; let a := f.a t.wide; let b := f.b t.wide
  s.compare f.guard f.dst.toNat (.src a) (.src b) (f.marked [(0, a), (1, b)])
    fun x y => cmpInt (f.opsAt 86 84) (t.read x) (t.read y)
def execIcmpI (f : FormI) (s : State) : Result :=
  let t := f.type; let a := f.a t.wide
  s.compare f.guard f.dst.toNat (.src a) (.imm f.immVal) (f.marked a)
    fun x y => cmpInt (f.opsAt 86 84) (t.read x) (t.read y)

/-- sel (04 R113): A where the predicate bit, after negation, is 1; G under a full effective mask. -/
def State.select (s : State) (guard : Nat × Bool) (dst : Nat) (wide : Bool) (a b : Opd) (marks : List Nat) (ops : Nat) :
    Result :=
  let p := ops / 2 % 8; let neg := ops % 2 == 1
  s.alu guard (a.regs ++ b.regs) marks (dstRegs dst wide) fun c =>
    .ok (c.w.writeResult dst wide c.eff c.full false none
      fun i => if c.w.pred p i != neg then a.val c i else b.val c i)
def execSel (f : FormV) (s : State) : Result :=
  let a := f.a f.type.wide; let b := f.b f.type.wide
  s.select f.guard f.dst.toNat f.type.wide (.src a) (.src b) (f.marked [(0, a), (1, b)]) (f.opsAt 87 84)
def execSelI (f : FormI) (s : State) : Result :=
  let a := f.a f.type.wide
  s.select f.guard f.dst.toNat f.type.wide (.src a) (.imm f.immVal) (f.marked a) (f.opsAt 87 84)

/-- One register of a mov: the counted tag of its source (04 R114, Table 4-7). -/
def Ctx.movReg (c : Ctx) (w : Warp) (dst n : Nat) (rt : Route) (fill : Bool) : Warp :=
  let r : Src := { n := n, rt := rt, fill := fill }
  let f := fun i => r.val c i
  match r.count c with
  | .u => w.writeResult dst false c.eff c.full true none f
  | .a b s => w.writeResult dst false c.eff c.full false (some (b, s)) f
  | .g => w.writeResult dst false c.eff c.full false none f

/-- mov (04 R114): one register, or a pair register by register. -/
def execMov (f : FormV) (s : State) : Result :=
  let a := f.a f.type.wide
  s.alu f.guard a.regs (f.marked [(0, a)]) (dstRegs f.dst.toNat f.type.wide) fun c =>
    let w := c.movReg c.w f.dst.toNat a.n a.rt a.fill
    .ok (if f.type.wide then c.movReg w (f.dst.toNat + 1) (a.n + 1) a.rt a.fill else w)

/-- movi (04 R114): the value of R58, extended under R73. -/
def execMovi (f : FormI) (s : State) : Result :=
  let v := if f.type.isInt then f.type.hold (f.type.read f.immVal) else f.immVal
  s.alu f.guard [] [] (dstRegs f.dst.toNat f.type.wide) fun c =>
    .ok (c.w.writeResult f.dst.toNat f.type.wide c.eff c.full true none fun _ => v)

/-- lea (04 R115): the line's address plus the displacement plus the offset register. The low register's tag follows R33 for
U + offset, the high one is U when the offset counts as U or is absent (Table 4-7). -/
def execLea (f : FormI) (s : State) : Result :=
  let off := f.ops.toNat % 2 == 1
  let a := f.a false
  s.alu f.guard (if off then a.regs else []) (if off then f.marked a else []) (dstRegs f.dst.toNat true) fun c =>
    let line : DWord := BitVec.ofNat 64 (c.pc.toNat / 64 * 64)
    let base : DWord := line + f.imm.signExtend 64
    let v (i : Nat) : DWord := base + (if off then a.val c i &&& 0xFFFFFFFF else 0)
    let w := c.w
    let uni := !off || a.count c == .u
    let aff := if off then (match a.count c with
      | .a b st => some (lo32 base + b, st)
      | _ => none) else none
    let w := w.writeResult f.dst.toNat false c.eff c.full uni aff v
    .ok (w.writeResult (f.dst.toNat + 1) false c.eff c.full uni none fun i => (hi32 (v i)).setWidth 64)

end Sys2Proof.Machine
end

