-- ==== Sys2Proof/Machine/Logic.lean ====
section
/-! DEFINITION. Machine/Logic.lean: the meanings of class 0x3 (04 R116 to R120, R122). -/

namespace Sys2Proof.Machine

/-- The natural w-bit operand. -/
def natOf (t : Ty) (v : DWord) : Nat := v.toNat % 2 ^ t.width

/-- A two-operand instruction over natural w-bit operands. -/
def State.nat2 (s : State) (guard : Nat × Bool) (t : Ty) (dst : Nat) (a b : Opd) (marks : List Nat)
    (op : Nat → Nat → Nat) : Result :=
  s.alu guard (a.regs ++ b.regs) marks (dstRegs dst t.wide) fun c =>
    .ok (c.w.writeResult dst t.wide c.eff c.full (allU c [a, b]) none
      fun i => BitVec.ofNat 64 (op (natOf t (a.val c i)) (natOf t (b.val c i)) % 2 ^ t.width))

def FormV.nat2 (f : FormV) (s : State) (op : Nat → Nat → Nat) : Result :=
  let a := f.a f.type.wide; let b := f.b f.type.wide
  s.nat2 f.guard f.type f.dst.toNat (.src a) (.src b) (f.marked [(0, a), (1, b)]) op
def FormI.nat2 (f : FormI) (s : State) (op : Nat → Nat → Nat) : Result :=
  let a := f.a f.type.wide
  s.nat2 f.guard f.type f.dst.toNat (.src a) (.imm f.immVal) (f.marked a) op

/-- The complement of b over a type's width. -/
def notNat (t : Ty) (b : Nat) : Nat := 2 ^ t.width - 1 - b

/-- Bitwise instructions (04 R116). -/
def execAnd (f : FormV) (s : State) : Result := FormV.nat2 f s (· &&& ·)
def execAndI (f : FormI) (s : State) : Result := FormI.nat2 f s (· &&& ·)
def execOr (f : FormV) (s : State) : Result := FormV.nat2 f s (· ||| ·)
def execOrI (f : FormI) (s : State) : Result := FormI.nat2 f s (· ||| ·)
def execXor (f : FormV) (s : State) : Result := FormV.nat2 f s (· ^^^ ·)
def execXorI (f : FormI) (s : State) : Result := FormI.nat2 f s (· ^^^ ·)
def execAndn (f : FormV) (s : State) : Result := FormV.nat2 f s fun a b => a &&& notNat f.type b
def execAndnI (f : FormI) (s : State) : Result := FormI.nat2 f s fun a b => a &&& notNat f.type b
def execOrn (f : FormV) (s : State) : Result := FormV.nat2 f s fun a b => a ||| notNat f.type b
def execOrnI (f : FormI) (s : State) : Result := FormI.nat2 f s fun a b => a ||| notNat f.type b

/-- An instruction with a control operand of 32 bits: a register or the immediate (04 R108). -/
def State.control (s : State) (guard : Nat × Bool) (t : Ty) (dst : Nat) (a b : Opd) (marks : List Nat)
    (aff : Ctx → Option (Word × Word)) (op : Nat → Nat → Nat) : Result :=
  s.alu guard (a.regs ++ b.regs) marks (dstRegs dst t.wide) fun c =>
    .ok (c.w.writeResult dst t.wide c.eff c.full (allU c [a, b]) (aff c)
      fun i => BitVec.ofNat 64 (op (natOf t (a.val c i)) ((b.val c i).toNat % 2 ^ 32) % 2 ^ t.width))

def FormV.control (f : FormV) (s : State) (aff : Opd → Opd → Ctx → Option (Word × Word)) (op : Nat → Nat → Nat) : Result :=
  let a := f.a f.type.wide; let b := f.b false
  s.control f.guard f.type f.dst.toNat (.src a) (.src b) (f.marked [(0, a), (1, b)]) (aff (.src a) (.src b)) op
def FormI.control (f : FormI) (s : State) (aff : Opd → Opd → Ctx → Option (Word × Word)) (op : Nat → Nat → Nat) : Result :=
  let a := f.a f.type.wide
  let b : Opd := .imm (f.imm.setWidth 64)
  s.control f.guard f.type f.dst.toNat (.src a) b (f.marked a) (aff (.src a) b) op

/-- No affine result. -/
def noAffine (_ _ : Opd) (_ : Ctx) : Option (Word × Word) := none

/-- shl of A by U at 32 bits gives A, base and stride shifted (01 R33; 04 Table 4-7). -/
def shlAffine (t : Ty) (a b : Opd) (c : Ctx) : Option (Word × Word) :=
  match t.width, a.count c, b.count c with
  | 32, .a x p, .u =>
    let n := (b.val c c.low).toNat % 2 ^ 32
    some (BitVec.ofNat 32 (shlNat 32 x.toNat n), BitVec.ofNat 32 (shlNat 32 p.toNat n))
  | _, _, _ => none

/-- Shifts and rotates (04 R117). -/
def execShl (f : FormV) (s : State) : Result := FormV.control f s (shlAffine f.type) (shlNat f.type.width)
def execShlI (f : FormI) (s : State) : Result := FormI.control f s (shlAffine f.type) (shlNat f.type.width)
def execShr (f : FormV) (s : State) : Result := FormV.control f s noAffine (shrNat f.type.width)
def execShrI (f : FormI) (s : State) : Result := FormI.control f s noAffine (shrNat f.type.width)
def execSar (f : FormV) (s : State) : Result := FormV.control f s noAffine (sarNat f.type.width)
def execSarI (f : FormI) (s : State) : Result := FormI.control f s noAffine (sarNat f.type.width)
def execRol (f : FormV) (s : State) : Result := FormV.control f s noAffine (rolNat f.type.width)
def execRolI (f : FormI) (s : State) : Result := FormI.control f s noAffine (rolNat f.type.width)
def execRor (f : FormV) (s : State) : Result := FormV.control f s noAffine (rorNat f.type.width)
def execRorI (f : FormI) (s : State) : Result := FormI.control f s noAffine (rorNat f.type.width)

/-- popc, clz and ctz write one register; brev writes its type's registers (04 R118). -/
def FormV.count1 (f : FormV) (s : State) (wide : Bool) (op : Nat → Nat → Nat) : Result :=
  let a := f.a f.type.wide
  s.alu f.guard a.regs (f.marked [(0, a)]) (dstRegs f.dst.toNat wide) fun c =>
    .ok (c.w.writeResult f.dst.toNat wide c.eff c.full (allU c [.src a]) none
      fun i => BitVec.ofNat 64 (op f.type.width (natOf f.type (a.val c i))))
def execPopc (f : FormV) (s : State) : Result := FormV.count1 f s false popNat
def execClz (f : FormV) (s : State) : Result := FormV.count1 f s false clzNat
def execCtz (f : FormV) (s : State) : Result := FormV.count1 f s false ctzNat
def execBrev (f : FormV) (s : State) : Result := FormV.count1 f s f.type.wide brevNat

/-- bfe (04 R119). -/
def bfeOp (t : Ty) (a ctl : Nat) : Nat := (bfeNat t a ctl % (2 ^ t.width : Int)).toNat
def execBfe (f : FormV) (s : State) : Result := FormV.control f s noAffine (bfeOp f.type)
def execBfeI (f : FormI) (s : State) : Result := FormI.control f s noAffine (bfeOp f.type)

/-- bfi (04 R119): vd's previous value is a source, unrouted. -/
def State.bfi (s : State) (guard : Nat × Bool) (t : Ty) (dst : Nat) (a b : Opd) (marks : List Nat) : Result :=
  let old : Src := { n := dst, wide := t.wide }
  s.alu guard (a.regs ++ b.regs ++ old.regs) marks (dstRegs dst t.wide) fun c =>
    .ok (c.w.writeResult dst t.wide c.eff c.full (allU c [a, b, .src old]) none
      fun i => BitVec.ofNat 64 (bfiNat t (natOf t (a.val c i)) (natOf t (old.val c i)) ((b.val c i).toNat % 2 ^ 32)))
def execBfi (f : FormV) (s : State) : Result :=
  let a := f.a f.type.wide; let b := f.b false
  s.bfi f.guard f.type f.dst.toNat (.src a) (.src b) (f.marked [(0, a), (1, b)])
def execBfiI (f : FormI) (s : State) : Result :=
  let a := f.a f.type.wide
  s.bfi f.guard f.type f.dst.toNat (.src a) (.imm (f.imm.setWidth 64)) (f.marked a)

/-- prmb (04 R120). -/
def execPrmb (f : FormV) (s : State) : Result := FormV.control f s noAffine prmbNat
def execPrmbI (f : FormI) (s : State) : Result := FormI.control f s noAffine prmbNat

end Sys2Proof.Machine
end

