-- ==== Sys2Proof/Machine/Dispatch.lean ====
section
/-! DEFINITION. Machine/Dispatch.lean: one arm per constructor of Instr, each one direct call of its meaning. -/

namespace Sys2Proof.Machine

def exec (i : Instr) (s : State) : Host.Outcome State Fault Refusal :=
  match i with
  | .nop f => Sys2Proof.Machine.execNop f s
  | .bra f => Sys2Proof.Machine.execBra f s
  | .brx f => Sys2Proof.Machine.execBrx f s
  | .call f => Sys2Proof.Machine.execCall f s
  | .ret f => Sys2Proof.Machine.execRet f s
  | .exit_ f => Sys2Proof.Machine.execExit f s
  | .yield f => Sys2Proof.Machine.execYield f s
  | .sleep f => Sys2Proof.Machine.execSleep f s
  | .trap f => Sys2Proof.Machine.execTrap f s
  | .poll f => Sys2Proof.Machine.execPoll f s
  | .fold f => Sys2Proof.Machine.execFold f s
  | .peer f => Sys2Proof.Machine.execPeer f s
  | .pcomb f => Sys2Proof.Machine.execPcomb f s
  | .iadd f => Sys2Proof.Machine.execIadd f s
  | .iaddI f => Sys2Proof.Machine.execIaddI f s
  | .isub f => Sys2Proof.Machine.execIsub f s
  | .isubI f => Sys2Proof.Machine.execIsubI f s
  | .imul f => Sys2Proof.Machine.execImul f s
  | .imulI f => Sys2Proof.Machine.execImulI f s
  | .imulh f => Sys2Proof.Machine.execImulh f s
  | .imulhI f => Sys2Proof.Machine.execImulhI f s
  | .imad f => Sys2Proof.Machine.execImad f s
  | .imadw f => Sys2Proof.Machine.execImadw f s
  | .idiv f => Sys2Proof.Machine.execIdiv f s
  | .idivI f => Sys2Proof.Machine.execIdivI f s
  | .irem f => Sys2Proof.Machine.execIrem f s
  | .iremI f => Sys2Proof.Machine.execIremI f s
  | .imin f => Sys2Proof.Machine.execImin f s
  | .iminI f => Sys2Proof.Machine.execIminI f s
  | .imax f => Sys2Proof.Machine.execImax f s
  | .imaxI f => Sys2Proof.Machine.execImaxI f s
  | .iabs f => Sys2Proof.Machine.execIabs f s
  | .ineg f => Sys2Proof.Machine.execIneg f s
  | .icmp f => Sys2Proof.Machine.execIcmp f s
  | .icmpI f => Sys2Proof.Machine.execIcmpI f s
  | .sel f => Sys2Proof.Machine.execSel f s
  | .selI f => Sys2Proof.Machine.execSelI f s
  | .mov f => Sys2Proof.Machine.execMov f s
  | .movi f => Sys2Proof.Machine.execMovi f s
  | .lea f => Sys2Proof.Machine.execLea f s
  | .and_ f => Sys2Proof.Machine.execAnd f s
  | .andI f => Sys2Proof.Machine.execAndI f s
  | .or_ f => Sys2Proof.Machine.execOr f s
  | .orI f => Sys2Proof.Machine.execOrI f s
  | .xor_ f => Sys2Proof.Machine.execXor f s
  | .xorI f => Sys2Proof.Machine.execXorI f s
  | .andn f => Sys2Proof.Machine.execAndn f s
  | .andnI f => Sys2Proof.Machine.execAndnI f s
  | .orn f => Sys2Proof.Machine.execOrn f s
  | .ornI f => Sys2Proof.Machine.execOrnI f s
  | .shl f => Sys2Proof.Machine.execShl f s
  | .shlI f => Sys2Proof.Machine.execShlI f s
  | .shr f => Sys2Proof.Machine.execShr f s
  | .shrI f => Sys2Proof.Machine.execShrI f s
  | .sar f => Sys2Proof.Machine.execSar f s
  | .sarI f => Sys2Proof.Machine.execSarI f s
  | .rol f => Sys2Proof.Machine.execRol f s
  | .rolI f => Sys2Proof.Machine.execRolI f s
  | .ror f => Sys2Proof.Machine.execRor f s
  | .rorI f => Sys2Proof.Machine.execRorI f s
  | .popc f => Sys2Proof.Machine.execPopc f s
  | .clz f => Sys2Proof.Machine.execClz f s
  | .ctz f => Sys2Proof.Machine.execCtz f s
  | .brev f => Sys2Proof.Machine.execBrev f s
  | .bfe f => Sys2Proof.Machine.execBfe f s
  | .bfeI f => Sys2Proof.Machine.execBfeI f s
  | .bfi f => Sys2Proof.Machine.execBfi f s
  | .bfiI f => Sys2Proof.Machine.execBfiI f s
  | .prmb f => Sys2Proof.Machine.execPrmb f s
  | .prmbI f => Sys2Proof.Machine.execPrmbI f s
  | .fadd f => Sys2Proof.Machine.execFadd f s
  | .faddI f => Sys2Proof.Machine.execFaddI f s
  | .fsub f => Sys2Proof.Machine.execFsub f s
  | .fsubI f => Sys2Proof.Machine.execFsubI f s
  | .fmul f => Sys2Proof.Machine.execFmul f s
  | .fmulI f => Sys2Proof.Machine.execFmulI f s
  | .ffma f => Sys2Proof.Machine.execFfma f s
  | .fmin f => Sys2Proof.Machine.execFmin f s
  | .fminI f => Sys2Proof.Machine.execFminI f s
  | .fmax f => Sys2Proof.Machine.execFmax f s
  | .fmaxI f => Sys2Proof.Machine.execFmaxI f s
  | .fminn f => Sys2Proof.Machine.execFminn f s
  | .fminnI f => Sys2Proof.Machine.execFminnI f s
  | .fmaxn f => Sys2Proof.Machine.execFmaxn f s
  | .fmaxnI f => Sys2Proof.Machine.execFmaxnI f s
  | .fabs f => Sys2Proof.Machine.execFabs f s
  | .fneg f => Sys2Proof.Machine.execFneg f s
  | .fcmp f => Sys2Proof.Machine.execFcmp f s
  | .fcmpI f => Sys2Proof.Machine.execFcmpI f s
  | .fclass f => Sys2Proof.Machine.execFclass f s
  | .fcvt f => Sys2Proof.Machine.execFcvt f s
  | .icvt f => Sys2Proof.Machine.execIcvt f s
  | .fcvti f => Sys2Proof.Machine.execFcvti f s
  | .frcp f => Sys2Proof.Machine.execFrcp f s
  | .frsq f => Sys2Proof.Machine.execFrsq f s
  | .fsqrt f => Sys2Proof.Machine.execFsqrt f s
  | .fdiv f => Sys2Proof.Machine.execFdiv f s
  | .fex2 f => Sys2Proof.Machine.execFex2 f s
  | .flg2 f => Sys2Proof.Machine.execFlg2 f s
  | .fsin f => Sys2Proof.Machine.execFsin f s
  | .fcos f => Sys2Proof.Machine.execFcos f s
  | .ftanh f => Sys2Proof.Machine.execFtanh f s
  | .quant f => Sys2Proof.Machine.execQuant f s
  | .deq f => Sys2Proof.Machine.execDeq f s
  | .plsplit f => Sys2Proof.Machine.execPlsplit f s
  | .pljoin f => Sys2Proof.Machine.execPljoin f s
  | .mma f => Sys2Proof.Machine.execMma f s
  | .mloop f => Sys2Proof.Machine.execMloop f s
  | .mldf f => Sys2Proof.Machine.execMldf f s
  | .mstf f => Sys2Proof.Machine.execMstf f s
  | .mfmt f => Sys2Proof.Machine.execMfmt f s
  | .ld f => Sys2Proof.Machine.execLd f s
  | .st f => Sys2Proof.Machine.execSt f s
  | .prefetch f => Sys2Proof.Machine.execPrefetch f s
  | .cctl f => Sys2Proof.Machine.execCctl f s
  | .atom f => Sys2Proof.Machine.execAtom f s
  | .atomf f => Sys2Proof.Machine.execAtomf f s
  | .red f => Sys2Proof.Machine.execRed f s
  | .fence f => Sys2Proof.Machine.execFence f s
  | .waitval f => Sys2Proof.Machine.execWaitval f s
  | .cpy f => Sys2Proof.Machine.execCpy f s
  | .cpy2d f => Sys2Proof.Machine.execCpy2d f s
  | .publish f => Sys2Proof.Machine.execPublish f s
  | .abinit f => Sys2Proof.Machine.execAbinit f s
  | .abexp f => Sys2Proof.Machine.execAbexp f s
  | .abarv f => Sys2Proof.Machine.execAbarv f s
  | .abwait f => Sys2Proof.Machine.execAbwait f s
  | .abtest f => Sys2Proof.Machine.execAbtest f s
  | .tkwait f => Sys2Proof.Machine.execTkwait f s
  | .tktest f => Sys2Proof.Machine.execTktest f s
  | .tkcancel f => Sys2Proof.Machine.execTkcancel f s
  | .tkget f => Sys2Proof.Machine.execTkget f s
  | .tkset f => Sys2Proof.Machine.execTkset f s
  | .board f => Sys2Proof.Machine.execBoard f s
  | .alight f => Sys2Proof.Machine.execAlight f s
  | .catchTile f => Sys2Proof.Machine.execCatchTile f s
  | .replace f => Sys2Proof.Machine.execReplace f s
  | .lineq f => Sys2Proof.Machine.execLineq f s
  | .bar f => Sys2Proof.Machine.execBar f s
  | .barc f => Sys2Proof.Machine.execBarc f s
  | .bard f => Sys2Proof.Machine.execBard f s
  | .pbar f => Sys2Proof.Machine.execPbar f s
  | .launch f => Sys2Proof.Machine.execLaunch f s
  | .trigger f => Sys2Proof.Machine.execTrigger f s
  | .waitdep f => Sys2Proof.Machine.execWaitdep f s
  | .step_ f => Sys2Proof.Machine.execStep f s
  | .segq f => Sys2Proof.Machine.execSegq f s
  | .ldAsof f => Sys2Proof.Machine.execLdAsof f s
  | .stStamp f => Sys2Proof.Machine.execStStamp f s
  | .stamp f => Sys2Proof.Machine.execStamp f s
  | .hnow f => Sys2Proof.Machine.execHnow f s
  | .hfloor f => Sys2Proof.Machine.execHfloor f s
  | .htrim f => Sys2Proof.Machine.execHtrim f s
  | .sread f => Sys2Proof.Machine.execSread f s
  | .swrite f => Sys2Proof.Machine.execSwrite f s
  | .tret f => Sys2Proof.Machine.execTret f s
  | .bkpt f => Sys2Proof.Machine.execBkpt f s
  | .evThreadRecordShip die core tid => Sys2Proof.Machine.execEvThreadRecordShip die core tid s
  | .evWarpFormation die core => Sys2Proof.Machine.execEvWarpFormation die core s
  | .evMatrixSliceStart die core sched => Sys2Proof.Machine.execEvMatrixSliceStart die core sched s
  | .evMloopStep wid => Sys2Proof.Machine.execEvMloopStep wid s
  | .evSchedulerIssue die core sched => Sys2Proof.Machine.execEvSchedulerIssue die core sched s
  | .evGlWritePerformed acc lane => Sys2Proof.Machine.execEvGlWritePerformed acc lane s
  | .evAccessReply acc => Sys2Proof.Machine.execEvAccessReply acc s
  | .evAsofReply acc => Sys2Proof.Machine.execEvAsofReply acc s
  | .evWaitvalWake wid entry => Sys2Proof.Machine.execEvWaitvalWake wid entry s
  | .evWaitvalLimit wid entry => Sys2Proof.Machine.execEvWaitvalLimit wid entry s
  | .evWaitvalReread wid entry lane => Sys2Proof.Machine.execEvWaitvalReread wid entry lane s
  | .evSleepExpiry wid entry => Sys2Proof.Machine.execEvSleepExpiry wid entry s
  | .evCopyEngineStart op => Sys2Proof.Machine.execEvCopyEngineStart op s
  | .evCopySectorDelivery op sector => Sys2Proof.Machine.execEvCopySectorDelivery op sector s
  | .evCopyEnd op => Sys2Proof.Machine.execEvCopyEnd op s
  | .evPublishSwap wid entry => Sys2Proof.Machine.execEvPublishSwap wid entry s
  | .evTicketResolve wid reg => Sys2Proof.Machine.execEvTicketResolve wid reg s
  | .evAbwaitWake wid entry => Sys2Proof.Machine.execEvAbwaitWake wid entry s
  | .evPbarRelease launch inst => Sys2Proof.Machine.execEvPbarRelease launch inst s
  | .evWaitdepRelease wid entry => Sys2Proof.Machine.execEvWaitdepRelease wid entry s
  | .evSlotAdvance => Sys2Proof.Machine.execEvSlotAdvance s
  | .evStationRequest op => Sys2Proof.Machine.execEvStationRequest op s
  | .evStationSourceRead op => Sys2Proof.Machine.execEvStationSourceRead op s
  | .evBoardPayloadWrite op => Sys2Proof.Machine.execEvBoardPayloadWrite op s
  | .evReplaceSwap op => Sys2Proof.Machine.execEvReplaceSwap op s
  | .evCatchDelivery op => Sys2Proof.Machine.execEvCatchDelivery op s
  | .evAlightRemoval op => Sys2Proof.Machine.execEvAlightRemoval op s
  | .evReboard slot => Sys2Proof.Machine.execEvReboard slot s
  | .evStationBridge die => Sys2Proof.Machine.execEvStationBridge die s
  | .evRegionCoachRemoval node => Sys2Proof.Machine.execEvRegionCoachRemoval node s
  | .evQueuePacketTake node queue => Sys2Proof.Machine.execEvQueuePacketTake node queue s
  | .evDeviceLaunchRead seq => Sys2Proof.Machine.execEvDeviceLaunchRead seq s
  | .evDeal launch => Sys2Proof.Machine.execEvDeal launch s
  | .evLaunchCompletion launch => Sys2Proof.Machine.execEvLaunchCompletion launch s
  | .evStepBoundary launch => Sys2Proof.Machine.execEvStepBoundary launch s
  | .evPreemptionHint launch lower => Sys2Proof.Machine.execEvPreemptionHint launch lower s
  | .evPreemptionRequest launches => Sys2Proof.Machine.execEvPreemptionRequest launches s
  | .evSaveComplete wg => Sys2Proof.Machine.execEvSaveComplete wg s
  | .evRestore wg die core => Sys2Proof.Machine.execEvRestore wg die core s
  | .evTranslationWalk die asid va kind => Sys2Proof.Machine.execEvTranslationWalk die asid va kind s
  | .evFaultServiceComplete asid va served => Sys2Proof.Machine.execEvFaultServiceComplete asid va served s
  | .evFirmwareDecision wid entry key resume => Sys2Proof.Machine.execEvFirmwareDecision wid entry key resume s
  | .evInvalidation scope => Sys2Proof.Machine.execEvInvalidation scope s
  | .evRegionUpdate node => Sys2Proof.Machine.execEvRegionUpdate node s
  | .evRegionAllocation node die units => Sys2Proof.Machine.execEvRegionAllocation node die units s
  | .evHistoryOwner asid va node => Sys2Proof.Machine.execEvHistoryOwner asid va node s
  | .evRootRegisterWrite asid value => Sys2Proof.Machine.execEvRootRegisterWrite asid value s
  | .evSampleRingWrite die value => Sys2Proof.Machine.execEvSampleRingWrite die value s
  | .evFabricWindowWrite window value => Sys2Proof.Machine.execEvFabricWindowWrite window value s
  | .evSvnRaise value => Sys2Proof.Machine.execEvSvnRaise value s
  | .evDieStateWrite die state => Sys2Proof.Machine.execEvDieStateWrite die state s
  | .evLoseCommand die => Sys2Proof.Machine.execEvLoseCommand die s
  | .evRegisterWrite reg value => Sys2Proof.Machine.execEvRegisterWrite reg value s
  | .evDieFatalError die why => Sys2Proof.Machine.execEvDieFatalError die why s
  | .evDieLost die pathServes => Sys2Proof.Machine.execEvDieLost die pathServes s
  | .evMempathFail die => Sys2Proof.Machine.execEvMempathFail die s
  | .evPageMove asid va dest => Sys2Proof.Machine.execEvPageMove asid va dest s
  | .evDieOffline die => Sys2Proof.Machine.execEvDieOffline die s
  | .evStationTick => Sys2Proof.Machine.execEvStationTick s
  | .evFrontierGather => Sys2Proof.Machine.execEvFrontierGather s
  | .evFrontierArrival die core => Sys2Proof.Machine.execEvFrontierArrival die core s
  | .evFloorInEffect index => Sys2Proof.Machine.execEvFloorInEffect index s
  | .evSubnetPowerUp die subnet => Sys2Proof.Machine.execEvSubnetPowerUp die subnet s
  | .evSubnetPowerDown die subnet => Sys2Proof.Machine.execEvSubnetPowerDown die subnet s
  | .evSample die core sched => Sys2Proof.Machine.execEvSample die core sched s
  | .evSampleDrain die cluster => Sys2Proof.Machine.execEvSampleDrain die cluster s
  | .evClusterPowerGate die cluster => Sys2Proof.Machine.execEvClusterPowerGate die cluster s
  | .evThermalEmergencyGate die cluster => Sys2Proof.Machine.execEvThermalEmergencyGate die cluster s
  | .evClusterUngate die cluster => Sys2Proof.Machine.execEvClusterUngate die cluster s
  | .evWrite p => Sys2Proof.Machine.execEvWrite p s
  | .evRead p => Sys2Proof.Machine.execEvRead p s
  | .evSubmit p => Sys2Proof.Machine.execEvSubmit p s
  | .evReadc p => Sys2Proof.Machine.execEvReadc p s
  | .evReadcMatch tag => Sys2Proof.Machine.execEvReadcMatch tag s
  | .evReadcTimeout tag => Sys2Proof.Machine.execEvReadcTimeout tag s
  | .evGrant p => Sys2Proof.Machine.execEvGrant p s
  | .evNegotiate p => Sys2Proof.Machine.execEvNegotiate p s
  | .evBoot p => Sys2Proof.Machine.execEvBoot p s
  | .evBootVerify => Sys2Proof.Machine.execEvBootVerify s
  | .evAttest p => Sys2Proof.Machine.execEvAttest p s
  | .evWindowAccessReply acc lane data => Sys2Proof.Machine.execEvWindowAccessReply acc lane data s
  | .evWindowTimeout acc lane => Sys2Proof.Machine.execEvWindowTimeout acc lane s
  | .evFabricPortDown port => Sys2Proof.Machine.execEvFabricPortDown port s
  | .evFrontDieReset => Sys2Proof.Machine.execEvFrontDieReset s
  | .evFabricRemoteRequest r => Sys2Proof.Machine.execEvFabricRemoteRequest r s
  | .evOperatingPointChange millivolts => Sys2Proof.Machine.execEvOperatingPointChange millivolts s
  | .evFirmwareAlight slot => Sys2Proof.Machine.execEvFirmwareAlight slot s

end Sys2Proof.Machine
end

