-- ==== Sys2Proof/Machine/Step.lean ====
section
/-! DEFINITION. Machine/Step.lean: one step of the package, and the state in which a given word issues next. -/

namespace Sys2Proof.Machine

/-- One step (logs 2 and 15; Machine/Issue.lean says how). -/
def step (s : State) : Host.Outcome State Fault Refusal := s.stepWith exec

/-- `s` with the word in the slot the next step issues from. -/
def State.withFetchWord (s : State) (nbits w : Nat) : State := s.placeWord (w % 2 ^ min nbits 96)

end Sys2Proof.Machine
end

