-- ==== Sys2Proof/Safety.lean ====
section
/-! DEFINITION. Safety.lean: what counts as a safe state and a safe run, and the terms the statements use: an instruction that
issues and goes on, what it wrote, what it left. -/

namespace Sys2Proof.Machine

/-- The memory list has its canonical form (log 1). -/
def State.memWf (s : State) : Prop := Memory.wf s.mem = true

/-- States reached by steps. -/
inductive Reaches (s : State) : State → Prop where
  | refl : Reaches s s
  | step {t u : State} : Reaches s t → Machine.step t = .next u → Reaches s u

/-! ### An instruction that issues and goes on -/

/-- The instruction at the issue stage issues under a guard in the context `c`, alone, its split running; once it has had its
effect its lanes go on together to `pc`: no group stands ready beside them, `pc` is not their reconvergence point, no fusion is
due, and they stay in their segment (01 R17, R20, R21; 11 R279). -/
structure State.IssuesTo (s : State) (g : Nat × Bool) (c : Ctx) (pc : PC) : Prop where
  ctx     : s.ctx? g = some c
  alone   : c.second = none
  running : (c.w.entry c.e).st = .run
  lanes   : c.run ≠ 0
  inTable : c.e < c.w.entries.length
  single  : readyGroups (c.w.entry c.e).siding = []
  notJ    : (c.w.entry c.e).j ≠ some pc
  settled : ∀ e, e < 8 → c.w.canFuse e = false
  stays   : s.leaving c.l c.w [(pc, c.run)] = []

/-- It goes on to the next slot. -/
abbrev State.Issues (s : State) (g : Nat × Bool) (c : Ctx) : Prop := s.IssuesTo g c (nextSlot c.pc)

/-- The split has gone on to `pc`, its warp being `w`; nothing else has changed. -/
def State.movedTo (s : State) (c : Ctx) (w : Warp) (pc : PC) : State :=
  { s.putWarp (w.setEntry c.e { c.w.entry c.e with pc := pc, wait := .none }) with issue := none }

/-- The split has gone on to the next slot. -/
abbrev State.after (s : State) (c : Ctx) (w : Warp) : State := s.movedTo c w (nextSlot c.pc)

/-- The register or the pair of a result, with each lane's words. -/
def resultOf (dst : Nat) (wide : Bool) (val : Nat → DWord) : List (Nat × (Nat → Word)) :=
  (dst, fun i => lo32 (val i)) :: if wide then [(dst + 1, fun i => hi32 (val i))] else []

/-! ### Shape tags (01 R33, Table 1-5: 0 is U, 1 A, 2 G, 3 D) -/

/-- How a source counts. -/
def Count.tag : Count → Nat
  | .u => 0
  | .a _ _ => 1
  | .g => 2

/-- The tag of a result of counted sources where no affine rule holds: U if every source counts as U, else G. -/
def Ctx.tagU (c : Ctx) (os : List Opd) : Nat := if os.all fun o => o.count c == .u then 0 else 2
/-- A + U and U + A give A. -/
def Ctx.tagAdd (c : Ctx) (a b : Opd) : Nat :=
  match a.count c, b.count c with
  | .u, .u => 0
  | .a _ _, .u | .u, .a _ _ => 1
  | _, _ => 2
/-- A − U and A − A of equal stride give A. -/
def Ctx.tagSub (c : Ctx) (a b : Opd) : Nat :=
  match a.count c, b.count c with
  | .u, .u => 0
  | .a _ _, .u => 1
  | .a _ p, .a _ q => if p = q then 1 else 2
  | _, _ => 2
/-- A × U and U × A give A. -/
def Ctx.tagMul (c : Ctx) (a b : Opd) : Nat := c.tagAdd a b
/-- A shifted by a U count gives A. -/
def Ctx.tagShl (c : Ctx) (a b : Opd) : Nat :=
  match a.count c, b.count c with
  | .u, .u => 0
  | .a _ _, .u => 1
  | _, _ => 2
/-- `v` is the issuing warp but for its vector registers: each register of `dsts` holds its values in the effective lanes and is
as before in the other living lanes; a register that a last-use mark names is D after a full effective mask; every other
register is as before, tag and all (01 R34, R35). A register of `dsts` takes the tag `tag` gives it under a full effective mask, G
under a partial one, and is as before, tag and all, under an empty one (01 R33, R34). -/
structure Ctx.Wrote (c : Ctx) (v : Warp) (dsts : List (Nat × (Nat → Word))) (marks : List Nat) (tag : Nat → Nat := fun _ => 0) :
    Prop where
  only  : v = { c.w with regs := v.regs, badRegs := v.badRegs }
  value : ∀ p ∈ dsts, ∀ i, i < 32 → c.eff.getLsbD i = true → v.lane p.1 i = p.2 i
  kept  : ∀ p ∈ dsts, ∀ i, i < 32 → c.w.living.getLsbD i = true → c.eff.getLsbD i = false → v.lane p.1 i = c.w.lane p.1 i
  tagged : c.eff ≠ 0 → ∀ p ∈ dsts, (v.reg p.1).code = if c.full = true then tag p.1 else 2
  none  : c.eff = 0 → ∀ p ∈ dsts, v.reg p.1 = c.w.reg p.1
  rest  : ∀ n, n ∉ dsts.map (·.1) → v.reg n = if c.full = true ∧ n ∈ marks then .d else c.w.reg n

/-- `v` is the issuing warp but for a predicate and its dead registers: predicate `pd` holds `val` in the effective lanes, p0
stays 1, every other bit of every predicate is as before (01 R36). -/
structure Ctx.WrotePred (c : Ctx) (v : Warp) (pd : Nat) (val : Nat → Bool) (marks : List Nat) : Prop where
  only  : v = { c.w with preds := v.preds, regs := v.regs }
  value : ∀ i, i < 32 → c.eff.getLsbD i = true → pd ≠ 0 → v.pred pd i = val i
  kept  : ∀ n i, n < 8 → i < 32 → (n = pd → c.eff.getLsbD i = false) → v.pred n i = c.w.pred n i
  rest  : ∀ n, v.reg n = if c.full = true ∧ n ∈ marks then .d else c.w.reg n

/-- The instruction completes with its own effect on its warp alone: the next state is `s` after a warp with property `P`. -/
def State.Completes (s : State) (c : Ctx) (i : Instr) (P : Warp → Prop) : Prop :=
  ∃ v, exec i s = .next (s.after c v) ∧ P v

/-- The registers of a result exist in the warp (02 R68: one past the declared count traps before the effect). -/
def Ctx.holds (c : Ctx) (dst : Nat) (wide : Bool) : Prop := ∀ n ∈ dstRegs dst wide, n < c.w.regs.length

/-- An instruction under guard `g` with data operands `srcs` that writes one register or a pair: wherever it issues and none of
its operands is a dead read, it completes with `val` in its destination, tagged by `tag`. -/
def Gives (s : State) (c : Ctx) (g : Nat × Bool) (i : Instr) (dst : Nat) (wide : Bool) (srcs : List Opd) (marks : List Nat)
    (tag : Nat → Nat) (val : Nat → DWord) : Prop :=
  s.Issues g c → c.holds dst wide → c.deadRead (srcs.flatMap (·.regs)) = none →
    s.Completes c i fun v => c.Wrote v (resultOf dst wide val) marks tag

/-- The same for an instruction that writes a predicate. -/
def GivesPred (s : State) (c : Ctx) (g : Nat × Bool) (i : Instr) (pd : Nat) (srcs : List Opd) (marks : List Nat)
    (val : Nat → Bool) : Prop :=
  s.Issues g c → pd < 8 → c.w.preds.length = 7 → c.deadRead (srcs.flatMap (·.regs)) = none →
    s.Completes c i fun v => c.WrotePred v pd val marks

/-- No split waits in a waitval, which a store could wake. -/
def State.noReaders (s : State) : Prop := ∀ w ∈ s.warps, ∀ x ∈ w.entries, ∀ v, x.wait ≠ .value v

/-- No split waits in an abwait for a flip. -/
def State.noFlipWaits (s : State) : Prop :=
  ∀ w ∈ s.warps, ∀ x ∈ w.entries, ∀ key addr space phase eff marks seen, x.wait ≠ .phase key addr space phase eff marks seen

/-- `v` is the issuing warp but for its registers, its stamp clock and its lanes' places in happens-before (log 3). -/
def Ctx.WroteClock (c : Ctx) (v : Warp) (dsts : List (Nat × (Nat → Word))) (marks : List Nat) (tag : Nat → Nat := fun _ => 0) :
    Prop :=
  c.Wrote { v with clock := c.w.clock, sights := c.w.sights } dsts marks tag

/-- The instruction completes on its warp and elsewhere: the next state is `u` after a warp `v`, no other warp and no launch
having changed. -/
def State.CompletesIn (s : State) (c : Ctx) (i : Instr) (P : State → Warp → Prop) : Prop :=
  ∃ u v, exec i s = .next (u.after c v) ∧ u.warps = s.warps ∧ u.launches = s.launches ∧ P u v

/-- The event's own effect is `u`; what follows at once from it (collectives, barriers, retirements) has come about after it. -/
def State.Happens (s : State) (i : Instr) (P : State → Prop) : Prop :=
  ∃ u, exec i s = .next (State.stabilise u) ∧ P u

/-- Operation `op` has ended with `new` for its ticket: its range entries are freed, and each register that held the ticket,
PENDING, receives `new`; nothing else of any warp has changed but its stamp clock and what its ticket registers bring along (01
R38; 09 R245). -/
def ticketsEnd (s t : State) (op : Nat) (names : DWord → Bool) (new : DWord) : Prop :=
  ∀ w ∈ s.warps, ∃ v ∈ t.warps, v = { w with
    ranges := w.ranges.filter (fun r => r.op != op), clock := v.clock, endPasts := v.endPasts,
    tickets := w.tickets.map (fun k => if tkState k = 1 ∧ names k = true then new else k) }

/-- The warp after a step of an mloop whose line plans are `pa` and `pb`: both loads, then the multiplication; after the last
step the marks of its quad, format and mask registers act (07 R187, R192). -/
def State.loopStep (s : State) (c : Ctx) (f : FormX) (l : MloopState) (pa pb : List LineWord) : Warp :=
  let x := FormX.loopOperands f
  let klim := countOrK f.shape (stepKv l.block l.next l.total)
  let A := s.loadLine c.w x.a klim l.lanes pa
  let B := A.1.loadLine A.2.1 x.b klim l.lanes pb
  let M := B.1.multiply B.2.1 (l.block.step l.next) x f.dst.toNat (stepKv l.block l.next l.total) l.lanes
    (asOperand 0 A.2.2 ++ asOperand 1 B.2.2)
  if l.next + 1 = l.total then
    M.2.1.killMatrix f l.lanes [(2, f.xc.toNat, 4), (3, f.xd.toNat, 4), (4, f.xe.toNat, 1)]
      (regRange f.dst.toNat 32 ++ regRange f.xa.toNat (fragRegs f.shape f.codeA) ++ regRange f.xb.toNat (fragRegs f.shape f.codeB))
  else M.2.1

/-- Every byte outside [k, k+n) reads as before. -/
def keptBut (s t : State) (k n : Nat) : Prop := ∀ a, (a < k ∨ k + n ≤ a) → Memory.get t.mem a = Memory.get s.mem a

/-- Every key outside those of `ks` reads as before. -/
def keptOutside (s t : State) (ks : List (Nat × List Nat)) : Prop :=
  ∀ k, (∀ p ∈ ks, k ∉ p.2) → Memory.get t.mem k = Memory.get s.mem k

/-- The bytes of each lane's datum stand at its keys, a higher lane's over a lower one's. -/
def storedAt (t : State) (ks : List (Nat × List Nat)) (data : Nat → List Byte) : Prop :=
  ∀ pre i kl post, ks = pre ++ (i, kl) :: post → ∀ b k, kl[b]? = some k → k ∉ kl.drop (b + 1) → (∀ p ∈ post, k ∉ p.2) →
    Memory.get t.mem k = (data i).getD b 0

end Sys2Proof.Machine

namespace Sys2Proof
open Sys2Proof.Machine

/-- The affine rules hold for a 32-bit type without .sat alone. -/
def Ty.affine (t : Ty) (sat : Bool) (tag : Ctx → Opd → Opd → Nat) (c : Ctx) (a b : Opd) : Nat :=
  if t.width = 32 ∧ sat = false then tag c a b else c.tagU [a, b]

/-- Format V with data sources A and B of TYPE and a destination of TYPE. -/
def FormV.gives2 (f : FormV) (s : State) (c : Ctx) (i : Instr) (val : DWord → DWord → DWord)
    (tag : Ctx → Opd → Opd → Nat := fun c a b => c.tagU [a, b]) : Prop :=
  let a := f.a f.type.wide; let b := f.b f.type.wide
  Gives s c f.guard i f.dst.toNat f.type.wide [.src a, .src b] (f.marked [(0, a), (1, b)]) (fun _ => tag c (.src a) (.src b)) fun k => val (a.val c k) (b.val c k)
/-- Its I twin: the immediate in place of B (02 R57, R58). -/
def FormI.gives2 (f : FormI) (s : State) (c : Ctx) (i : Instr) (val : DWord → DWord → DWord)
    (tag : Ctx → Opd → Opd → Nat := fun c a b => c.tagU [a, b]) : Prop :=
  let a := f.a f.type.wide
  Gives s c f.guard i f.dst.toNat f.type.wide [.src a] (f.marked a) (fun _ => tag c (.src a) (.imm f.immVal)) fun k => val (a.val c k) f.immVal
/-- Format V with data source A of TYPE and a destination of TYPE, or of one register where `wide` is false. -/
def FormV.gives1 (f : FormV) (s : State) (c : Ctx) (i : Instr) (wide : Bool) (val : DWord → DWord) : Prop :=
  let a := f.a f.type.wide
  Gives s c f.guard i f.dst.toNat wide [.src a] (f.marked [(0, a)]) (fun _ => c.tagU [.src a]) fun k => val (a.val c k)
/-- Format V with a 32-bit control operand B (04 R108). -/
def FormV.givesCtl (f : FormV) (s : State) (c : Ctx) (i : Instr) (val : DWord → Nat → DWord)
    (tag : Ctx → Opd → Opd → Nat := fun c a b => c.tagU [a, b]) : Prop :=
  let a := f.a f.type.wide; let b := f.b false
  Gives s c f.guard i f.dst.toNat f.type.wide [.src a, .src b] (f.marked [(0, a), (1, b)]) (fun _ => tag c (.src a) (.src b))
    fun k => val (a.val c k) (lo32 (b.val c k)).toNat
/-- Its I twin: the control is the immediate as it stands. -/
def FormI.givesCtl (f : FormI) (s : State) (c : Ctx) (i : Instr) (val : DWord → Nat → DWord)
    (tag : Ctx → Opd → Opd → Nat := fun c a b => c.tagU [a, b]) : Prop :=
  let a := f.a f.type.wide
  Gives s c f.guard i f.dst.toNat f.type.wide [.src a] (f.marked a) (fun _ => tag c (.src a) (.imm (f.imm.setWidth 64)))
    fun k => val (a.val c k) f.imm.toNat
/-- Format V with three data sources of TYPE. -/
def FormV.gives3 (f : FormV) (s : State) (c : Ctx) (i : Instr) (val : DWord → DWord → DWord → DWord) : Prop :=
  let a := f.a f.type.wide; let b := f.b f.type.wide; let d := f.c f.type.wide
  Gives s c f.guard i f.dst.toNat f.type.wide [.src a, .src b, .src d] (f.marked [(0, a), (1, b), (2, d)])
    (fun _ => c.tagU [.src a, .src b, .src d]) fun k => val (a.val c k) (b.val c k) (d.val c k)

end Sys2Proof
end

