-- ==== Sys2Proof/Certificates/Slice0/Obligations.lean ====
section
/-! DEFINITION. Certificates/Slice0/Obligations.lean: the statements for the provers. -/

open Sys2Proof
open Sys2Proof.Machine

/-! ### Encoding, the step, reset and the whole machine -/

/-- Words the spec writes out, with the instruction each stands for: fadd.f32 with B through bc=8, a backward bra, cpy under p1,
ld acquire at .dev, an mma of planes, sread of register 0x01A. (02 R48, 02 R50, 02 R52, 04 R101, 09 R231) -/
def Obligations.DecodedWords : Prop :=
  decodeTableWord 96 0x00001600001A020002020100 = some (.fadd { dst := 8, sa := 8, sb := 8, rtb := 0x68, ty := 0xB }) ∧
  decodeTableWord 96 0xFFFFFFFF0000000000C00001 = some (.bra { tslot := 3, toff := 0xFFFFFFFF }) ∧
  decodeTableWord 96 0x0C000000000687410700_0680 = some (.cpy { pred := 1, xa := 28, xb := 4, xc := 29, xd := 26, ops := 0x018000 }) ∧
  decodeTableWord 96 0x000000100000026B00818200 =
    some (.ld { dat := 6, adr := 2, space := 3, scope := 5, ord := 1, width := 2, offs := 16 }) ∧
  decodeTableWord 96 0x800372C0001810080410_01C0 =
    some (.mma { dst := 64, xa := 16, xb := 32, xc := 64, xd := 96, lu := 0xB, ops := 0x10006E }) ∧
  decodeTableWord 96 0x0000001A0400000000008380 = some (.sread { dst := 2, ty := 8, imm := 0x1A })

/-- Decode and encode agree: every well-formed instruction of the word, with every operand its fields hold, is what its own word
decodes to; and a word that decodes is the word of what it decodes to. (02 R50, 02 R51, 02 R52, 02 R55, 02 R63) -/
def Obligations.DecodeEncode : Prop :=
  (∀ (i : Instr) (w : Slot96), i.wellFormed = true → encode i = some w → decode w = .ok i) ∧
  (∀ (i : Instr) (w : Slot96), decode w = .ok i → i.wellFormed = true ∧ encode i = some w)

/-- A step runs the decoded instruction. When the next scheduler's choice fetches a line whose slot decodes to `i`, alone, with
its registers in the warp's count and no lane leaving its segment, the step is exec of `i` with the split noted as issued; a
second of a pair, which the first leaves at the issue stage as it goes on, and an event of the agenda are run the same way; that
the issue stage goes before the agenda, whose first event the step takes, is the model's choice (log 2). (02 R48, 02 R66, 02
R67, 06 R154, 06 R155, the model's log 2) -/
def Obligations.StepRunsTheInstruction : Prop := ∀ (s t : State) (k line : Nat) (w : Warp) (e : Nat) (l : Launch) (g : Workgroup)
    (i : Instr),
  let pc := (w.entry e).pc; let lw := lineWord line; let slot := pc.toNat % 8
  let issued : Issue := { warp := w.uid, entry := e, pc := pc, instr := i, second := none }
  (s.issue = none → s.agenda = [] → s.turn ≠ 0 → s.nextScheduler = some k → s.choose k = some (w, e) →
    s.launch? w.launch = some l → s.wg? w.wg = some g →
    s.fetchLine w (s.asidOf w) e pc = (t, .line line) → bitsOf lw 9 7 = 0 → (bitsOf lw 5 4).testBit slot = false →
    overlapAt (bitsOf lw 5 4) slot = none → decode (lineSlot line slot) = .ok i → (uses i).beyond w.nreg = none →
    l.packet.travel = false →
      step s = exec i { t.noteIssue w.uid e with turn := k + 2, issue := some issued }) ∧
  (∀ x, s.issue = some x → (s.ctx? x.instr.guard).isSome = true → x.marked = [] → step s = exec x.instr s) ∧
  (∀ r, s.issue = none → s.agenda = i :: r → step s = exec i { s with agenda := r }) ∧
  (∀ (c : Ctx) (z : Warp) (j : Instr), c.second = some j → ∃ x : Issue, (s.finish c z).issue = some x ∧ x.instr = j ∧
    x.pc = nextSlot c.pc ∧ x.second = none ∧ (s.finish c z).mem = s.mem)

/-- What reset leaves: the boot state with every die online and its memory path serving, nothing launched and nothing in flight,
the tick at 1, the mailbox interface negotiated at version 1 and no other; memory lists nothing, which is the canonical form,
and all 8 fabric ports are up, both the model's choice (logs 1, 10). (20 R422, 16 R350, 19 R398, the model's log 1, the model's
log 10) -/
def Obligations.ResetState : Prop :=
  State.reset.memWf ∧ State.reset.mem = [] ∧ State.reset.boot = .boot ∧ State.reset.tick = 1 ∧
  State.reset.negotiated = [1, 0, 0, 0] ∧ State.reset.dies.length = 8 ∧
  (∀ d ∈ State.reset.dies, d.st = 0 ∧ d.why = 0 ∧ d.mempath = true ∧ d.poisonedPages = []) ∧
  State.reset.launches = [] ∧ State.reset.warps = [] ∧ State.reset.accesses = [] ∧ State.reset.copies = [] ∧
  State.reset.coaches = [] ∧ State.reset.regions = [] ∧ State.reset.ports = 0xFF

/-- Every step keeps the memory's canonical form: keys strictly rising, no entry equal to what an unlisted key reads as. (13
R314, 13 R316, the model's log 1) -/
def Obligations.StepKeepsMemory : Prop := ∀ s t : State, s.memWf → step s = .next t → t.memWf

/-- No instruction and no event stops the machine: every one answers a next state in every state, and so does every step. (02
R68, 06 R164, the model's log 4) -/
def Obligations.NothingStops : Prop := (∀ (i : Instr) (s : State), ∃ t, exec i s = .next t) ∧ ∀ s : State, ∃ t, step s = .next t

/-- The fused security-version counter never falls, and only firmware's command raises it, no higher than the running image's
version; the measurement register is written by the boot ROM's verification, and cleared by a reset of the front die, and by
nothing else. (R425) -/
def Obligations.SecurityCounter : Prop := ∀ s t : State,
  let runs (i : Instr) : Prop := (∃ x, s.issue = some x ∧ x.instr = i) ∨ ∃ r, s.agenda = i :: r
  step s = .next t →
    s.fusedSvn ≤ t.fusedSvn ∧
    (t.fusedSvn ≠ s.fusedSvn → s.boot = .firmware ∧ t.fusedSvn ≤ s.svn ∧ runs (.evSvnRaise t.fusedSvn)) ∧
    (t.measurement ≠ s.measurement → (runs .evBootVerify ∧ ∃ p, s.boot = .verifying p) ∨
      (runs .evFrontDieReset ∧ t.measurement = List.replicate 48 0))

/-! ### Classes 0x2 and 0x3: integers and bits -/

/-- The two-operand integer instructions and their immediate twins write the exact result under R74 in every effective lane,
with the tag of Table 4-7, and leave every other register, predicate and byte as it was. imad and imadw: exact product and sum;
iabs and ineg. (04 R109, 04 R110, 04 R111, 03 R74, 01 R33, 01 R34) -/
def Obligations.IntegerArithmetic : Prop :=
  (∀ (s : State) (c : Ctx) (f : FormV) (g : FormI),
   f.gives2 s c (.iadd f) (fun a b => f.type.result f.sat (f.type.read a + f.type.read b))
     (f.type.affine f.sat Ctx.tagAdd) ∧
   g.gives2 s c (.iaddI g) (fun a b => g.type.result g.sat (g.type.read a + g.type.read b))
     (g.type.affine g.sat Ctx.tagAdd) ∧
   f.gives2 s c (.isub f) (fun a b => f.type.result f.sat (f.type.read a - f.type.read b))
     (f.type.affine f.sat Ctx.tagSub) ∧
   g.gives2 s c (.isubI g) (fun a b => g.type.result g.sat (g.type.read a - g.type.read b))
     (g.type.affine g.sat Ctx.tagSub) ∧
   f.gives2 s c (.imul f) (fun a b => f.type.result f.sat (f.type.read a * f.type.read b))
     (f.type.affine f.sat Ctx.tagMul) ∧
   g.gives2 s c (.imulI g) (fun a b => g.type.result g.sat (g.type.read a * g.type.read b))
     (g.type.affine g.sat Ctx.tagMul) ∧
   f.gives2 s c (.imulh f) (fun a b => f.type.result f.sat (f.type.read a * f.type.read b / 2 ^ f.type.width)) ∧
   g.gives2 s c (.imulhI g) (fun a b => g.type.result g.sat (g.type.read a * g.type.read b / 2 ^ g.type.width)) ∧
   f.gives2 s c (.imin f) (fun a b => f.type.result f.sat (min (f.type.read a) (f.type.read b))) ∧
   g.gives2 s c (.iminI g) (fun a b => g.type.result g.sat (min (g.type.read a) (g.type.read b))) ∧
   f.gives2 s c (.imax f) (fun a b => f.type.result f.sat (max (f.type.read a) (f.type.read b))) ∧
   g.gives2 s c (.imaxI g) (fun a b => g.type.result g.sat (max (g.type.read a) (g.type.read b)))) ∧
  (∀ (s : State) (c : Ctx) (f : FormV),
   f.gives3 s c (.imad f) (fun a b d => f.type.result f.sat (f.type.read a * f.type.read b + f.type.read d)) ∧
   (let t : Ty := if f.type == .i32 then .i64 else .n64
    Gives s c f.guard (.imadw f) f.dst.toNat true [.src (f.a false), .src (f.b false), .src (f.c true)]
       (f.marked [(0, f.a false), (1, f.b false), (2, f.c true)])
       (fun _ => c.tagU [.src (f.a false), .src (f.b false), .src (f.c true)]) fun k =>
         t.result f.sat (f.type.read ((f.a false).val c k) * f.type.read ((f.b false).val c k) + t.read ((f.c true).val c k))) ∧
   f.gives1 s c (.iabs f) f.type.wide (fun a => f.type.result f.sat ((f.type.read a).natAbs : Int)) ∧
   f.gives1 s c (.ineg f) f.type.wide (fun a => f.type.result f.sat (-f.type.read a)))

/-- idiv and irem complete where no effective lane divides by zero: the quotient towards zero, the remainder with the sign of the
dividend. A zero divisor in any effective lane makes idiv and irem trap INT_DIVIDE_ZERO (0x30) with the set of those lanes as trap
value, whatever the other lanes hold, and no register is written; a zero immediate does so in every effective lane. (04 R109) -/
def Obligations.IntegerDivision : Prop :=
  (∀ (s : State) (c : Ctx) (f : FormV) (g : FormI),
   ((∀ k, k < 32 → c.eff.getLsbD k = true → f.type.read ((f.b f.type.wide).val c k) ≠ 0) →
     f.gives2 s c (.idiv f) (fun a b => f.type.result f.sat (Int.tdiv (f.type.read a) (f.type.read b))) ∧
     f.gives2 s c (.irem f) (fun a b => f.type.result f.sat (Int.tmod (f.type.read a) (f.type.read b)))) ∧
   (g.type.read g.immVal ≠ 0 →
     g.gives2 s c (.idivI g) (fun a b => g.type.result g.sat (Int.tdiv (g.type.read a) (g.type.read b))) ∧
     g.gives2 s c (.iremI g) (fun a b => g.type.result g.sat (Int.tmod (g.type.read a) (g.type.read b))))) ∧
  (∀ (s : State) (c : Ctx) (f : FormV) (g : FormI),
   let a := f.a f.type.wide; let b := f.b f.type.wide
   (∀ k, s.ctx? f.guard = some c → c.deadRead (a.regs ++ b.regs) = none →
     k < 32 → c.eff.getLsbD k = true → f.type.read (b.val c k) = 0 →
     ∃ z : Mask, (∀ i, i < 32 → z.getLsbD i = (c.eff.getLsbD i && f.type.read (b.val c i) == 0)) ∧
       exec (.idiv f) s = .next (s.trapHere c 0x30 (z.setWidth 64)) ∧
       exec (.irem f) s = .next (s.trapHere c 0x30 (z.setWidth 64))) ∧
   (s.ctx? g.guard = some c → c.deadRead (g.a g.type.wide).regs = none → c.eff ≠ 0 → g.type.read g.immVal = 0 →
     exec (.idivI g) s = .next (s.trapHere c 0x30 (c.eff.setWidth 64)) ∧
     exec (.iremI g) s = .next (s.trapHere c 0x30 (c.eff.setWidth 64))))

/-- An exact result x is written so that it reads back as sat(x, low, high) with .sat, and as x mod 2^w read as the type
without. (03 R73, 03 R74) -/
def Obligations.ResultRule : Prop := ∀ (t : Ty) (x : Int), t.isInt = true →
  t.read (t.result true x) = (if x < t.lo then t.lo else if t.hi < x then t.hi else x) ∧
  (t.read (t.result false x) - x) % 2 ^ t.width = 0 ∧
  t.lo ≤ t.read (t.result false x) ∧ t.read (t.result false x) ≤ t.hi

/-- The compares write a predicate bit in each effective lane and nothing else; a write to p0 is discarded. sel takes A where the
predicate bit, after negation, is 1; mov moves; movi extends its immediate; lea adds the line's address, the displacement and the
offset register. Each with its row of Table 4-7: sel gives G, movi U, mov the counted tag of its source register by register. (04
R112, 04 R113, 04 R114, 04 R115, 05 R129, 01 R33) -/
def Obligations.ComparesAndMoves : Prop :=
  (∀ (s : State) (c : Ctx) (f : FormV) (g : FormI),
   let a := f.a f.type.wide; let b := f.b f.type.wide; let ga := g.a g.type.wide
   GivesPred s c f.guard (.icmp f) f.dst.toNat [.src a, .src b] (f.marked [(0, a), (1, b)])
     (fun k => cmpInt (f.opsAt 86 84) (f.type.read (a.val c k)) (f.type.read (b.val c k))) ∧
   GivesPred s c g.guard (.icmpI g) g.dst.toNat [.src ga] (g.marked ga)
     (fun k => cmpInt (g.opsAt 86 84) (g.type.read (ga.val c k)) (g.type.read g.immVal)) ∧
   GivesPred s c f.guard (.fcmp f) f.dst.toNat [.src a, .src b] (f.marked [(0, a), (1, b)])
     (fun k => cmpF f.type (f.opsAt 87 84 % 8) ((f.opsAt 87 84).testBit 3) (f.type.bits (a.val c k)) (f.type.bits (b.val c k))) ∧
   GivesPred s c g.guard (.fcmpI g) g.dst.toNat [.src ga] (g.marked ga)
     (fun k => cmpF g.type (g.opsAt 87 84 % 8) ((g.opsAt 87 84).testBit 3) (g.type.bits (ga.val c k)) (g.type.bits g.immVal))) ∧
  (∀ (s : State) (c : Ctx) (f : FormV) (g : FormI),
   let pick (o : Nat) (k : Nat) (x y : DWord) : DWord := if c.w.pred (o / 2 % 8) k != (o % 2 == 1) then x else y
   (let a := f.a f.type.wide; let b := f.b f.type.wide
    Gives s c f.guard (.sel f) f.dst.toNat f.type.wide [.src a, .src b] (f.marked [(0, a), (1, b)]) (fun _ => 2)
       fun k => pick (f.opsAt 87 84) k (a.val c k) (b.val c k)) ∧
   (let a := g.a g.type.wide
    Gives s c g.guard (.selI g) g.dst.toNat g.type.wide [.src a] (g.marked a) (fun _ => 2)
       fun k => pick (g.opsAt 87 84) k (a.val c k) g.immVal) ∧
   (let a := f.a f.type.wide
    Gives s c f.guard (.mov f) f.dst.toNat f.type.wide [.src a] (f.marked [(0, a)])
       (fun n => (countReg c a.rt a.fill (a.n + (n - f.dst.toNat))).tag) fun k => a.val c k) ∧
   Gives s c g.guard (.movi g) g.dst.toNat g.type.wide [] [] (fun _ => 0)
     (fun _ => if g.type.isInt then g.type.hold (g.type.read g.immVal) else g.immVal) ∧
   (let off := g.ops.toNat % 2 == 1; let a := g.a false
    Gives s c g.guard (.lea g) g.dst.toNat true (if off then [.src a] else []) (if off then g.marked a else [])
       (fun n => let k := if off then (a.count c).tag else 0; if n = g.dst.toNat then k else if k = 0 then 0 else 2) fun k => BitVec.ofNat 64 (c.pc.toNat / 64 * 64) + g.imm.signExtend 64 + (if off then a.val c k &&& 0xFFFFFFFF else 0)))

/-- The bitwise instructions over w bits. (R116) -/
def Obligations.Bitwise : Prop := ∀ (s : State) (c : Ctx) (f : FormV) (g : FormI),
  let n (t : Ty) (v : DWord) : Nat := v.toNat % 2 ^ t.width
  let ones (t : Ty) : Nat := 2 ^ t.width - 1
  let out (x : Nat) : DWord := BitVec.ofNat 64 x
  f.gives2 s c (.and_ f) (fun a b => out (n f.type a &&& n f.type b)) ∧
  g.gives2 s c (.andI g) (fun a b => out (n g.type a &&& n g.type b)) ∧
  f.gives2 s c (.or_ f) (fun a b => out (n f.type a ||| n f.type b)) ∧
  g.gives2 s c (.orI g) (fun a b => out (n g.type a ||| n g.type b)) ∧
  f.gives2 s c (.xor_ f) (fun a b => out (n f.type a ^^^ n f.type b)) ∧
  g.gives2 s c (.xorI g) (fun a b => out (n g.type a ^^^ n g.type b)) ∧
  f.gives2 s c (.andn f) (fun a b => out (n f.type a &&& (ones f.type ^^^ n f.type b))) ∧
  g.gives2 s c (.andnI g) (fun a b => out (n g.type a &&& (ones g.type ^^^ n g.type b))) ∧
  f.gives2 s c (.orn f) (fun a b => out (n f.type a ||| (ones f.type ^^^ n f.type b))) ∧
  g.gives2 s c (.ornI g) (fun a b => out (n g.type a ||| (ones g.type ^^^ n g.type b)))

/-- Shifts and rotates: a count of the width or more shifts everything out, a rotate takes its count modulo the width. (R117) -/
def Obligations.Shifts : Prop := ∀ (s : State) (c : Ctx) (f : FormV) (g : FormI),
  let n (t : Ty) (v : DWord) : Nat := v.toNat % 2 ^ t.width
  let shl (t : Ty) (a : DWord) (k : Nat) : DWord := BitVec.ofNat 64 (if k ≥ t.width then 0 else n t a * 2 ^ k % 2 ^ t.width)
  let shr (t : Ty) (a : DWord) (k : Nat) : DWord := BitVec.ofNat 64 (if k ≥ t.width then 0 else n t a / 2 ^ k)
  let signed (t : Ty) (a : DWord) : Int := if n t a ≥ 2 ^ (t.width - 1) then (n t a : Int) - 2 ^ t.width else n t a
  let sar (t : Ty) (a : DWord) (k : Nat) : DWord := 
    BitVec.ofNat 64 ((if k ≥ t.width then (if signed t a < 0 then -1 else 0) else signed t a / 2 ^ k) % 2 ^ t.width).toNat
  let rol (t : Ty) (a : DWord) (k : Nat) : DWord :=
    BitVec.ofNat 64 (n t a * 2 ^ (k % t.width) % 2 ^ t.width + n t a / 2 ^ (t.width - k % t.width))
  let ror (t : Ty) (a : DWord) (k : Nat) : DWord :=
    BitVec.ofNat 64 (n t a / 2 ^ (k % t.width) + n t a * 2 ^ (t.width - k % t.width) % 2 ^ t.width)
  f.givesCtl s c (.shl f) (shl f.type) (f.type.affine false Ctx.tagShl) ∧
  g.givesCtl s c (.shlI g) (shl g.type) (g.type.affine false Ctx.tagShl) ∧
  f.givesCtl s c (.shr f) (shr f.type) ∧ g.givesCtl s c (.shrI g) (shr g.type) ∧
  f.givesCtl s c (.sar f) (sar f.type) ∧ g.givesCtl s c (.sarI g) (sar g.type) ∧
  f.givesCtl s c (.rol f) (rol f.type) ∧ g.givesCtl s c (.rolI g) (rol g.type) ∧
  f.givesCtl s c (.ror f) (ror f.type) ∧ g.givesCtl s c (.rorI g) (ror g.type)

/-- popc, clz, ctz write one register; brev, bfe, bfi and prmb write their type's registers; bfi reads its destination. (04
R118, 04 R119, 04 R120, 04 R122) -/
def Obligations.BitFields : Prop := ∀ (s : State) (c : Ctx) (f : FormV) (g : FormI),
  let n (t : Ty) (v : DWord) : Nat := v.toNat % 2 ^ t.width
  f.gives1 s c (.popc f) false (fun a => BitVec.ofNat 64 (popNat f.type.width (n f.type a))) ∧
  f.gives1 s c (.clz f) false (fun a => BitVec.ofNat 64 (clzNat f.type.width (n f.type a))) ∧
  f.gives1 s c (.ctz f) false (fun a => BitVec.ofNat 64 (ctzNat f.type.width (n f.type a))) ∧
  f.gives1 s c (.brev f) f.type.wide (fun a => BitVec.ofNat 64 (brevNat f.type.width (n f.type a))) ∧
  f.givesCtl s c (.bfe f) (fun a k => BitVec.ofInt 64 (bfeNat f.type (n f.type a) k % 2 ^ f.type.width)) ∧
  g.givesCtl s c (.bfeI g) (fun a k => BitVec.ofInt 64 (bfeNat g.type (n g.type a) k % 2 ^ g.type.width)) ∧
  (let a := f.a f.type.wide; let b := f.b false; let old : Src := { n := f.dst.toNat, wide := f.type.wide }
   Gives s c f.guard (.bfi f) f.dst.toNat f.type.wide [.src a, .src b, .src old] (f.marked [(0, a), (1, b)])
      (fun _ => c.tagU [.src a, .src b, .src old]) fun k =>
      BitVec.ofNat 64 (bfiNat f.type (n f.type (a.val c k)) (n f.type (old.val c k)) (lo32 (b.val c k)).toNat)) ∧
  (let a := g.a g.type.wide; let old : Src := { n := g.dst.toNat, wide := g.type.wide }
   Gives s c g.guard (.bfiI g) g.dst.toNat g.type.wide [.src a, .src old] (g.marked a)
      (fun _ => c.tagU [.src a, .src old]) fun k =>
      BitVec.ofNat 64 (bfiNat g.type (n g.type (a.val c k)) (n g.type (old.val c k)) g.imm.toNat)) ∧
  f.givesCtl s c (.prmb f) (fun a k => BitVec.ofNat 64 (prmbNat (n f.type a) k % 2 ^ f.type.width)) ∧
  g.givesCtl s c (.prmbI g) (fun a k => BitVec.ofNat 64 (prmbNat (n g.type a) k % 2 ^ g.type.width))

/-! ### Classes 0x4, 0x5 and 0x6: floating point, conversions, bit planes -/

/-- The two-operand floating-point instructions: the exact value of the operation on the decoded operands, rounded once in the
mode RND selects; fmin to fmaxn pick an operand. ffma rounds the exact product and sum once; fabs and fneg change the sign bit
alone; fclass writes one bit of a mask. (05 R126, 05 R127, 05 R128, 05 R130, 03 R78, 05 R131) -/
def Obligations.FloatArithmetic : Prop :=
  (∀ (s : State) (c : Ctx) (f : FormV) (g : FormI),
   let one (t : Ty) (r : Rnd) (op : FVal → FVal → FVal) (a b : DWord) : DWord :=
     BitVec.ofNat 64 (encodeF t r (op (decodeF t (t.bits a)) (decodeF t (t.bits b))))
   let pick (t : Ty) (big num : Bool) (a b : DWord) : DWord := BitVec.ofNat 64 (pickF t big num (t.bits a) (t.bits b))
   let r := FormV.mode f; let q := FormI.mode g
   f.gives2 s c (.fadd f) (one f.type r (addF r)) ∧ g.gives2 s c (.faddI g) (one g.type q (addF q)) ∧
   f.gives2 s c (.fsub f) (one f.type r fun a b => addF r a (negF b)) ∧
   g.gives2 s c (.fsubI g) (one g.type q fun a b => addF q a (negF b)) ∧
   f.gives2 s c (.fmul f) (one f.type r mulF) ∧ g.gives2 s c (.fmulI g) (one g.type q mulF) ∧
   f.gives2 s c (.fmin f) (pick f.type false false) ∧ g.gives2 s c (.fminI g) (pick g.type false false) ∧
   f.gives2 s c (.fmax f) (pick f.type true false) ∧ g.gives2 s c (.fmaxI g) (pick g.type true false) ∧
   f.gives2 s c (.fminn f) (pick f.type false true) ∧ g.gives2 s c (.fminnI g) (pick g.type false true) ∧
   f.gives2 s c (.fmaxn f) (pick f.type true true) ∧ g.gives2 s c (.fmaxnI g) (pick g.type true true)) ∧
  (∀ (s : State) (c : Ctx) (f : FormV),
   let t := f.type; let r := FormV.mode f
   f.gives3 s c (.ffma f) (fun a b d => BitVec.ofNat 64
     (encodeF t r (addF r (mulF (decodeF t (t.bits a)) (decodeF t (t.bits b))) (decodeF t (t.bits d))))) ∧
   f.gives1 s c (.fabs f) t.wide (fun a => BitVec.ofNat 64 (t.mag (t.bits a))) ∧
   f.gives1 s c (.fneg f) t.wide (fun a => BitVec.ofNat 64 (t.withSign (!t.neg (t.bits a)) (t.mag (t.bits a)))) ∧
   f.gives1 s c (.fclass f) false (fun a => BitVec.ofNat 64 (2 ^ classF t (t.bits a))))

/-- fcvt, icvt and fcvti between the types their two type fields name; a 16-bit fcvt result placed in one half keeps the other.
fsqrt and fdiv round the exact root and quotient in the mode RND selects (f16 and bf16 too: the model's choice, log 38). The
special functions deliver the special value where their operand has one, and else the exact result rounded to nearest or, at f32
and f64 alone, a number within the bound the model takes from Table 5-5 (which one is a free value: log 7). (05 R133, 05 R134,
05 R135, 05 R136, 05 R137, 05 R138, the model's log 7, the model's log 38) -/
def Obligations.ConversionsAndFunctions : Prop :=
  (∀ (s : State) (c : Ctx) (f : FormV),
   let d := f.type; let st := f.stype; let a := f.a st.wide; let old : Src := { n := f.dst.toNat }
   let place := f.opsAt 89 88; let keeps := place == 1 || place == 2
   (Gives s c f.guard (.fcvt f) f.dst.toNat d.wide (if keeps then [.src a, .src old] else [.src a]) (f.marked [(0, a)])
       (fun _ => c.tagU (if keeps then [.src a, .src old] else [.src a])) fun k =>
     let x := (a.val c k).toNat; let o := (old.val c k).toNat
     let y := cvtBits d st (FormV.mode f) f.sat ((if f.opsAt 90 90 = 1 then x / 2 ^ 16 else x) % 2 ^ st.width)
     BitVec.ofNat 64 (if place = 1 then o / 2 ^ 16 * 2 ^ 16 + y else if place = 2 then y * 2 ^ 16 + o % 2 ^ 16 else y)) ∧
   (Gives s c f.guard (.icvt f) f.dst.toNat d.wide [.src a] (f.marked [(0, a)]) (fun _ => c.tagU [.src a]) fun k =>
     if d.isFloat then BitVec.ofNat 64 (encodeF d (FormV.mode f) (intF (st.read (a.val c k))))
     else d.result f.sat (st.read (a.val c k))) ∧
   (Gives s c f.guard (.fcvti f) f.dst.toNat d.wide [.src a] (f.marked [(0, a)]) (fun _ => c.tagU [.src a]) fun k =>
     cvtInt d st (FormV.mode f) f.sat (st.bits (a.val c k)))) ∧
  (∀ (s : State) (c : Ctx) (f : FormV),
   let t := f.type
   let special (fn : SpecialFn) (a : DWord) : DWord := BitVec.ofNat 64 (fn.bits t (t.bits a))
   f.gives1 s c (.fsqrt f) t.wide (fun a => BitVec.ofNat 64 (sqrtBits t (FormV.mode f) (decodeF t (t.bits a)))) ∧
   f.gives2 s c (.fdiv f) (fun a b =>
     BitVec.ofNat 64 (divBits t (FormV.mode f) (decodeF t (t.bits a)) (decodeF t (t.bits b)))) ∧
   f.gives1 s c (.frcp f) t.wide (special .rcp) ∧ f.gives1 s c (.frsq f) t.wide (special .rsq) ∧
   f.gives1 s c (.fex2 f) t.wide (special .ex2) ∧ f.gives1 s c (.flg2 f) t.wide (special .lg2) ∧
   f.gives1 s c (.fsin f) t.wide (special .sin) ∧ f.gives1 s c (.fcos f) t.wide (special .cos) ∧
   f.gives1 s c (.ftanh f) t.wide (special .tanh) ∧
   (∀ (fn : SpecialFn) (b r : Nat), fn.special t (decodeF t b) = some r → fn.bits t b = r) ∧
   (∀ (fn : SpecialFn) (b : Nat) (n : Bool) (m : Nat) (e : Int), decodeF t b = .num n m e → fn.special t (.num n m e) = none →
     let y := fn.exact n m e; let bound := fn.bound t m e y
     fn.bits t b = roundBits t .rne y.neg y.m y.e y.sticky ∨
     (t ≠ .f16 ∧ t ≠ .bf16 ∧ ∃ cn cm ce, decodeF t (fn.bits t b) = .num cn cm ce ∧
       y.within (if cn then -(cm : Int) else cm) ce bound.1 bound.2 = true)))

/-- quant and plsplit write the plane words of the effective lanes' codes, and quant its exponent register; deq and pljoin read
planes back: plsplit and pljoin at 8 planes give the codes again. Plane words and exponents are U (with .xe as vb counts), what
deq and pljoin write G. (05 R143, 05 R144, 05 R145, 05 R146, 05 R147, 05 R148) -/
def Obligations.BitPlanes : Prop := ∀ (s : State) (c : Ctx) (f : FormV),
  let d := f.dst.toNat; let n := f.sa.toNat; let a := f.a false; let b := f.b false
  let p := f.opsAt 93 91 + 1; let xe := f.opsAt 90 90 == 1; let l := f.opsAt 89 88; let st := f.stype
  let bits (r : Src) (j : Nat) : Nat := if c.eff.getLsbD j then st.bits (r.val c j) else 0
  let exp (j : Nat) : Nat := if xe then (b.val c j).toNat % 256 else quantExp st l (bits a) (bits b) j
  let planes (q : Nat → Int) : List (Nat × (Nat → Word)) := (List.range 8).map fun k => (d + k, fun _ => planeWord c.eff q k)
  (s.Issues f.guard c → d + 9 ≤ c.w.regs.length → c.deadRead (a.regs ++ if xe || l == 2 then b.regs else []) = none →
    s.Completes c (.quant f) fun v =>
      c.Wrote v (planes (fun j => planeCodeOf (exp j) (decodeF st (bits a j))) ++
        [(d + 8, fun j => BitVec.ofNat 32 (if xe then exp j else if l = 0 then exp 0 + exp 16 * 256 else exp 0))])
        (f.marked [(0, a), (1, b)]) (fun n => if n = d + 8 ∧ xe = true then c.tagU [.src b] else 0)) ∧
  (s.Issues f.guard c → d + 8 ≤ c.w.regs.length → c.deadRead a.regs = none →
    s.Completes c (.plsplit f) fun v => c.Wrote v (planes fun j => Ty.i8.read (a.val c j)) (f.marked [(0, a)])) ∧
  (s.Issues f.guard c → c.holds d f.type.wide → c.deadRead (planeRegs n p ++ b.regs) = none →
    s.Completes c (.deq f) fun v => c.Wrote v (resultOf d f.type.wide fun i =>
        let x := (b.val c i).toNat
        let e := (if !xe && l = 0 && 16 ≤ i then x / 256 else x) % 256
        let q := joinPlanes c n p i
        BitVec.ofNat 64 (if e = 0 then 0 else if e = 255 then f.type.nan
          else encodeF f.type (FormV.mode f) (.num (q < 0) q.natAbs ((e : Int) - 133))))
      ((if f.lu.getLsbD 0 then planeRegs n p else []) ++ f.marked [(1, b)]) (fun _ => 2)) ∧
  (s.Issues f.guard c → c.holds d false → c.deadRead (planeRegs n p) = none →
    s.Completes c (.pljoin f) fun v => c.Wrote v [(d, fun i => BitVec.ofInt 32 (joinPlanes c n p i))]
      (if f.lu.getLsbD 0 then planeRegs n p else []) (fun _ => 2)) ∧
  (∀ (q : Nat → Int) (i : Nat), i < 32 → c.eff.getLsbD i = true → -128 ≤ q i → q i ≤ 127 →
    (∀ k, k < 8 → c.w.lane (n + k) i = planeWord c.eff q k) → joinPlanes c n 8 i = q i)

/-- pcomb combines three predicates by its truth table; nop, prefetch and cctl change nothing but the PC and the registers their
marks make D: they check nothing, a D address register of cctl's included (the model's choice, log 38). (02 R51, 04 R107, 08
R220, 08 R221, the model's log 38) -/
def Obligations.PredicatesAndHints : Prop := ∀ (s : State) (c : Ctx) (f : FormV) (m : FormM),
  (let bit (p : BitVec 8) (i : Nat) : Nat := if c.w.pred p.toNat i then 1 else 0
   GivesPred s c f.guard (.pcomb f) f.dst.toNat [] []
     fun i => (f.opsAt 91 84).testBit (bit f.sa i + 2 * bit f.sb i + 4 * bit f.sc i)) ∧
  (s.Issues (0, false) c → exec (.nop f) s = .next (s.after c c.w)) ∧
  (s.Issues m.guard c →
    (s.Completes c (.prefetch m) fun v => c.Wrote v [] (m.marked [] [])) ∧
    s.Completes c (.cctl m) fun v => c.Wrote v [] (m.marked [] []))

/-! ### Class 0x0, traps and returns -/

/-- A branch whose lanes are all effective, its PCs legal, moves them together: bra to its target; call to its target with the next
slot's PC in the link pair; brx and ret to the PC in their register pair. `u` is the state after the PCs' lines have been checked,
`v` the warp with the link pair written or the marks applied. A guarded bra with some of its running lanes effective sends those
to its target and the others to the next slot, by the rule of divergent branches where these are two PCs. A divergent branch of a
warp with fewer than 4 live splits, at a depth below 2, forms a second split: the lanes of the lower PC go on in the entry, the
others in the lowest FREE entry, both with J as reconvergence point and the old one as the outer. (01 R17, 01 R18, 04 R95, 04 R96)
-/
def Obligations.Branches : Prop :=
  (∀ (s u : State) (c : Ctx) (f : FormB),
   let t := targetOf c.pc f.toff f.tslot; let j := targetOf c.pc f.joff f.jslot
   let js := if FormB.guarded f then [j] else []
   let inMap (p : PC) : Prop := c.l.packet.travel = true → (c.l.segmentOf p).isSome = true
   c.eff = c.run →
   (s.IssuesTo f.guard c t → inMap t → s.checkTargets c (t :: js) = (u, none) → exec (.bra f) s = .next (u.movedTo c c.w t)) ∧
   (s.IssuesTo f.guard c t → inMap t → c.holds f.lnk.toNat true → s.checkTargets c (t :: nextSlot c.pc :: js) = (u, none) →
     ∃ v, exec (.call f) s = .next (u.movedTo c v t) ∧
       c.Wrote v (resultOf f.lnk.toNat true fun _ => nextSlot c.pc) []) ∧
   (∀ p, s.IssuesTo f.guard c p → inMap p → (∀ i, i < 32 → c.eff.getLsbD i = true → c.w.pair f.lnk.toNat i = p) →
     c.deadRead [f.lnk.toNat, f.lnk.toNat + 1] = none → s.checkTargets c [j, p] = (u, none) →
     ∃ v, c.Wrote v [] (if f.lulnk then [f.lnk.toNat, f.lnk.toNat + 1] else []) ∧
       exec (.brx f) s = .next (u.movedTo c v p) ∧ exec (.ret f) s = .next (u.movedTo c v p))) ∧
  (∀ (s u : State) (c : Ctx) (f : FormB),
   let t := targetOf c.pc f.toff f.tslot; let j := targetOf c.pc f.joff f.jslot
   let w := c.w.branch c.e [(t, c.eff), (nextSlot c.pc, c.run &&& ~~~c.eff)] j u.cycle
   s.ctx? f.guard = some c → FormB.guarded f = true → c.l.packet.travel = false → s.checkTargets c [t, j] = (u, none) →
     (w.entry c.e).st = .run → u.warp? c.w.uid = some c.w → w.uid = c.w.uid →
     exec (.bra f) s = .next { u.putWarp w with issue := none }) ∧
  (∀ (w : Warp) (e n now : Nat) (p q j : PC) (a b : Mask),
   let x := w.entry e
   let stay : Entry := { x with pc := p, mask := a, j := some j, jout := x.j, wait := .none }
   let go : Entry := { st := .run, pc := q, mask := b, j := some j, jout := x.j, lastIssue := now, readySince := now }
   e < w.entries.length → w.entries.length = 8 → x.st = .run → readyGroups x.siding = [] → w.freeEntry = some n →
   w.liveCount < 4 → x.depth < 2 → a ≠ 0 → b ≠ 0 → p.toNat < q.toNat → j ≠ p → j ≠ q → (∀ k, k < 8 → w.canFuse k = false) →
     ∀ r, (r = [(p, a), (q, b)] ∨ r = [(q, b), (p, a)]) →
       w.branch e r j now = (w.setEntry e stay).setEntry n go)

/-- exit takes its effective lanes out of the warp: the next state is what comes about of a state in which they have left, every
other lane, register and predicate of the warp and all of memory being as before; their warp's clock counts for their launch's
triggers and end. step does the same and marks its workgroup and launch stepped. yield with nothing else ready goes on at the
next slot, the lanes that are guarded off too; where unarrived groups of other kinds stand in the siding the least of their keys
runs, and the yielding lanes stand aside as a YIELD group keyed by the next PC, apart even where another group then runs at that
PC (the model's choice, log 38); sleep blocks its split with its lanes at the next slot until `n` cycles have passed. (01 R23,
04 R97, 04 R98, 04 R99, 14 R341, the model's log 38, the model's log 41) -/
def Obligations.LanesLeaveAndPause : Prop :=
  (∀ (s : State) (c : Ctx) (f : FormV),
   s.ctx? f.guard = some c → c.eff ≠ 0 → c.l.packet.travel = false →
     (∃ (u : State) (v : Warp), exec (.exit_ f) s = .next u.stabilise ∧ u.warp? c.w.uid = some v ∧
       v.living = c.w.living &&& ~~~c.eff ∧ v.regs = c.w.regs ∧ v.preds = c.w.preds ∧ v.tickets = c.w.tickets ∧
       v.clock = c.w.clock ∧ u.mem = s.mem ∧ u.wgs = s.wgs ∧ (∀ k ∈ s.launches, k.id ≠ c.l.id → k ∈ u.launches) ∧
       ∃ l, u.launch? c.l.id = some l ∧ l = { c.l with
         endStamp := max c.l.endStamp c.w.clock, trigClock := max c.l.trigClock c.w.clock,
         endPast := l.endPast, trigPast := l.trigPast }) ∧
     (∃ (u : State) (v : Warp) (l : Launch) (g : Workgroup), exec (.step_ f) s = .next u.stabilise ∧ u.warp? c.w.uid = some v ∧
       v.living = c.w.living &&& ~~~c.eff ∧ v.regs = c.w.regs ∧ v.preds = c.w.preds ∧ u.mem = s.mem ∧
       u.launch? c.l.id = some l ∧ l.stepped = true ∧ u.wg? c.g.uid = some g ∧ g.stepped = true)) ∧
  (∀ (s : State) (c : Ctx) (f : FormV) (g : FormI),
   (s.Issues f.guard c → exec (.yield f) s = .next (if c.eff = 0 then s.after c c.w else State.stabilise (s.after c c.w))) ∧
   (∀ (x : Entry) (next k : PC) (eff : Mask),
     let others := x.siding.filter fun y => y.arrived || y.kind != .yielded
     eff ≠ 0 → minKey others = some k → x.j ≠ some k →
       let y := x.yieldTo next eff 0
       y.st = .run ∧ y.pc = k ∧ y.mask = lanesAt others k ∧
         ∃ z ∈ y.siding, z.key = next ∧ z.kind = .yielded ∧ z.arrived = false ∧ eff &&& z.lanes = eff) ∧
   (s.ctx? g.guard = some c → c.eff ≠ 0 → g.imm ≠ 0 →
     exec (.sleep g) s = .next (State.done (s.block c.w.uid c.e (nextSlot c.pc) (.sleep (s.cycle + g.imm.toNat))))) ∧
   (s.Issues g.guard c → (c.eff = 0 ∨ g.imm = 0) → exec (.sleep g) s = .next (s.after c c.w)))

/-- Taking a program-class cause at PC `f`: while the trap state is free and the trap entry is a legal target, the warp's trap
state holds the entry, the cause, the PC, the trap value and the lanes, and those lanes run from the trap entry; no register,
predicate or living lane changes. trap takes SOFTWARE (0x20) with its immediate, bkpt BREAKPOINT (0x21) with its code, in its
effective lanes and at its own PC; running lanes that are guarded off wait at the next slot. (06 R164, 06 R165, 04 R100, 06
R166) -/
def Obligations.Traps : Prop :=
  (∀ (s u : State) (w : Warp) (l : Launch) (e cause : Nat) (f : PC) (tval : DWord),
   s.warp? w.uid = some w → s.launch? w.launch = some l → trapClass cause = .program → l.packet.trapEntry ≠ 0 →
   (w.entry e).mask &&& w.trap.lanes = 0 → w.trap.busy = false → e < w.entries.length → (w.entry e).mask ≠ 0 →
   readyGroups (w.entry e).siding = [] → (w.entry e).j ≠ some l.packet.trapEntry →
   s.checkTarget w (s.asidOf w) e l.packet.trapEntry = (u, .ok) →
     (w.entry e).st = .run → (∀ k, k < 8 → w.canFuse k = false) →
     ∃ v : Warp, s.takeTrap w.uid e f cause tval = u.putWarp v ∧
       v.trap = { busy := true, entry := e, cause := cause, tpc := f, tval := tval, lanes := (w.entry e).mask } ∧
       v.entry e = { w.entry e with pc := l.packet.trapEntry, wait := .none } ∧
       v.regs = w.regs ∧ v.preds = w.preds ∧ v.living = w.living ∧ v.tickets = w.tickets ∧ v.clock = w.clock) ∧
  (∀ (s : State) (c : Ctx) (f : FormI) (g : FormV),
   let x := c.w.entry c.e; let off := [(nextSlot c.pc, c.run &&& ~~~c.eff)]
   let t := s.putWarp (c.w.setEntry c.e { x with mask := c.eff, siding := addReady x.siding (nextSlot c.pc) (c.run &&& ~~~c.eff) })
   c.eff ≠ 0 → s.leaving c.l c.w off = [] →
     (s.ctx? f.guard = some c → exec (.trap f) s = .next (t.trapHere c 0x20 (f.imm.setWidth 64))) ∧
     (s.ctx? g.guard = some c → exec (.bkpt g) s = .next (t.trapHere c 0x21 (g.ops.setWidth 64))))

/-- tret: its effective lanes leave the trap lane set and continue at the trapped PC, or at the slot after it, the others going
on; an empty set frees the trap state. A lane outside the set makes the split take SOFTWARE instead. (06 R165) -/
def Obligations.ReturnFromTrap : Prop := ∀ (s : State) (c : Ctx) (f : FormV),
  let dest := if f.opsAt 84 84 = 1 then nextSlot c.w.trap.tpc else c.w.trap.tpc
  (s.IssuesTo f.guard c dest → c.eff = c.run → c.eff &&& ~~~c.w.trap.lanes = 0 →
    ∃ v, exec (.tret f) s = .next (State.stabilise (s.movedTo c v dest)) ∧
      v = { c.w with trap := v.trap } ∧ v.trap.lanes = c.w.trap.lanes &&& ~~~c.eff ∧
      v.trap.busy = (c.w.trap.busy && c.w.trap.lanes &&& ~~~c.eff != 0)) ∧
  (s.ctx? f.guard = some c → c.l.packet.travel = false → c.eff &&& ~~~c.w.trap.lanes = 0 →
    ∃ v : Warp, exec (.tret f) s = .next (State.done (s.putWarp v)) ∧ v.trap.lanes = c.w.trap.lanes &&& ~~~c.eff ∧
      v.trap.busy = (c.w.trap.busy && c.w.trap.lanes &&& ~~~c.eff != 0) ∧
      { v with trap := c.w.trap, entries := c.w.entries } = c.w) ∧
  (s.ctx? f.guard = some c → c.eff &&& ~~~c.w.trap.lanes ≠ 0 → exec (.tret f) s = .next (s.trapHere c 0x20 0x100000000))

/-! ### Collectives, the matrix unit and barriers -/

/-- An arrival at a collective with a member mask that is not empty, where no instance is pending or one with the same mask: the
running lanes become an arrived group that carries the mask, the contributing lanes, their values and the instruction; the rest of
the next state is what that brings about. poll brings the predicate's bits, fold and peer their operand, a matrix instruction
nothing. A member mask of 0 completes at once and writes nothing but what the marks of a full effective mask make D, also beside a
pending instance with another mask (the model's choice, log 38); a mask other than the pending one's takes COLLECTIVE_EXITED (7)
with the lanes that the pending instance misses and reason 2. What a covered poll, fold and peer write in each contributing lane:
poll whether any, all, or all or none of the contributing lanes' bits are 1, or the set of those that are; fold the reduction of
the values by the integer operation it names; peer the set of the lanes with an equal value, or, in its other mode, the
contributing lanes where all their values are equal and else 0. A set and a reduction are U where every living lane contributes
and else G, peer's sets by value G. Every other lane of the warp keeps its predicates and registers, but for the source registers
that a last-use mark names, which are D where a split arrived with a full effective mask; p0 stays. (01 R26, 04 R102, 04 R103, 04
R104, 04 R105, 04 R106, 07 R177, the model's log 38) -/
def Obligations.Collectives : Prop :=
  (∀ (s : State) (c : Ctx) (f : FormV) (g : FormX),
   let arrives (m : Mask) (all : Bool) (vals : Nat → DWord) (i : Instr) : State :=
     State.done (s.putWarp (c.w.arrive c.e c.pc c.run
       (.collective { m := m, all := all, eff := c.eff, contrib := c.eff &&& m, vals := (List.range 32).map vals, i := i,
                      since := s.cycle }) []))
   let pending := c.w.collectivesAt c.pc; let pm := c.w.instanceMask pending
   let dead (rs : List Nat) : Prop := c.l.packet.deadCheck = true ∧ ∃ n ∈ rs, (c.w.reg n).isDead = true
   let rs := FormV.memberReg f ++ if c.eff = 0 then [] else (f.a false).regs ++ (f.a f.type.wide).regs
   (s.ctx? f.guard = some c → ¬ dead rs →
      let m := FormV.members f c; let all := f.opsAt 95 95 == 1
      let empty (i : Instr) : Prop := ∃ v : Warp, exec i s = .next (s.finish c v) ∧ { v with regs := c.w.regs } = c.w ∧
        ∀ n, v.reg n = if c.full = true ∧ n ∈ collectiveMarks i ∧ n ∉ collectiveWrites i then .d else c.w.reg n
      ((m = 0 → all = false → empty (.poll f) ∧ empty (.fold f) ∧ empty (.peer f)) ∧
       (m ≠ 0 → all = false → pending ≠ [] → pm ≠ m →
         let t := s.trapHere c 7 (collectiveTval (pm &&& ~~~(arrivedLanes pending ||| c.run)) 2)
         exec (.poll f) s = .next t ∧ exec (.fold f) s = .next t ∧ exec (.peer f) s = .next t))) ∧
     (s.ctx? f.guard = some c → ¬ dead rs → (FormV.members f c ≠ 0 ∨ f.opsAt 95 95 = 1) →
       let m := FormV.members f c; let all := f.opsAt 95 95 == 1
       (pending = [] ∨ all = true ∨ pm = m) →
       exec (.poll f) s = .next (arrives m all (fun i => if c.w.pred f.sa.toNat i != (f.opsAt 86 86 == 1) then 1 else 0) (.poll f)) ∧
       exec (.fold f) s = .next (arrives m all (fun i => (f.a false).val c i) (.fold f)) ∧
       exec (.peer f) s = .next (arrives m all (fun i => (f.a f.type.wide).val c i) (.peer f))) ∧
     (s.ctx? g.guard = some c → c.w.mloop = none → s.pendingAcquire c.w.uid c.run = false →
       c.matrixDead g (FormX.mmaReads g) = none → c.matrixDead g (FormX.mloopReads g) = none →
       c.matrixDead g (FormX.mldfReads g) = none → c.matrixDead g (FormX.mstfReads g) = none →
       let m := if g.allLanes then c.w.living else c.w.lane g.xe.toNat ((lowLane c.run).getD 0)
       (m ≠ 0 ∨ g.allLanes = true) → (pending = [] ∨ g.allLanes = true ∨ pm = m) →
         exec (.mma g) s = .next (arrives m g.allLanes (fun _ => 0) (.mma g)) ∧
         exec (.mloop g) s = .next (arrives m g.allLanes (fun _ => 0) (.mloop g)) ∧
         exec (.mldf g) s = .next (arrives m g.allLanes (fun _ => 0) (.mldf g)) ∧
         exec (.mstf g) s = .next (arrives m g.allLanes (fun _ => 0) (.mstf g)))) ∧
  (∀ (w : Warp) (gs : List (Nat × Group × Collective)) (e : Nat) (g : Group)
     (k : Collective) (r : List (Nat × Group × Collective)),
   let c := gs.foldl (fun a x => a ||| x.2.2.contrib) (0 : Mask)
   let v := contribOf gs
   let dead (n : Nat) : Prop := (∃ x ∈ gs, x.2.2.eff = w.living) ∧ n ∈ collectiveMarks k.i ∧ n ∉ collectiveWrites k.i
   let tagged (n t : Nat) : Prop := c ≠ 0 → n < w.regs.length → ((w.runCollective gs).reg n).code = t
   gs = (e, g, k) :: r → w.preds.length = 7 →
     (∀ f, k.i = .poll f → f.dst.toNat < 8 → f.dst.toNat ≠ 0 → ∀ i, i < 32 → c.getLsbD i = true →
       (f.opsAt 85 84 = 0 → ((w.runCollective gs).pred f.dst.toNat i = true ↔ ∃ j, j < 32 ∧ c.getLsbD j = true ∧ v j ≠ 0)) ∧
       (f.opsAt 85 84 = 1 → ((w.runCollective gs).pred f.dst.toNat i = true ↔ ∀ j, j < 32 → c.getLsbD j = true → v j ≠ 0)) ∧
       (f.opsAt 85 84 = 3 → ((w.runCollective gs).pred f.dst.toNat i = true ↔
         ∀ j k, j < 32 → k < 32 → c.getLsbD j = true → c.getLsbD k = true → (v j ≠ 0 ↔ v k ≠ 0)))) ∧
     (∀ f x, k.i = .fold f → f.dst.toNat < w.regs.length →
       foldInt (f.opsAt 86 84) f.type f.sat ((lanesOf c).map fun i => f.type.read (v i)) = some x → ∀ i, i < 32 → c.getLsbD i = true →
       (w.runCollective gs).lane f.dst.toNat i = lo32 x) ∧
     (∀ f, k.i = .poll f → f.opsAt 85 84 = 2 → f.dst.toNat < w.regs.length → ∀ i j, i < 32 → j < 32 → c.getLsbD i = true →
       ((w.runCollective gs).lane f.dst.toNat i).getLsbD j = (c.getLsbD j && v j != 0)) ∧
     (∀ f, k.i = .peer f → f.opsAt 84 84 = 0 → f.dst.toNat < w.regs.length → ∀ i j, i < 32 → j < 32 → c.getLsbD i = true →
       ((w.runCollective gs).lane f.dst.toNat i).getLsbD j = (c.getLsbD j && v j == v i)) ∧
     (∀ f, k.i = .peer f → f.opsAt 84 84 = 1 → f.dst.toNat < w.regs.length → ∀ i, i < 32 → c.getLsbD i = true →
       ((∀ j, j < 32 → c.getLsbD j = true → v j = v i) → (w.runCollective gs).lane f.dst.toNat i = c) ∧
       ((∃ j, j < 32 ∧ c.getLsbD j = true ∧ v j ≠ v i) → (w.runCollective gs).lane f.dst.toNat i = 0)) ∧
     (∀ f, k.i = .poll f → f.opsAt 85 84 = 2 → tagged f.dst.toNat (if c = w.living then 0 else 2)) ∧
     (∀ f, k.i = .fold f → foldInt (f.opsAt 86 84) f.type f.sat ((lanesOf c).map fun i => f.type.read (v i)) ≠ none →
       tagged f.dst.toNat (if c = w.living then 0 else 2)) ∧
     (∀ f, k.i = .peer f → tagged f.dst.toNat (if f.opsAt 84 84 = 1 ∧ c = w.living then 0 else 2)) ∧
     (∀ n i, i < 32 → w.living.getLsbD i = true → c.getLsbD i = false → ¬ dead n → (w.runCollective gs).lane n i = w.lane n i) ∧
     (∀ n, dead n → (w.runCollective gs).reg n = .d) ∧
     (∀ n i, n < 8 → i < 32 → (c.getLsbD i = false ∨ n = 0) → (w.runCollective gs).pred n i = w.pred n i))

/-- The slice starts the first covered instruction of its queue once nothing it must follow is in flight and its checks pass: an
mma writes D with the multiplication and an mldf its fragment with the words at its lines, memory being as before; an mstf
stores the live bits of its fragment's words at its lines' words and changes no other byte; an mloop reads its block and
increments and makes its first step. Each has its whole effect in the one event that starts it (log 23). The contributing lanes'
groups go on at the next slot, and they do so alone where no lane contributes. A running mloop takes its next step: both loads,
the multiplication with the scale addresses advanced, and the record moved on or, after the last step, gone, the registers that
its marks name being D then where its lanes are the living ones (the set compared at that step: the model's choice, log 41). (07
R177, 07 R180, 07 R183, 07 R188, 07 R192, 07 R193, the model's log 23, the model's log 41) -/
def Obligations.MatrixSteps : Prop :=
  (∀ (s : State) (die core sched : Nat) (w : Warp) (pc : PC) (o e : Nat) (g : Group)
     (k : Collective) (c : Ctx) (q : List (Warp × PC × Nat)) (r : List (Nat × Group × Collective)),
   let gs := w.collectivesAt pc
   let m := gs.foldl (fun a g => a ||| g.2.2.contrib) (0 : Mask)
   let lows := gs.filterMap fun g => lowLane g.2.1.lanes
   let low := (lowLane m).getD 0
   let starts (P : State → Warp → Prop) : Prop := ∃ (t : State) (v : Warp) (bad : List BadElem),
     exec (.evMatrixSliceStart die core sched) s = .next (State.stabilise (((onceEach bad).foldl (fun t b => t.matrixError w pc b) t).putWarp
       (v.release (fun g => gs.any fun h => h.2.1 == g) fun g => nextSlot g.key))) ∧
     v.preds = w.preds ∧ v.entries = w.entries ∧ v.living = w.living ∧ v.tickets = w.tickets ∧ P t v
   s.memWf → s.warp? w.uid = some w → s.sliceQueue die core sched = (w, pc, o) :: q → gs = (e, g, k) :: r →
   s.warpCtx? w e pc m = some c →
   (m = 0 → exec (.evMatrixSliceStart die core sched) s = .next (State.stabilise (s.putWarp
     (w.release (fun g => gs.any fun h => h.2.1 == g) fun g => nextSlot g.key)))) ∧
   (m ≠ 0 → s.matrixStalls c k.i m = false →
     (∀ f : FormX, k.i = .mma f →
       let F := w.format f.xd.toNat low
       let kv := countOrK f.shape (descKv F.da)
       w.badControl f true low lows = none → F.check f.shape f.codeA f.codeB = none → F.scaleFault c.g.sharedBytes f.shape kv m = none →
         starts fun t v => t.mem = s.mem ∧ t.warps = s.warps ∧ v.mloop = w.mloop ∧
           v.regs = ((s.multiply w F (FormX.mmaOperands f) f.dst.toNat (descKv F.da) m []).2.1.killMatrix f m
             [(0, f.xa.toNat, fragRegs f.shape f.codeA), (1, f.xb.toNat, fragRegs f.shape f.codeB), (2, f.xc.toNat, 32),
              (3, f.xd.toNat, 4), (4, f.xe.toNat, 1)] (regRange f.dst.toNat 32)).regs) ∧
     (∀ (f : FormX) (plan : List LineWord), k.i = .mldf f →
       let klim := countOrK f.shape f.cnt.toNat
       w.badControl f false 0 lows = none → s.linePlan c f.shape f.kind f.codeA klim f.mspace m (w.lane f.xa.toNat) = .ok plan →
         starts fun t v => t.mem = s.mem ∧ t.warps = s.warps ∧ v.mloop = w.mloop ∧
           v.regs = ((s.loadLine w (FormX.lineFrag f f.dst.toNat) klim m plan).2.1.killMatrix f m [(0, f.xa.toNat, 1), (4, f.xe.toNat, 1)]
             (regRange f.dst.toNat (lineRegs f.shape f.kind f.codeA))).regs) ∧
     (∀ (f : FormX) (plan : List LineWord), k.i = .mstf f → s.noReaders →
       w.badControl f false 0 lows = none →
       s.linePlan c f.shape f.kind f.codeA (countOrK f.shape f.cnt.toNat) f.mspace m (w.lane f.xa.toNat) = .ok plan →
         starts fun t v => t.warps = s.warps ∧ keptOutside s t (plan.map fun x => (x.1, (List.range 4).map (x.2.2.2 + ·))) ∧
           v.mloop = w.mloop ∧
           v.regs = (w.killMatrix f m [(0, f.xa.toNat, 1), (1, f.xb.toNat, lineRegs f.shape f.kind f.codeA), (4, f.xe.toNat, 1)] []).regs ∧
           ∀ before after i r live a, plan = before ++ (i, r, live, a) :: after →
             (∀ y ∈ after, y.2.2.2 + 4 ≤ a ∨ a + 4 ≤ y.2.2.2) →
             (live = BitVec.allOnes 32 ∨ ∀ y ∈ before, y.2.2.2 + 4 ≤ a ∨ a + 4 ≤ y.2.2.2) →
               t.readNat a 4 = ((BitVec.ofNat 32 (s.readNat a 4) &&& ~~~live) |||
                 (w.elem (FormX.lineFrag f f.xb.toNat) r i &&& live)).toNat) ∧
     (∀ (f : FormX) (pa pb : List LineWord), k.i = .mloop f → 0 < f.cnt.toNat →
       let l : MloopState := { pc := pc, i := .mloop f, lanes := m, block := w.format f.xd.toNat low,
                               ainc := w.lane (f.xc.toNat + 2) low, binc := w.lane (f.xc.toNat + 3) low, next := 0, total := f.cnt.toNat }
       s.mloopCheck c f l.block l lows = none → s.stepPlans c f l.block l 0 = .ok (pa, pb) →
         starts fun t v => t.mem = s.mem ∧ t.warps = s.warps ∧
           v.mloop = (if f.cnt.toNat = 1 then none else some { l with next := 1 }) ∧ v.regs = (s.loopStep c f l pa pb).regs))) ∧
  (∀ (s : State) (w : Warp) (l : MloopState) (f : FormX) (c : Ctx) (pa pb : List LineWord),
   s.warp? w.uid = some w → w.mloop = some l → l.i = .mloop f → s.warpCtx? w 0 l.pc l.lanes = some c → c.l.halted = false →
   s.stepPlans c f l.block l l.next = .ok (pa, pb) →
     ∃ (t : State) (v : Warp), exec (.evMloopStep w.uid) s = .next (t.putWarp v) ∧ t.mem = s.mem ∧ t.warps = s.warps ∧
       v.preds = w.preds ∧ v.entries = w.entries ∧
       v.mloop = (if l.next + 1 = l.total then none else some { l with next := l.next + 1, resumed := false }) ∧
       v.regs = (s.loopStep c f l pa pb).regs)

/-- mfmt writes the four registers of a format block: a descriptor and a scale address for A, then for B. (07 R179, 07 R181) -/
def Obligations.FormatBlock : Prop := ∀ (s : State) (c : Ctx) (f : FormX),
  let d := f.dst.toNat; let r (b : BitVec 8) : Nat := b.toNat; let v (n i : Nat) : Nat := (c.w.lane n i).toNat
  let fa := f.opsAt 78 77; let fb := f.opsAt 76 75
  s.Issues f.guard c → d + 4 ≤ c.w.regs.length → c.deadRead [r f.xa, r f.xb, r f.xc, r f.xd] = none →
    s.Completes c (.mfmt f) fun w => c.Wrote w
      [(d, fun i => BitVec.ofNat 32
          (mfmtDesc fa (f.opsAt 81 79) (f.opsAt 86 85) (f.opsAt 89 89) (v (r f.xc) i) f.cnt.toNat)),
       (d + 1, fun i => if fa = 3 then c.w.lane (r f.xa) i else 0),
       (d + 2, fun i => BitVec.ofNat 32 (mfmtDesc fb (f.opsAt 84 82) (f.opsAt 88 87) (f.opsAt 90 90) (v (r f.xd) i) 0)),
       (d + 3, fun i => if fb = 3 then c.w.lane (r f.xb) i else 0)]
      (FormX.marked f [(0, r f.xa, 1), (1, r f.xb, 1), (2, r f.xc, 1), (3, r f.xd, 1)])
      (fun n => if n = d then (if fa = 3 then c.tagU [.src { n := r f.xc }] else 0)
        else if n = d + 1 then c.tagU [.src { n := r f.xa }]
        else if n = d + 2 then (if fb = 3 then c.tagU [.src { n := r f.xd }] else 0) else c.tagU [.src { n := r f.xb }])

/-- Within one group the result depends only on the multiset of products, never on their order; the group of Table 3-10 keeps the
product that the cut keeps; a plane group of codes 4 and 4 at 4 planes, exponents 127 and 128, contributes 2.0. (03 R90, 03 R91,
03 R92) -/
def Obligations.MatrixGroups : Prop :=
  (∀ (acc : Ty) (w : Nat) (c : FVal) (ps qs : List FVal), ps.Perm qs → groupAdd acc w c ps = groupAdd acc w c qs) ∧
  groupAdd .f32 40 (.num false 0 0) ([.num false 1 0, .num false 1 (-30), .num true 1 0, .num false 1 (-40)] ++
    List.replicate 28 (.num false 0 0)) = decodeF .f32 0x30800000 ∧
  planeAdd (.num false 0 0) 127 128 16 4 4 = decodeF .f32 0x40000000

/-- The barrier instructions: once no access of theirs is unanswered, the effective lanes stand at their instance as an arrived
group of its scope, the others go on, and what that completes comes about. pbar in a launch that is not resident does not wait:
its predicate receives 0. Releasing a barrier: every warp of its scope that waits there keeps its registers, tickets and living
lanes, and its clock becomes the largest of its own and those at which the arrivals counted; a predicate that a released group
names takes the barrier's value in the group's lanes, and every other bit of every predicate stays; a split whose one group is
released runs on at the slot after the barrier. Memory and every other warp are as before. A complete package barrier releases
at its event: its mark is taken off the launch and every warp of the launch that waits there is released, BROKEN once a
workgroup of the launch was killed. (06 R157, 06 R160, 11 R270, 13 R302, 14 R339) -/
def Obligations.Barriers : Prop :=
  (∀ (s : State) (c : Ctx) (f : FormV),
   let n := f.opsAt 86 84; let p := f.dst.toNat
   let stands (k : GroupKind) : State :=
     State.done (s.putWarp (c.w.arrive c.e c.pc c.eff k [(nextSlot c.pc, c.run &&& ~~~c.eff)]))
   s.pendingFor c.w.uid c.eff = false →
     (s.ctx? f.guard = some c → c.eff ≠ 0 →
       exec (.bar f) s = .next (stands (.bar n)) ∧ exec (.barc f) s = .next (stands (.barc n p)) ∧
       exec (.bard f) s = .next (stands (.bard n p)) ∧
       (c.l.packet.resident = true → exec (.pbar f) s = .next (stands (.pbar n p)))) ∧
     (s.Issues f.guard c → c.l.packet.resident = false → p < 8 → c.w.preds.length = 7 →
       s.Completes c (.pbar f) fun v => c.WrotePred v p (fun _ => false) [])) ∧
  (∀ (s : State) (scope : Warp → Bool) (is : GroupKind → Bool) (value : Bool) (w : Warp),
   let t := s.releaseBarrier scope is value
   let k := arrivalClock (s.warps.filter scope) is
   let names (p i : Nat) : Prop := ∃ g ∈ w.arrived, is g.2.kind = true ∧ g.2.kind.pd = some p ∧ g.2.lanes.getLsbD i = true
   t.mem = s.mem ∧ t.launches = s.launches ∧ t.wgs = s.wgs ∧ t.warps.length = s.warps.length ∧
   (w ∈ s.warps → (scope w && w.waitsAt is) = true → w.preds.length = 7 →
     ∃ v ∈ t.warps, v = { w with preds := v.preds, entries := v.entries, clock := max w.clock k, sights := v.sights } ∧
       (∀ p i, 0 < p → p < 8 → i < 32 → names p i → v.pred p i = value) ∧
       (∀ p i, p < 8 → i < 32 → ¬ names p i → v.pred p i = w.pred p i) ∧
       (∀ e g, e < w.entries.length → (∀ n, n < 8 → (w.entry n).j = none) → w.entries.length = 8 → (w.entry e).st = .cwait →
         (w.entry e).mask = 0 → (w.entry e).siding = [g] → g.arrived = true → is g.kind = true → g.lanes ≠ 0 →
           v.entry e = { w.entry e with st := .run, pc := nextSlot g.key, mask := g.lanes, siding := [], wait := .none })) ∧
   (w ∈ s.warps → (scope w && w.waitsAt is) = false → w ∈ t.warps)) ∧
  (∀ (s : State) (id n : Nat) (l : Launch),
   s.launch? id = some l → l.halted = false → l.saved = [] → n ∈ l.pbarReady →
     exec (.evPbarRelease id n) s = .next (State.stabilise
       ((s.modLaunch id fun l => { l with pbarReady := l.pbarReady.filter (· != n) }).releaseBarrier (·.launch == id) (isPbarN n)
         (!l.pbarBroken))))

/-! ### Classes 0x8 and 0x9: memory -/

/-- A load from shared or spill memory completes at issue: each effective lane's registers hold the value that it reads,
extended to the register, and memory is as before. From spill a lane reads the bytes at its keys; from shared memory what they
hold, or held before the newest of the writes that it may miss, as many as a free value says (log 3). Its registers are U where
the address counts as U in shared memory, else G. (08 R198, 08 R202, 08 R204, 08 R206, 08 R212, 08 R217, the model's log 3) -/
def Obligations.Loads : Prop := ∀ (s : State) (c : Ctx) (f : FormM) (ks : List (Nat × List Nat)),
  let n := f.bytes; let d := f.dat.toNat
  s.Issues f.guard c → c.eff ≠ 0 → s.memPlan c (FormM.ldAsk f) = .near ks → s.poisonedLane ks = none →
  d + max 1 (n / 4) ≤ c.w.regs.length →
    ∃ val : Nat → Nat, (s.CompletesIn c (.ld f) fun u v =>
      u = { s with free := u.free, written := u.written } ∧
      c.WroteClock v
        ((List.range (max 1 (n / 4))).map fun k => (d + k, fun i => BitVec.ofNat 32 (loadWord n f.sx (val i) k))) (f.marked [] [])
        (fun _ => if f.spc ≠ .sp ∧ (∀ r ∈ f.adrRegs, (c.w.reg r).countsU = true) then 0 else 2)) ∧
      ∀ k ∈ ks, (f.spc = .sp → val k.1 = s.readKeys k.2) ∧
        (f.spc ≠ .sp → ∃ j, let ws := s.mayMiss (c.w.party k.1 f.scp, (c.w.sight k.1).past) s.fresh (k.2.headD 0) n
          j ≤ ws.length ∧ val k.1 = leNat (undo (k.2.headD 0) (s.read (k.2.headD 0) n) (ws.take j)))

/-- A store to shared or spill memory is performed at its bank when it issues (log 3): the bytes of each effective lane's datum
stand at its keys, a higher lane's over a lower one's, every other byte of memory is as before, and no register or predicate
changes but by the marks. One to shared memory then stays in flight, performed, until its acknowledgement comes. (08 R198, 08
R200, 08 R204, 08 R206, 08 R217, the model's log 3) -/
def Obligations.Stores : Prop := ∀ (s : State) (c : Ctx) (f : FormM) (ks : List (Nat × List Nat)),
  let n := f.bytes; let d := f.dat.toNat
  s.Issues f.guard c → c.eff ≠ 0 → s.memWf → s.noReaders → s.memPlan c (FormM.stAsk f) = .near ks →
    ∃ (u : State) (v : Warp), exec (.st f) s = .next ((if f.spc = .sp then u else u.releaseWindows).after c v) ∧
      c.Wrote v [] (f.marked (dataRegs d n) []) ∧
      keptOutside s u ks ∧ storedAt u ks (fun i => leBytes n (c.w.dataOf d n i)) ∧
      u.warps = s.warps ∧ u.launches = s.launches ∧ u.copies = s.copies ∧ (f.spc = .sp → u.accesses = s.accesses) ∧
      (f.spc ≠ .sp → ∃ a : Access, u.accesses = s.accesses ++ [a] ∧ a.op = .store ∧ a.warp = c.w.uid ∧
        a.lanes.map (fun y => (y.lane, y.pa, y.done)) = ks.map fun k => (k.1, k.2.headD 0, true))

/-- An atomic of one effective lane on shared or spill memory, performed at its bank when it issues (log 3): the new value of
Table 2-8 stands at its keys, every other byte is as before; atom and atomf return the old value in G registers, red writes no
register and, in shared memory, stays in flight until its acknowledgement comes. (08 R222, 08 R223, 08 R224, 08 R225, the
model's log 3) -/
def Obligations.Atomics : Prop := ∀ (s : State) (c : Ctx) (f : FormM) (i : Nat) (kl : List Nat),
  let n := f.bytes; let d := f.dat.toNat; let x := f.aux.toNat; let aux := FormM.cmpRegs f
  let old := s.readKeys kl; let dat := c.w.dataOf d n i
  let done (ins : Instr) (new : Nat) (dsts : List (Nat × (Nat → Word))) (marks : List Nat) : Prop :=
    ∃ (u : State) (v : Warp), exec ins s = .next ((if dsts ≠ [] ∨ f.spc = .sp then u else u.releaseWindows).after c v) ∧
      c.WroteClock v dsts marks (fun _ => 2) ∧ keptOutside s u [(i, kl)] ∧
      storedAt u [(i, kl)] (fun _ => leBytes n new) ∧ u.warps = s.warps ∧ u.launches = s.launches ∧
      (dsts ≠ [] ∨ f.spc = .sp → u.accesses = s.accesses) ∧
      (dsts = [] → f.spc ≠ .sp → ∃ a : Access, u.accesses = s.accesses ++ [a] ∧
        a.op = .red f.atop.toNat ∧ a.warp = c.w.uid ∧ a.lanes.map (fun y => (y.lane, y.pa, y.done)) = [(i, kl.headD 0, true)])
  let loaded := (List.range (max 1 (n / 4))).map fun k => (d + k, fun (_ : Nat) => BitVec.ofNat 32 (loadWord n false old k))
  s.Issues f.guard c → c.eff ≠ 0 → s.memWf → s.noReaders → d + max 1 (n / 4) ≤ c.w.regs.length →
    (s.memPlan c (FormM.atomAsk f aux) = .near [(i, kl)] → s.poisonedLane [(i, kl)] = none → done (.atom f)
      (atomNew f.atop.toNat n f.sx old dat (if f.atop = 8 then c.w.dataOf x n i else 0)) loaded (f.marked (dataRegs d n) aux)) ∧
    (s.memPlan c (FormM.atomAsk f []) = .near [(i, kl)] → s.poisonedLane [(i, kl)] = none → done (.atomf f)
      (atomfNew f.atop.toNat (FormM.ftype f) old dat) loaded (f.marked (dataRegs d n) [])) ∧
    (s.memPlan c (FormM.atomAsk f []) = .near [(i, kl)] → done (.red f)
      (atomNew f.atop.toNat n f.sx old dat 0) [] (f.marked (dataRegs d n) []))

/-- An access to global memory or to a die store whose lanes all pass their checks goes in flight with its lanes' addresses and
data: the instruction completes, no register has its result yet, and memory is as before, but for the A and D bits of the leaves
it used, until its slices or banks perform it (in flight between its steps: log 3). (08 R198, 08 R207, 08 R217, 08 R223, 08
R225, 16 R373, the model's log 3) -/
def Obligations.GlobalAccesses : Prop := ∀ (s t : State) (c : Ctx) (f : FormM) (lanes : List FarLane),
  let n := f.bytes; let d := f.dat.toNat; let x := f.aux.toNat; let dat := dataRegs d n
  let aux := FormM.cmpRegs f
  let flies (ins : Instr) (q : MemAsk) (op : AccOp) (data : Bool) (marks : List Nat) : Prop :=
    s.memPlan c q = .far t c lanes →
    ∃ (u : State) (v : Warp) (a : Access), exec ins s = .next (u.releaseWindows.after c v) ∧ c.WroteClock v [] marks ∧
      u.accesses = t.accesses ++ [a] ∧ a.op = op ∧ a.warp = c.w.uid ∧ a.n = n ∧ a.eff = c.eff ∧
      a.dst = d ∧ (∀ y ∈ a.lanes, y.thread = c.w.thread y.lane ∧ (f.order ≠ .ar → y.past = (c.w.sight y.lane).past)) ∧
      a.lanes.map (fun y => (y.lane, y.va, y.pa, y.data, y.done)) =
        lanes.map (fun y => (y.1, y.2.1, y.2.2.1, if data then c.w.dataOf d n y.1 else 0, false)) ∧
      u.mem = (t.touchLanes c q lanes).mem ∧ u.warps = s.warps ∧ u.launches = s.launches
  let but (rs : List Nat) (marks : List Nat) : List Nat := marks.filter fun r => !rs.contains r
  s.Issues f.guard c → c.eff ≠ 0 →
    flies (.ld f) (FormM.ldAsk f) .load false (but dat (f.marked [] [])) ∧
    flies (.st f) (FormM.stAsk f) .store true (f.marked dat []) ∧
    flies (.atom f) (FormM.atomAsk f aux) (.atom f.atop.toNat) true (but dat (f.marked dat aux)) ∧
    flies (.atomf f) (FormM.atomAsk f []) (.atomf f.atop.toNat (FormM.ftype f)) true (but dat (f.marked dat [])) ∧
    flies (.red f) (FormM.atomAsk f []) (.red f.atop.toNat) true (f.marked dat []) ∧
    flies (.stStamp f) { FormM.stAsk f with spc := .gl } .storeStamp true (but [x, x + 1] (f.marked dat []))

/-- fence: while an access that it waits for is unanswered (a release waits for all of its lanes' accesses, an acquire for what
they return) it waits; then it completes, and no byte of memory changes. An acquire takes up, for each of its lanes, what lies
before the release sides that the lane has heard and that reach it; a release keeps what lies before it for its lanes' later
stores; one that is both takes its lanes' places in the total order, after those that reach them. The places in happens-before
of lanes that are not effective stay (how the model carries happens-before is log 3). (08 R213, 08 R214, 08 R226, the model's
log 3) -/
def Obligations.Fences : Prop := ∀ (s : State) (c : Ctx) (f : FormM),
  let before (v : Warp) (i : Nat) (y : Sync) : Prop := y.stamp ≤ v.clock ∧ ∀ a n, inPast y.past a n = true → inPast (v.sight i).past a n = true
  c.eff ≠ 0 →
    (s.ctx? f.guard = some c → s.fenceWaits c f = true → exec (.fence f) s = .next s.wait) ∧
    (s.Issues f.guard c → s.fenceWaits c f = false →
      ∃ (u : State) (v : Warp), exec (.fence f) s = .next (u.after c v) ∧
        v = { c.w with clock := v.clock, sights := v.sights } ∧ c.w.clock ≤ v.clock ∧
        u = { s with opClock := u.opClock, ordered := u.ordered, fresh := u.fresh } ∧
        (∀ i, i < 32 → c.eff.getLsbD i = false → v.sight i = c.w.sight i) ∧
        (∀ i, i < 32 → c.eff.getLsbD i = true →
          (f.order ≠ .rel → ∀ y ∈ (c.w.sight i).heard, y.reaches (c.w.party i f.scp) = true → before v i y) ∧
          (f.order = .rel → (v.sight i).past = (c.w.sight i).past ∧
            (v.sight i).fenced = (f.scp, c.w.pastAt i s.fresh) :: (c.w.sight i).fenced.filter fun p => p.1 != f.scp) ∧
          (f.order = .ar → (∃ p, (f.scp, p) ∈ (v.sight i).fenced) ∧ (∃ z ∈ u.ordered, z.who = c.w.party i f.scp) ∧
            (i = c.low → ∀ y ∈ s.ordered, y.reaches (c.w.party i f.scp) = true → before v i y))) ∧
        (f.order ≠ .ar → u = s) ∧ (f.order = .rel → v.clock = c.w.clock))

/-- waitval blocks its split in a wait for its lanes' words; once every lane is satisfied the wait ends: each lane receives the
last word it read, and the split goes on. A lane that is not satisfied reads its word again, through a window by an access of
its own, and after the limit a read ends the wait. A sleep ends at its cycle. (08 R227, 08 R228, 04 R99) -/
def Obligations.ValueWaits : Prop := ∀ (s t : State) (c : Ctx) (f : FormM) (lanes : List FarLane) (w : Warp) (v : ValueWait)
    (e i : Nat) (x : ValueLane),
  let touched := t.touchLanes c (FormM.valAsk f) lanes
  (s.ctx? f.guard = some c → c.eff ≠ 0 → c.e < c.w.entries.length →
    ((∃ ks, s.memPlan c (FormM.valAsk f) = .near ks ∧ t = s ∧
        lanes = ks.map fun k => (k.1, effAddr c false f.adr.toNat f.offs k.1, k.2.headD 0, 0)) ∨
      s.memPlan c (FormM.valAsk f) = .far t c lanes) →
    t.firstBadWord c lanes = none → touched.firstBadWord c lanes = none → (∀ l ∈ lanes, inWindow l.2.2.1 = false) →
    ∃ (u : State) (z : Warp) (q : ValueWait), exec (.waitval f) s = .next (State.stabilise u) ∧ u.mem = touched.mem ∧
      u.warp? c.w.uid = some z ∧ (z.entry c.e).st = .block ∧ (z.entry c.e).wait = .value q ∧ q.eff = c.eff ∧
      q.dat = f.dat.toNat ∧ z.regs = c.w.regs) ∧
  (s.valueWait? w.uid e = some (w, v) → v.lanes.all (·.satisfied) = true → v.dat < w.regs.length →
    ∃ (u : State) (z : Warp), exec (.evWaitvalWake w.uid e) s = .next (State.stabilise u) ∧ u.mem = s.mem ∧
      u.warp? w.uid = some z ∧ ∀ j, j < 32 → v.eff.getLsbD j = true →
        z.lane v.dat j = ((v.lanes.find? fun x => x.lane == j).map (·.last)).getD 0) ∧
  (s.valueWait? w.uid e = some (w, v) → v.lanes.find? (fun x => x.lane == i && !x.satisfied) = some x →
    (inWindow x.addr = false →
      exec (.evWaitvalReread w.uid e i) s = .next (State.stabilise (s.rereadEntry w.uid e fun y => y.lane == i))) ∧
    (inWindow x.addr = true → s.wordPending w.uid e = false →
      exec (.evWaitvalReread w.uid e i) s = .next (s.sendWords w e v [x]))) ∧
  (∀ limit, s.valueWait? w.uid e = some (w, v) → v.limit = some limit → limit ≤ s.cycle → s.wordPending w.uid e = false →
    (v.lanes.all fun y => y.satisfied || !s.unperformed w.uid y.addr 4) = true →
    (v.closing = false → v.far ≠ [] → exec (.evWaitvalLimit w.uid e) s = .next
      ((s.putWarp (w.setEntry e { w.entry e with wait := .value { v with closing := true } })).sendWords w e v v.far)) ∧
    (∀ z y, v.closing = true ∨ v.far = [] → (s.rereadEntry w.uid e fun _ => true).valueWait? w.uid e = some (z, y) →
      exec (.evWaitvalLimit w.uid e) s = .next ((s.rereadEntry w.uid e fun _ => true).endValueWait z e y))) ∧
  (∀ n, s.warp? w.uid = some w → (w.entry e).st = .block → (w.entry e).wait = .sleep n → n ≤ s.cycle →
    exec (.evSleepExpiry w.uid e) s = .next (State.stabilise
      ((s.putWarp (w.setEntry e { w.entry e with st := .run, wait := .none })).advance w.uid e
        [((w.entry e).pc, (w.entry e).mask)])))

/-- A slice or bank performs one lane of a store, atomic or reduction, while no split waits for words: the new value stands in its
bytes, every other byte of memory is as before, and the lane is done with the old value. Where an atomic's lane finds a poisoned
sector or one of an unreachable home, before any of its lanes is performed, none of them stores; what only writes is dropped at an
unreachable home. A store, atomic or reduction whose lanes are all performed is answered: it leaves flight, atomics and st.stamp
write their registers, the warp's clock counts the stamps. A load of one lane reads at its reply: what its bytes hold, or held
before the newest of the writes that it may miss, as many as a free value says (log 3). A load may miss no write of global memory
at .dev or .sys; and none of its own thread, none that its thread has read, none that lies before it in happens-before, and none
that agrees with it and was acknowledged before it issued. (08 R200, 08 R212, 08 R217, 08 R222, 16 R352, 16 R354, the model's log
3) -/
def Obligations.AccessesPerformed : Prop :=
  (∀ (s : State) (a : Access) (x : LaneAcc),
   let then_ (u : State) : Prop := exec (.evGlWritePerformed a.id x.lane) s = .next (State.stabilise u.releaseWindows)
   s.access? a.id = some a → a.lanes.find? (fun y => y.lane == x.lane) = some x → a.op.reads = false →
   x.done = false → inWindow x.pa = false → s.heldBack a x = false → (∀ y ∈ a.lanes, y.bad = none) →
     (∀ v, s.memWf → s.noReaders → s.gone x.pa = false → (a.op.fetches = true → s.spoils a.n a.lanes = none) →
       a.op.result a.n a.sx (s.readNat x.pa a.n) x.data x.cmp = some v →
       ∃ (u : State) (b : Access) (y : LaneAcc), then_ u ∧
         (∀ k, (k < x.pa ∨ x.pa + a.n ≤ k) → Memory.get u.mem k = Memory.get s.mem k) ∧
         (∀ j, j < a.n → Memory.get u.mem (x.pa + j) = (leBytes a.n v).getD j 0) ∧
         u.access? a.id = some b ∧ b.lanes.find? (fun y => y.lane == x.lane) = some y ∧ y.done = true ∧
         y.old = s.readNat x.pa a.n) ∧
     (∀ p, a.op.fetches = true → a.lanes.any (·.done) = false → s.spoils a.n a.lanes = some p →
       then_ (s.putAccess (a.setLane { x with done := true, bad := some p }))) ∧
     (s.gone x.pa = true → a.op.fetches = false → then_ (s.putAccess (a.setLane { x with done := true })))) ∧
  (∀ (s : State) (a : Access) (w : Warp) (x : LaneAcc),
   let ws := s.mayMiss (a.reader x) a.id x.pa a.n
   let then_ (u : State) : Prop := exec (.evAccessReply a.id) s = .next (State.stabilise u.releaseWindows)
   s.access? a.id = some a → s.warp? a.warp = some w →
     (a.op.reads = false → (∀ op, a.op ≠ .copyWrite op ∧ a.op ≠ .frontWrite op) → a.op ≠ .pageMove →
       (∀ y ∈ a.lanes, y.done = true ∧ y.bad = none) →
       ∃ (u : State) (v : Warp), then_ u ∧
         u.access? a.id = none ∧ (a.acquires = false → u.accesses = s.accesses.filter (fun b => b.id != a.id)) ∧ u.mem = s.mem ∧
         u.warp? a.warp = some v ∧ v.regs = (w.takeReply a s.free).regs ∧
         (a.acquires = false → v.clock = a.lanes.foldl (fun m y => max m y.stamp) w.clock)) ∧
     (a.op = .load → a.lanes = [x] → inWindow x.pa = false → s.heldBack a x = false →
       pteC x.pte = false → s.gone x.pa = false → s.poisonAt x.pa a.n = none → a.dst < w.regs.length →
       a.eff.getLsbD x.lane = true → w.living.getLsbD x.lane = true → x.lane < 32 → x.bad = none → a.full = false → a.n ≤ 4 →
       ∃ (u : State) (v : Warp), then_ u ∧ u.mem = s.mem ∧
         u.access? a.id = none ∧ u.warp? a.warp = some v ∧
         ∃ k, k ≤ ws.length ∧
           v.lane a.dst x.lane = BitVec.ofNat 32 (loadWord a.n a.sx (leNat (undo x.pa (s.read x.pa a.n) (ws.take k))) 0))) ∧
  (∀ (s : State) (p : Reader) (issued lo n : Nat), ∀ y ∈ s.mayMiss p issued lo n,
   (p.1.scope.wide = false ∨ isKey lo = true) ∧ y ∈ s.writtenTo lo ∧ p.1.thread ∉ y.seen ∧
     ∀ q, y.who = some q → q.thread ≠ p.1.thread ∧ inPast p.2 q.thread y.number = false ∧
       (q.agrees p.1 = true → ∀ k, y.acked = some k → issued < k))

/-! ### Special registers and history -/

/-- sread writes the special register's value in each effective lane, an indexed one the value at the lane's index; sr.ssp reads
as the warp's spill segment pointer, and sr.sampctl as its core's control was last written. sr.lane is tagged A, sr.tid A but in
a formed warp G, the thread's other coordinates U but in a formed warp G, an indexed read as its index counts, every other
register U. swrite takes the lowest effective lane's value: sr.ssp holds its bits [31:8]; sr.sampctl takes its bits [4:0] in a
privileged region, for the sampling of the next cycle, or keeps its value where they select no interval, and in any other region
the write traps PROTECTION (0x11). stamp reads the warp's clock once none of its accesses is unanswered; hnow reads the stable
frontier its core holds. (06 R161, 06 R162, 16 R372, 01 R33) -/
def Obligations.SpecialRegisters : Prop :=
  (∀ (s : State) (c : Ctx) (f : FormI),
   let n := f.imm.toNat % 4096; let k := f.sa.toNat; let wide := f.type == .n64; let marks := if f.lu then [k] else []
   let t : Nat := if n = 0 then 1 else if n = 2 then (if c.w.formed = true then 2 else 1)
     else if n = 1 ∨ n = 3 ∨ n = 4 ∨ n = 5 then (if c.w.formed = true then 2 else 0) else 0
   (f.ops.toNat % 2 ≠ 1 →
     Gives s c f.guard (.sread f) f.dst.toNat wide [] marks
       (fun r => if r = f.dst.toNat then t else if t = 0 then 0 else 2) fun i => BitVec.ofNat 64 (s.special c n i)) ∧
   (f.ops.toNat % 2 = 1 → Gives s c f.guard (.sread f) f.dst.toNat wide [.src { n := k }] marks
     (fun _ => c.tagU [.src { n := k }]) fun i => BitVec.ofNat 64 (s.specialAt c n (c.w.lane k i).toNat)) ∧
   (∀ i, s.special c 0x020 i = c.w.ssp.toNat ∧ s.special c 0x030 i = (s.core c.w.die c.w.core).control.toNat)) ∧
  (∀ (s : State) (c : Ctx) (f : FormI),
   let n := f.imm.toNat % 4096; let a := f.sa.toNat; let v := c.w.lane a c.low
   let marks := if f.lu then [a] else []
   c.deadRead [a] = none → c.eff ≠ 0 →
     (n = 0x020 → s.Issues f.guard c → ∃ w : Warp, exec (.swrite f) s = .next (s.after c w) ∧ w.ssp = v &&& 0xFFFFFF00 ∧
       c.Wrote { w with ssp := c.w.ssp } [] marks) ∧
     (n = 0x030 → s.Issues f.guard c → ((s.region? c.l.node).map (·.priv)) = some true → v.toNat / 2 % 16 ≤ 10 →
       ∃ w : Warp, exec (.swrite f) s =
           .next ((s.modCore c.w.die c.w.core fun x => { x with sampNext := some (v &&& 0x1F) }).after c w) ∧ c.Wrote w [] marks) ∧
     (n = 0x030 → s.Issues f.guard c → ((s.region? c.l.node).map (·.priv)) = some true → 10 < v.toNat / 2 % 16 →
       ∃ w : Warp, exec (.swrite f) s = .next (s.after c w) ∧ c.Wrote w [] marks) ∧
     (n = 0x030 → s.ctx? f.guard = some c → ((s.region? c.l.node).map (·.priv)) ≠ some true →
       exec (.swrite f) s = .next (s.trapHere c 0x11 (BitVec.ofNat 64 n)))) ∧
  (∀ (s : State) (c : Ctx) (f : FormV),
   (s.pendingFor c.w.uid c.eff = false →
     Gives s c f.guard (.stamp f) f.dst.toNat true [] [] (fun _ => 0) fun _ => BitVec.ofNat 64 c.w.clock) ∧
   Gives s c f.guard (.hnow f) f.dst.toNat true [] [] (fun _ => 0) fun _ => BitVec.ofNat 64 (s.core c.w.die c.w.core).frontier)

/-- hfloor completes with the effective floor at each lane's slice, an address that counts as uniform at its lowest effective
lane's. htrim raises the floor of its launch's region to the smaller of its operand and the frontier, and never lowers it; it
completes with the floor where every slice has it in effect, and else its split waits for that. A pending floor comes into
effect while no htrim waits: it is pending no more, the floor in effect under its key is at least it and no smaller than before,
and memory changes only in a region's FLOOR field. (16 R361, 16 R363, 16 R374, 16 R375) -/
def Obligations.Floors : Prop :=
  (∀ (s t : State) (c : Ctx) (f : FormM) (lanes : List FarLane),
   let d := f.dat.toNat
   let at_ (i : Nat) : Nat := if c.full && uniformRegs c f.adrRegs then c.low else i
   s.Issues f.guard c → c.eff ≠ 0 → d + 2 ≤ c.w.regs.length → s.memPlan c (FormM.floorAsk f) = .far t c lanes →
   (∀ l ∈ lanes, t.noHistory l.2.2.2 l.2.2.1 = false) →
     ∃ v : Warp, exec (.hfloor f) s = .next ((t.touchLanes c (FormM.floorAsk f) lanes).after c v) ∧
       c.Wrote v (resultOf d true fun i => match lanes.find? fun l => l.1 == at_ i with
         | some l => BitVec.ofNat 64 (t.floorAt c.l.node l.2.2.2 l.2.2.1)
         | none => 0) ((f.marked [] []).filter fun r => r != d && r != d + 1)
         (fun _ => if uniformRegs c f.adrRegs = true then 0 else 2)) ∧
  (∀ (s : State) (c : Ctx) (f : FormX),
   let x := f.xa.toNat; let d := f.dst.toNat; let n := c.l.node
   let new := max (s.regionFloorOf n) (min (c.w.pair x c.low).toNat (s.core c.w.die c.w.core).frontier)
   let t := s.raiseRegionFloor n new
   c.eff ≠ 0 → c.deadRead [x, x + 1] = none →
     s.regionFloorOf n ≤ new ∧ t.regionFloorOf n = new ∧ t.mem = s.mem ∧
     (s.Issues f.guard c → new ≤ s.floorInEffect n → d + 2 ≤ c.w.regs.length →
       ∃ v : Warp, exec (.htrim f) s = .next (t.after c v) ∧ c.Wrote v (resultOf d true fun _ => BitVec.ofNat 64 new)
         ((FormX.marked f [(0, x, 2)]).filter fun r => r != d && r != d + 1)) ∧
     (s.ctx? f.guard = some c → s.floorInEffect n < new →
       exec (.htrim f) s = .next (t.blockHere c (.trim new d c.eff (FormX.marked f [(0, x, 2)]))))) ∧
  (∀ (s : State) (n : Nat) (p : PendingFloor),
   let key := match p.region with
     | some r => r
     | none => 4096 + p.stack
   s.pendingFloors[n]? = some p → (∀ w ∈ s.warps, ∀ x ∈ w.entries, ∀ v d m ks, x.wait ≠ .trim v d m ks) →
     ∃ t : State, exec (.evFloorInEffect n) s = .next t ∧ t.floorInEffect key = max (s.floorInEffect key) p.value ∧
       (p.region = none → t.mem = s.mem) ∧
       (∀ r, p.region = some r → ∀ k, (k < s.floorField r ∨ s.floorField r + 8 ≤ k) →
         Memory.get t.mem k = Memory.get s.mem k))

/-- ld.asof, all of whose lanes' leaves keep history: while a clock it needs has not reached a lane's stamp it waits at issue;
where a lane's stamp lies below the least stamp it can be answered at, it traps HISTORY_RECLAIMED (0x12) with that least stamp;
and else it completes, and what it read as of its lanes' stamps goes in flight as a result, which ASOF_REPLY writes without
raising the warp's clock (that it waits at issue and checks its floors in the step that reads is the model's choice, log 22).
(16 R362, 16 R365, 16 R369, 16 R370, the model's log 22) -/
def Obligations.AsofLoads : Prop := ∀ (s t : State) (c : Ctx) (f : FormM) (lanes : List FarLane) (bytes : Nat → List Byte),
  let x := f.aux.toNat; let d := f.dat.toNat; let n := f.bytes; let ls := t.asofLanes c x lanes
  (c.eff ≠ 0 → s.memPlan c (FormM.asofAsk f) = .far t c lanes → (∀ l ∈ ls, t.noHistory l.leaf l.pa = false) →
    (s.ctx? f.guard = some c → (∃ l ∈ ls, t.early l = true) → exec (.ldAsof f) s = .next t.wait) ∧
    (∀ l, s.ctx? f.guard = some c → (∀ y ∈ ls, t.early y = false) →
      ls.find? (fun y => decide (y.at_ < t.leastAsof c.l.node y)) = some l →
      exec (.ldAsof f) s = .next (t.trapHere c 0x12 (BitVec.ofNat 64 (t.leastAsof c.l.node l)))) ∧
    (s.Issues f.guard c → (∀ l ∈ ls, t.early l = false ∧ t.leastAsof c.l.node l ≤ l.at_ ∧
        t.readAsof l.leaf l.pa n l.at_ = .ok (bytes l.lane)) →
      ∃ (u : State) (v : Warp) (b : Access), exec (.ldAsof f) s = .next (u.releaseWindows.after c v) ∧
        c.Wrote v [] ((f.marked [] [x, x + 1]).filter fun r => !(dataRegs d n).contains r) ∧
        u.accesses = t.accesses ++ [b] ∧ b.op = .asof ∧ b.warp = c.w.uid ∧ b.n = n ∧ b.sx = f.sx ∧ b.dst = d ∧ b.eff = c.eff ∧
        b.lanes.map (fun y => (y.lane, y.asof, y.done, y.old)) = ls.map (fun l => (l.lane, l.at_, true, leNat (bytes l.lane))) ∧
        u.mem = (t.touchLanes c (FormM.asofAsk f) lanes).mem)) ∧
  (∀ (a : Access) (w : Warp), s.access? a.id = some a → a.op = .asof → s.warp? a.warp = some w →
    ∃ (u : State) (v : Warp), exec (.evAsofReply a.id) s = .next (State.stabilise u) ∧ u.mem = s.mem ∧ u.access? a.id = none ∧
      u.warp? w.uid = some v ∧ (a.acquires = false → v.clock = w.clock) ∧
      ∀ i y, i < 32 → a.eff.getLsbD i = true → w.living.getLsbD i = true → a.lanes.find? (fun z => z.lane == i) = some y → a.uniform = false →
        a.dst + max 1 (a.n / 4) ≤ w.regs.length → ∀ k, k < max 1 (a.n / 4) →
          v.lane (a.dst + k) i = BitVec.ofNat 32 (loadWord a.n a.sx y.old k))

/-- The stable frontier gathered at a tick that is a multiple of 64 is the least of the ordering point's clock and the clocks of
the slices that count; a core keeps the largest value it has received. A station tick raises the tick by one and nothing else;
every clock is then at least the tick. (16 R350, 16 R352, 16 R359) -/
def Obligations.StableFrontier : Prop :=
  (∀ (s : State) (die core : Nat),
   (s.tick % 64 = 0 → ∃ g, exec .evFrontierGather s = .next { s with frontierG := g } ∧ g ≤ s.opClockNow ∧
     (∀ n, n < 2048 → s.counted (n / 256) = true → g ≤ s.clockAt n) ∧
     (g = s.opClockNow ∨ ∃ n, n < 2048 ∧ s.counted (n / 256) = true ∧ g = s.clockAt n)) ∧
   exec (.evFrontierArrival die core) s =
     .next (s.modCore die core fun c => { c with frontier := max c.frontier s.frontierG })) ∧
  (∀ (s : State), ∃ t : State,
   exec .evStationTick s = .next t ∧ t = { s with tick := s.tick + 1 } ∧
     (∀ n, t.tick ≤ t.clockAt n) ∧ t.tick ≤ t.opClockNow)

/-- A write of a slice takes the largest of the slice's clock and one, the clock the access carries and one, and the tick; its
stamp becomes the slice's clock and the sector's stamp, and no other slice's clock changes. A stamp of the ordering point is the
largest of its clock and one, the clock given and one, and the tick, and becomes its clock. (16 R352) -/
def Obligations.WriteStamps : Prop := ∀ (s : State) (pa k : Nat) (bs : List Byte),
  let c := (s.performWrite pa bs k).2; let t := (s.performWrite pa bs k).1
  c = max (s.clockAt (sliceOf pa) + 1) (max (k + 1) s.tick) ∧ (s.orderStamp k).2 = max (s.opClockNow + 1) (max (k + 1) s.tick) ∧
    (s.orderStamp k).1.opClockNow = (s.orderStamp k).2 ∧ t.clockAt (sliceOf pa) = c ∧ t.versionStamp pa = c ∧
    (∀ n, n ≠ sliceOf pa → t.clockAt n = s.clockAt n)

/-- Firmware's invalidation, once no lane of an access of global memory in flight uses a translation it names, drops the entries
it names and no other, while no split waits for words; a waiting lane whose translation it drops reads from then on where the
tables take it, and where they no longer do its waitval issues afresh (the model's choice, log 38). The owner firmware names of
a page with history is the one it gives. (13 R313, 16 R360, the model's log 38) -/
def Obligations.InvalidationsAndOwners : Prop := ∀ (s : State) (sc : InvalScope) (asid node level at_ : Nat) (va p : DWord)
    (w : Warp) (e : Nat) (v : ValueWait) (x : ValueLane),
  (s.noReaders → (s.accesses.all fun a => a.lanes.all fun x => x.done || isKey x.pa || !invalHits sc a.asid x.va.toNat 1
      (match s.tlbFind a.die a.asid x.va with
        | some t => pteG t.pte
        | none => false)) = true →
    ∃ t : State, exec (.evInvalidation sc) s = .next t ∧ t.mem = s.mem ∧ t.warps = s.warps ∧
      t.tlb = s.tlb.filter fun e => !invalHits sc e.asid (e.vpage * pageSize e.level) (pageSize e.level) (pteG e.pte)) ∧
  (s.warp? w.uid = some w → (w.entry e).wait = .value v → v.gl = true → v.lanes = [x] → x.satisfied = false →
    invalHits sc (s.asidOf w) x.va.toNat 4 (pteG x.pte) = true →
    (∀ t pa q, s.xlate w.die (s.asidOf w) x.va .read = (t, .ok pa q) → ∃ u : State, u.warps = s.warps ∧
      s.retranslate sc w.uid e = u.putWarp (w.setEntry e { w.entry e with wait := .value { v with lanes := [{ x with addr := pa, pte := q }] } })) ∧
    ((∀ t pa q, s.xlate w.die (s.asidOf w) x.va .read ≠ (t, .ok pa q)) → ∃ u : State, u.warps = s.warps ∧
      (∀ a ∈ u.accesses, a.warp ≠ w.uid ∨ a.op ≠ .waitRead e) ∧
      s.retranslate sc w.uid e = u.putWarp (w.setEntry e (w.entry e).unblock))) ∧
  (s.walk asid va = .leaf level at_ p → pteH p = true → homeOf (pteAddr p) < 8 →
    ∃ t : State, exec (.evHistoryOwner asid va node) s = .next t ∧ t.mem = s.mem ∧
      ∃ h ∈ t.histPages, h.page = pteAddr p / 4096 ∧ h.owner = some node)

/-! ### Class 0xA: copies, arrival barriers and tickets -/

/-- cpy and cpy2d that pass the checks of Table 9-3 and need not wait are issued on the engine with the fewest operations, under
the next sequence number of that engine: the ticket register receives PENDING, a range entry holds both intervals, the operation
is in progress and no byte has moved. A count of 0 is DONE at once. A check that fails traps, with its cause and value; without
a free range entry, or behind an acquire in flight (log 3), the copy waits at issue. (09 R231, 09 R232, 09 R233, 09 R245, 01
R38, the model's log 3) -/
def Obligations.CopyIssue : Prop := ∀ (s : State) (c : Ctx) (f : FormX) (two : Bool),
  let i : Instr := if two then .cpy2d f else .cpy f
  let a := s.copyArgs c f two; let tk := f.dst.toNat; let die := c.w.die
  let load (n : Nat) : Nat := (s.copies.filter fun x => x.die == die && x.unit == n).length
  (∀ cause v, s.ctx? f.guard = some c → c.eff ≠ 0 → s.copyFault c f two = some (cause, v) → exec i s = .next (s.trapHere c cause v)) ∧
  (s.ctx? f.guard = some c → c.eff ≠ 0 → s.copyFault c f two = none → s.copyWaits c f two ≠ none → exec i s = .next s.wait) ∧
  (s.Issues f.guard c → c.eff ≠ 0 → s.copyFault c f two = none → s.copyWaits c f two = none →
    ∃ (u : State) (v : Warp) (unit : Nat), exec i s = .next (u.after c v) ∧ u.warps = s.warps ∧
      (a.count ≠ 0 → u.launches = s.launches) ∧ unit < 3 ∧ (∀ n, n < 3 → load unit ≤ load n) ∧
      c.Wrote { v with tickets := c.w.tickets, ranges := c.w.ranges, endPasts := c.w.endPasts } [] (FormX.copyMarks f two) ∧
      v.tickets = c.w.tickets.set tk (ticketVal (if a.count = 0 then 0 else 1) 0 1 die unit (s.nextSeq die unit)) ∧
      u.mem = s.mem ∧ u.accesses = s.accesses ∧
      (a.count = 0 → v.ranges = c.w.ranges ∧ u.copies.length = s.copies.length ∧
        ∃ r ∈ u.ends, r.kind = 1 ∧ r.die = die ∧ r.unit = unit ∧ r.seq = s.nextSeq die unit ∧ r.state = 0) ∧
      (a.count ≠ 0 → ∃ p, u.copies.getLast? = some p ∧ p.die = die ∧ p.unit = unit ∧ p.seq = s.nextSeq die unit ∧
        p.warp = c.w.uid ∧ p.reg = some tk ∧ p.started = false ∧ p.count = a.count ∧ p.mode = a.mode ∧
        p.dst = s.placeOf c a.ds a.dst ∧ p.src = s.placeOf c a.ss a.src ∧ v.ranges = c.w.ranges ++ s.copyRanges c a p.id))

/-- An engine starts the oldest copy that is ready: of a plain or two-dimensional one no byte has moved and every sector of its
destination is to be written; one that compresses, expands or quantises, or goes to a shadow, has read its whole source in this
event and has its staged bytes and its shadow pages (log 25). A sector that can be read and written is delivered, its barrier is
credited with its bytes, and the turn of its engine moves on. Of a plain copy between on-chip memories it holds its source's
bytes, and no other byte changes. (09 R234, 09 R235, 09 R253, the model's log 25) -/
def Obligations.CopyEngine : Prop :=
  (∀ (s : State) (p : Copy),
   s.copy? p.id = some p → p.started = false → p.ending = 0 → p.cancel = false → p.stall = none →
   s.acknowledged p.warp p.id p.lanes = true → s.engineTakes p = true →
     (p.mode.staged = false → p.shd = false → s.Happens (.evCopyEngineStart p.id) fun u => u.mem = s.mem ∧ u.warps = s.warps ∧
       ∃ q, u.copy? p.id = some q ∧ q.started = true ∧ q.pending = p.sectors) ∧
     (∀ t d, (s.stage { p with clock := max p.clock (((s.warp? p.warp).map (·.clock)).getD 0) }).bind
         (fun t d => if d.shd then t.shadowStart d else .ok t d) = .ok t d →
       exec (.evCopyEngineStart p.id) s = .next (State.stabilise ((t.dropWindow p.id).putCopy
         { d with started := true, pending := if d.shd && d.shadows.any (·.clen != 0) then [] else d.sectors })))) ∧
  (∀ (s : State) (p : Copy) (n left sec a b k : Nat),
   s.copy? p.id = some p → s.engineTurn p.die p.unit = some (n, left, p.id) → sec ∈ p.pending →
   (∀ t bs u st, s.sectorData p sec = .ok t bs → t.writeSector p bs = .ok u st →
     exec (.evCopySectorDelivery p.id sec) s = .next (State.stabilise
       ((((u.dropWindow p.id).putCopy { p with pending := p.pending.erase sec, endStamp := max p.endStamp st }).credit p.id p.bspace p.barrier
         bs.length p.clock (u.opPast p.past p.id)).tookTurn p left))) ∧
   (s.memWf → s.noReaders → p.mode = .plain → p.src = .key a → p.dst = .key b → 0 < p.count → s.poisonAt a p.count = none → p.barrier = some k →
   (k + 16 ≤ sec * 32 ∨ sec * 32 + 32 ≤ k) →
     s.Happens (.evCopySectorDelivery p.id sec) fun u => (s.noFlipWaits → u.warps = s.warps) ∧
       (∀ i y, i < 32 → p.sourceOf (sec * 32 + i) = some y → Memory.get u.mem (sec * 32 + i) = Memory.get s.mem y) ∧
       (∀ x, (x < sec * 32 ∨ sec * 32 + 32 ≤ x ∨ p.sourceOf x = none) → (x < k ∨ k + 16 ≤ x) →
         Memory.get u.mem x = Memory.get s.mem x) ∧
       u.abar k = (s.abar k).add 0 (p.bytesOf sec).length 0 ∧
       ∃ q, u.copy? p.id = some q ∧ q.pending = p.pending.erase sec))

/-- A copy ends: DONE once everything is delivered, FAILED with its reason where something stopped it and what came before has
been delivered, CANCELLED where tkcancel asked first; a quantising copy folds its exponent as it ends. It leaves its engine, its
range entry is freed, and every PENDING register that holds its ticket receives the end. A barrier of a copy that does not end
DONE is overrun. (09 R235, 09 R236, 09 R245, 01 R38) -/
def Obligations.CopyEnd : Prop := ∀ (s : State) (p : Copy),
  let ends (st reason : Nat) : Prop := s.Happens (.evCopyEnd p.id) fun u =>
    u.copy? p.id = none ∧ u.mem = (if st = 0 then s else s.overrun p.barrier).mem ∧
    ticketsEnd s u p.id p.named (ticketVal st reason 1 p.die p.unit p.seq)
  s.copy? p.id = some p →
    (p.cancel = true → p.live = true → (p.started = false ∨ p.pending ≠ [] ∨ p.stall ≠ none ∨ ∃ a ∈ s.accesses, a.op = .copyWrite p.id) →
      ends 3 8) ∧
    (p.pending = [] → p.ending ≠ 0 → ends p.ending p.reason) ∧
    (p.pending = [] → p.started = true → p.ending = 0 → p.stall = none → (∀ a ∈ s.accesses, a.op ≠ .copyWrite p.id) →
      ((∀ t, p.mode ≠ .q t) → ends 0 0) ∧
      ∀ u st, s.foldScale p = .ok u st →
        exec (.evCopyEnd p.id) s = .next (State.stabilise (u.endCopy { p with endStamp := max p.endStamp st } 0 0 p.detail)))

/-- publish: while a ticket is PENDING, or a lane's access unanswered, or an access uses a translation it replaces, it blocks, and
swaps at a later event. Refused, it returns 0 and changes nothing; else, while no split waits for words, it swaps the pages of its
shadows and returns the swap's stamp. With one shadowed page the swap replaces the leaf that maps the page by one that differs
only in the address and the compressed length, at a stamp above the warp's clock and the ordering point's, and no other byte of
memory changes. (09 R239, 09 R240, 16 R366) -/
def Obligations.Publish : Prop := ∀ (s : State) (c : Ctx) (f : FormX),
  let d := f.dst.toNat; let tks := FormX.tickets f
  (s.ctx? f.guard = some c → c.eff ≠ 0 → (c.w.anyPending tks || s.pendingFor c.w.uid c.eff) = true →
    exec (.publish f) s = .next (s.blockHere c (.publish d tks c.eff))) ∧
  (∀ xs, s.ctx? f.guard = some c → c.eff ≠ 0 → (c.w.anyPending tks || s.pendingFor c.w.uid c.eff) = false →
    s.publishable c.w tks = some xs → s.swapBusy xs = true → exec (.publish f) s = .next (s.blockHere c (.publish d tks c.eff))) ∧
  (s.Issues f.guard c → c.eff ≠ 0 → c.holds d true → (c.w.anyPending tks || s.pendingFor c.w.uid c.eff) = false →
    (s.publishable c.w tks = none → s.Completes c (.publish f) fun v => c.Wrote v (resultOf d true fun _ => 0) []) ∧
    (∀ xs, s.publishable c.w tks = some xs → s.swapBusy xs = false → s.noReaders → s.CompletesIn c (.publish f) fun u v =>
      u = (s.swap c.w c.eff xs).1 ∧ c.WroteClock v (resultOf d true fun _ => BitVec.ofNat 64 (s.swap c.w c.eff xs).2) [] ∧
      v.clock = (s.swap c.w c.eff xs).2) ∧
    (∀ x p l a q, s.publishable c.w tks = some [x] → x.pages = [p] → s.swapBusy [x] = false → s.walk x.asid p.va = .leaf l a q →
      s.memWf → s.noReaders →
      s.CompletesIn c (.publish f) fun u v => ∃ st : Stamp, c.w.clock < st ∧ s.opClock < st ∧ s.tick ≤ st ∧ u.opClock = st ∧
        v.clock = st ∧ c.WroteClock v (resultOf d true fun _ => BitVec.ofNat 64 st) [] ∧ keptBut s u a 8 ∧
        u.readNat a 8 = (bitsOf q.toNat 0 12 + p.new + bitsOf q.toNat 52 7 * 2 ^ 52 + p.clen * 2 ^ 59) % 2 ^ 64 ∧
        u.shadows = s.shadows.filter (fun y => !([x].contains y)))) ∧
  (∀ w e eff, s.warp? w.uid = some w → (w.entry e).st = .block → (w.entry e).wait = .publish d tks eff →
    (w.anyPending tks || s.pendingFor w.uid eff) = false →
    (s.publishable w tks = none → exec (.evPublishSwap w.uid e) s = .next (s.resume w.uid e fun w => w.takePublish d eff 0)) ∧
    (∀ xs, s.publishable w tks = some xs → s.swapBusy xs = false → exec (.evPublishSwap w.uid e) s =
      .next ((s.swap w eff xs).1.resume w.uid e fun v => v.takePublish d eff (s.swap w eff xs).2)))

/-- Arrival barriers, once their checks pass and nothing is to wait for, while no split waits for words: each is one atomic step
at the bank when it issues (log 3). abinit writes the threshold and zeroes the rest; abexp and abarv add to the sums, which may
flip the phase, as the splits that wait for it see, or overrun; abtest reads the phase into a predicate; abwait goes on where
the phase has flipped, and blocks otherwise until it has. No byte outside the barrier changes. On a barrier that has overrun all
but abinit trap ABAR_OVERRUN (0xB). A split that waits in abwait goes on once the phase has flipped, be it that the phase has
flipped again since: a flip that it waits for stays seen. Where the barrier has overrun it takes ABAR_OVERRUN. (09 R248, 09
R249, 09 R250, 09 R251, 09 R252, the model's log 3) -/
def Obligations.ArrivalBarriers : Prop :=
  (∀ (s : State) (c : Ctx) (f : FormX),
   let key := s.abKey c f
   let a := f.xa.toNat; let x := f.xb.toNat; let exp := f.opsAt 93 93 == 1; let b := s.abar key
   let marks := FormX.marked f [(0, a, 1), (1, x, 1)]; let XB := c.w.lane x c.low
   let goes (q : AbAsk) : Prop := s.abFault c f q.reads = none ∧ s.abWaits c f q.releases = none ∧ s.poisonAt key 16 = none
   let writes (i : Instr) (new : ABar) (marks : List Nat) : Prop :=
     ∃ (u : State) (v : Warp), exec i s = .next (u.after c v) ∧ u.launches = s.launches ∧ u.abar key = new ∧ keptBut s u key 16 ∧
       v.regs = (c.w.kill c.full marks []).regs ∧ (s.noFlipWaits → c.Wrote v [] marks) ∧
       ∃ ys, u.warps = if new.phase = b.phase ∨ i = .abinit f then s.warps else (s.latchFlip key b.phase ys).warps
   let passes (i : Instr) (P : Warp → Prop) : Prop :=
     s.CompletesIn c i fun u v => u.abar key = b ∧ keptBut s u key 16 ∧ c.w.clock ≤ v.clock ∧ s.spaceClock key ≤ v.clock ∧ P v
   let overruns (i : Instr) : Prop := exec i s = .next (s.trapHere c 0xB (c.overrunTval f))
   c.eff ≠ 0 →
     (s.Issues f.guard c → s.memWf → s.noReaders →
       (goes (FormX.abinitAsk f) → writes (.abinit f)
         { ebyte := 0, abyte := 0, ethr := XB.toNat % 2 ^ 16, athr := 0, phase := false, overrun := false } marks) ∧
       (goes (FormX.abexpAsk f) → b.overrun = false → writes (.abexp f) (b.add XB.toNat 0 0) marks) ∧
       (goes (FormX.abarvAsk f) → b.overrun = false → writes (.abarv f)
         (b.add (if exp then XB.toNat else 0) 0 (lanesOf c.eff).length) (FormX.marked f [(0, a, 1), (1, x, if exp then 1 else 0)]))) ∧
     (s.Issues f.guard c → s.memWf → s.noReaders → goes (FormX.abwaitAsk f) → b.overrun = false →
       (f.dst.toNat < 8 → c.w.preds.length = 7 → passes (.abtest f) fun v =>
         c.WrotePred { v with clock := c.w.clock, sights := c.w.sights } f.dst.toNat
           (fun i => b.phase != (c.w.lane x i).getLsbD 0) marks) ∧
       (b.phase ≠ XB.getLsbD 0 → passes (.abwait f) fun v => c.WroteClock v [] marks)) ∧
     (s.ctx? f.guard = some c → goes (FormX.abwaitAsk f) → b.overrun = false → b.phase = XB.getLsbD 0 →
       exec (.abwait f) s = .next ((s.testBarrier c.w (FormX.abParty f c.w) c.eff key).blockHere c
         (.phase key (c.w.lane a c.low).toNat (f.opsAt 95 94) (XB.getLsbD 0) c.eff marks none))) ∧
     (s.ctx? f.guard = some c → b.overrun = true →
       (goes (FormX.abexpAsk f) → overruns (.abexp f)) ∧ (goes (FormX.abarvAsk f) → overruns (.abarv f)) ∧
       (goes (FormX.abwaitAsk f) → overruns (.abwait f) ∧ overruns (.abtest f)))) ∧
  (∀ (s : State) (w : Warp) (e key addr space : Nat) (phase : Bool) (eff : Mask) (marks : List Nat)
     (seen : Option (List Sync)),
   let p (i : Nat) : Party := w.party i (abScope (Space.ofCode space))
   s.warp? w.uid = some w → (w.entry e).st = .block → (w.entry e).wait = .phase key addr space phase eff marks seen →
     ((s.abar key).overrun = false → ((s.abar key).phase ≠ phase ∨ seen ≠ none) → exec (.evAbwaitWake w.uid e) s =
       .next ((s.testBarrier w p eff key).resume w.uid e fun v =>
         (s.passBarrier v p eff eff key (seen.getD (s.carried key 16))).kill (eff == v.living) marks [])) ∧
     (∀ ys, seen = none → ∃ v, (s.latchFlip key phase ys).warp? w.uid = some v ∧ (v.entry e).st = .block ∧
       (v.entry e).wait = .phase key addr space phase eff marks (some ys)) ∧
     ((s.abar key).overrun = true → exec (.evAbwaitWake w.uid e) s = .next (State.stabilise
       ((s.putWarp (w.setEntry e { w.entry e with st := .run, wait := .none })).takeTrap w.uid e (w.entry e).pc 0xB
         (overrunTval addr space)))))

/-- Ticket instructions. tkwait goes on unless its ticket is PENDING, when it blocks; tktest returns the status word and tkget the
ticket; tkset stores a ticket, a PENDING one that names no unit as FAILED, FAULT, another PENDING one to be resolved; tkcancel
asks the copy of a PENDING ticket to stop, and leaves any other ticket alone. A stored PENDING ticket resolves: the unit's end
record gives its state and reason; while the operation is in progress the register stays PENDING; a unit that holds neither, or
whose die is not online, answers FAILED, FAULT. (01 R38, 01 R39, 09 R254, 09 R255, 09 R256, 09 R257, 09 R258) -/
def Obligations.Tickets : Prop :=
  (∀ (s : State) (c : Ctx) (f : FormX),
   let d := f.dst.toNat; let x := f.xa.toNat; let t := c.w.ticket d; let v := c.w.pair x c.low
   (s.ctx? f.guard = some c → c.eff ≠ 0 → tkState t = 1 → exec (.tkwait f) s = .next (s.blockHere c (.ticket d c.eff))) ∧
   (s.Issues f.guard c →
     ((tkState t ≠ 1 ∨ c.eff = 0) → exec (.tkcancel f) s = .next (s.after c c.w) ∧
        exec (.tkwait f) s = .next (s.after c (if c.eff = 0 then c.w else c.w.sawEnd c.eff d (s.endRecord? t)))) ∧
     (tkState t = 1 → c.eff ≠ 0 → s.Happens (.tkcancel f) fun u => u = (s.after c c.w).cancelTicket t ∧
       ∀ p ∈ s.copies, p.named t = true → ∃ q ∈ u.copies, q.id = p.id ∧ q.cancel = true) ∧
     (c.holds d false → s.Completes c (.tktest f) fun w => c.Wrote { w with sights := c.w.sights }
       (resultOf d false fun _ => (s.ticketWord (c.w.ticket x)).setWidth 64) []) ∧
     (c.holds d true → s.Completes c (.tkget f) fun w => c.Wrote w (resultOf d true fun _ => c.w.ticket x) []) ∧
     (c.eff ≠ 0 → c.deadRead [x, x + 1] = none → s.CompletesIn c (.tkset f) fun u w =>
       c.Wrote { w with tickets := c.w.tickets, endPasts := c.w.endPasts } [] (FormX.marked f [(0, x, 2)]) ∧ u.mem = s.mem ∧
       w.tickets = c.w.tickets.set d (if tkState v = 1 ∧ validUnit v = false then withState v 2 6 else v) ∧
       (tkState v = 1 → validUnit v = true → (c.w.uid, d) ∈ u.resolving)))) ∧
  (∀ (s : State) (w : Warp) (reg : Nat),
   let t := w.ticket reg
   let answers (new : DWord) (clock : Stamp) (p : Past) : Prop := s.Happens (.evTicketResolve w.uid reg) fun u =>
     u.mem = s.mem ∧ (w.uid, reg) ∉ u.resolving ∧ ∃ e, tget e reg [] = p ∧
       u.warp? w.uid = some { w with tickets := w.tickets.set reg new, clock := max w.clock clock, endPasts := e }
   s.warp? w.uid = some w → (w.uid, reg) ∈ s.resolving → tkState t = 1 →
     (tkDie t < 8 → s.online (tkDie t) = false → answers (withState t 2 6) w.clock []) ∧
     (¬(tkDie t < 8 ∧ s.online (tkDie t) = false) →
       (∀ r, s.endRecord? t = some r → answers (withState t r.state r.reason) r.stamp r.past) ∧
       (s.endRecord? t = none → s.inProgress t = false → answers (withState t 2 6) w.clock []) ∧
       (s.endRecord? t = none → s.inProgress t = true → exec (.evTicketResolve w.uid reg) s =
         .next { s with resolving := s.resolving.filter fun r => r != (w.uid, reg) })))

/-! ### Class 0xB: the circle line -/

/-- The line instructions. board, replace, alight and catch that pass their checks and need not wait at issue stand at their
station, waiting, under the next sequence number of it: the ticket register receives PENDING and no byte has moved. A check that
fails traps, with its cause and value; a full station, no free range entry or an acquire in flight (that last is the model's
reading, log 3) makes them wait at issue. lineq returns the status word, the region's coach budget and the version, tagged U
where its name counts as uniform. (18 R383, 18 R384, 18 R385, 18 R386, 18 R387, 18 R389, 18 R390, 18 R391, the model's log 3) -/
def Obligations.LineIssue : Prop := ∀ (s : State) (c : Ctx) (f : FormX),
  let tk := f.dst.toNat; let die := c.w.die; let r (b : BitVec 8) : Nat := b.toNat; let d := f.dst.toNat
  let spc := FormX.boardSpace f; let A := addressRegs spc (r f.xa); let cs := FormX.catchSpaces f
  let M := FormX.minRegs f
  let src := s.placeOf c spc (c.address spc (r f.xa)); let dst := s.keyOf c cs.1 (c.address cs.1 (r f.xa))
  let sent (i : Instr) (op : LineOp) (marks : List Nat) (ranges : Nat → List RangeEntry) (P : StationOp → Prop) : Prop :=
    s.CompletesIn c i fun u v => ∃ o, u.lineOps.getLast? = some o ∧ o.op = op ∧ o.die = die ∧ o.seq = (s.die die).station ∧
      o.warp = c.w.uid ∧ o.reg = some tk ∧ o.node = c.l.node ∧ o.name = c.tileName f ∧ o.stage = .waiting ∧ P o ∧ u.mem = s.mem ∧
      v.tickets = c.w.tickets.set tk (ticketVal 1 0 2 die 0 (s.die die).station) ∧ v.ranges = c.w.ranges ++ ranges o.id ∧
      c.Wrote { v with tickets := c.w.tickets, ranges := c.w.ranges, endPasts := c.w.endPasts } [] marks
  let goes (q : LineAsk) : Prop := q.fault c = none ∧ s.lineWaits c q.entry = none
  let stops (i : Instr) (q : LineAsk) : Prop :=
    (∀ cause v, q.fault c = some (cause, v) → exec i s = .next (s.trapHere c cause v)) ∧
    (q.fault c = none → s.lineWaits c q.entry ≠ none → exec i s = .next s.wait)
  let mb := FormX.marked f [(0, r f.xa, A.length), (1, r f.xb, 1)]
  let rb (op : Nat) : List RangeEntry := [{ op := op, space := spc, write := false, first := src.start, last := src.start + 4095 }]
  c.eff ≠ 0 →
    (s.ctx? f.guard = some c → stops (.board f) (s.boardAsk f) ∧ stops (.replace f) (s.boardAsk f) ∧
      stops (.alight f) (FormX.alightAsk f) ∧ stops (.catchTile f) (s.catchAsk f)) ∧
    (s.Issues f.guard c →
      (goes (FormX.alightAsk f) → sent (.alight f) .alight (FormX.marked f [(1, r f.xb, 1)]) (fun _ => []) fun _ => True) ∧
      (goes (s.boardAsk f) →
        sent (.board f) .board mb rb (fun o => o.place = src ∧ o.space = spc) ∧
        sent (.replace f) .replace mb rb (fun o => o.place = src ∧ o.space = spc)) ∧
      (goes (s.catchAsk f) → sent (.catchTile f) .catchTile
        (FormX.marked f [(0, r f.xa, 1), (1, r f.xb, 1), (2, r f.xc, 1), (3, r f.xd, M.length)])
        (fun op => [{ op := op, space := cs.1, write := true, first := dst, last := dst + 4095 }])
        fun o => o.place = .key dst ∧ o.space = cs.1 ∧
          o.barrier = some (s.keyOf c cs.2 (c.w.lane (r f.xc) c.low).toNat) ∧
          o.min = if FormX.catchMin f then some (c.w.pair (r f.xd) c.low).toNat else none) ∧
      (c.deadRead [r f.xb] = none → d + 4 ≤ c.w.regs.length → s.Completes c (.lineq f) fun v =>
        let k := s.coachOf c.l.node (c.tileName f)
        let ver : DWord := match k with
          | some k => if k.onLine then BitVec.ofNat 64 k.version else 0
          | none => 0
        c.Wrote v [(d, fun _ => s.lineWord c.l.node (c.tileName f)), (d + 1, fun _ => BitVec.ofNat 32 (s.effCoaches c.l.node % 512)),
          (d + 2, fun _ => lo32 ver), (d + 3, fun _ => hi32 ver)]
          ((FormX.marked f [(1, r f.xb, 1)]).filter fun n => !(regRange d 4).contains n)
          (fun _ => if (c.w.reg (r f.xb)).countsU = true then 0 else 2)))

/-- A request at its station and the directory, once its issuer's earlier stores are acknowledged and its station has room. board
reserves the lowest free slot where its region has room; alight, replace and catch find their coach; a name that is taken, missing
or not on the line ends the request FAILED, FAULT, and a full line or budget FAILED, LINE_FULL. A reissued catch is held while its
station has 16 operations. A station reads a source of 4,096 bytes, of a die store or of global memory, in one event (log 25), and
is then ready for a passage. The slots advance every 4 cycles once everything due at the passages has happened; a staged reboard
whose passage begins lands then. (18 R379, 18 R380, 18 R381, 18 R385, 18 R386, 18 R387, 18 R389, the model's log 25) -/
def Obligations.Stations : Prop :=
  (∀ (s : State) (o : StationOp),
   let e := s.coachOf o.node o.name
   let finds (c : Coach) (st : LineStage) : Prop := ∃ u p, exec (.evStationRequest o.id) s = .next u ∧ u.mem = s.mem ∧
     u.warps = s.warps ∧ u.coaches = s.coaches ∧ u.lineOp? o.id = some p ∧ p.stage = st ∧ p.slot = c.slot ∧ p.coach = c.fresh
   let fails (reason : Nat) : Prop := s.Happens (.evStationRequest o.id) fun u => u.lineOp? o.id = none ∧ u.coaches = s.coaches ∧
     ticketsEnd s u o.id o.named (ticketVal 2 reason 2 o.die 0 o.seq)
   (s.lineOp? o.id = some o → o.stage = .held →
     (16 ≤ s.stationOps o.die → exec (.evStationRequest o.id) s = .next s) ∧
     (s.stationOps o.die < 16 → exec (.evStationRequest o.id) s = .next (s.putLineOp { o with stage := .waiting }))) ∧
   ((s.lineOps.filter fun x => x.id == o.id) = [o] → o.stage = .waiting → (s.die o.die).bridged = false →
   s.acknowledged o.warp o.id o.lanes = true →
     (o.op = .board →
       (∀ c, e = some c → fails 6) ∧
       (e = none → (s.freeSlot = none ∨ s.lineRoom o.node = false) → fails 4) ∧
       (∀ k, e = none → s.freeSlot = some k → s.lineRoom o.node = true →
         ∃ u p c, exec (.evStationRequest o.id) s = .next u ∧ u.mem = s.mem ∧ u.warps = s.warps ∧ u.coaches = s.coaches ++ [c] ∧
           c.slot = k ∧ c.node = o.node ∧ c.name = o.name ∧ c.onLine = false ∧ u.lineOp? o.id = some p ∧ p.stage = .reading ∧
           p.slot = k ∧ p.coach = c.fresh)) ∧
     (o.op = .alight → (e = none → fails 6) ∧ ∀ c, e = some c → finds c .ready) ∧
     (o.op = .catchTile → ((∀ c, e = some c → c.onLine = false) → fails 6) ∧ ∀ c, e = some c → c.onLine = true → finds c .ready) ∧
     (o.op = .replace → ((∀ c, e = some c → c.onLine = false) → fails 6) ∧ ∀ c, e = some c → c.onLine = true → finds c .reading))) ∧
  (∀ (s : State) (o : StationOp) (k : Nat),
   (s.lineOp? o.id = some o → o.stage = .reading → o.stall = none → (s.die o.die).bridged = false → o.place = .key k →
     s.poisonAt k 4096 = none → ∃ u p, exec (.evStationSourceRead o.id) s = .next u ∧ u.mem = s.mem ∧ u.warps = s.warps ∧
       u.lineOp? o.id = some p ∧ p.stage = .ready ∧ p.payload = s.read k 4096 ∧ p.srcStamp = s.spaceClock k) ∧
   (∀ t bs st, s.lineOp? o.id = some o → o.stage = .reading → o.stall = none → (s.die o.die).bridged = false →
     s.readTile (stationReader o.id o.die o.node o.launch o.place o.clock) = .ok t (bs, st) →
       exec (.evStationSourceRead o.id) s = .next ((t.dropWindow o.id).putLineOp
         { o with stage := .ready, payload := bs, srcStamp := st, arrived := s.lineShift })) ∧
   (s.lineStart + 4 * (s.lineShift + 1) ≤ s.cycle → s.lineOps.any s.lineDue = false →
     let t : State := { s with lineShift := s.lineShift + 1, catches := [] }
     exec .evSlotAdvance s = .next (s.coaches.foldl (fun t c => t.landReboard c) t) ∧
     ((∀ c ∈ s.coaches, c.staged = none) → exec .evSlotAdvance s = .next t)))

/-- What a passage does. A board writes its payload into its slot and puts the coach on the line; a replace swaps it in; each
gives the coach a version above every version and clock it follows. A catch receives the coach's bytes and credits its barrier
with 4,096. An alight removes the coach. Each ends DONE, and no other byte changes. (18 R380, 18 R382, 18 R385, 18 R386, 18
R387, 18 R389, 18 R396) -/
def Obligations.Passages : Prop := ∀ (s : State) (o : StationOp) (c : Coach) (k b : Nat),
  let done (u : State) : Prop := u.lineOp? o.id = none ∧ ticketsEnd s u o.id o.named (ticketVal 0 0 2 o.die 0 o.seq)
  let boards (i : Instr) : Prop := s.Happens i fun u => done u ∧ keptBut s u (coachKey c.slot 0) 4096 ∧
    (∀ n, n < 4096 → Memory.get u.mem (coachKey c.slot n) = o.payload.getD n 0) ∧
    ∃ d, u.coach? c.fresh = some d ∧ d.slot = c.slot ∧ d.onLine = true ∧ d.poison = false ∧ s.opClock < d.version ∧
      o.clock < d.version ∧ o.srcStamp < d.version
  s.memWf → s.noReaders → s.lineOp? o.id = some o → s.coach? o.coach = some c →
    (o.op = .board → s.passing o = true → o.payload.length = 4096 → boards (.evBoardPayloadWrite o.id)) ∧
    (s.swapDue o = true → o.payload.length = 4096 → boards (.evReplaceSwap o.id)) ∧
    (s.catchEnds o = true → s.catchServed o = true → c.poison = false → o.place = .key k → o.barrier = some b →
      (s.lineOps.any fun x => x.coach == o.coach && x.die == o.die && (s.swapDue x || s.alightDue x)) = false →
      (b + 16 ≤ k ∨ k + 4096 ≤ b) → s.noFlipWaits →
        s.Happens (.evCatchDelivery o.id) fun u => done u ∧ u.abar b = (s.abar b).add 0 4096 0 ∧
          (∀ n, n < 4096 → Memory.get u.mem (k + n) = Memory.get s.mem (coachKey c.slot n)) ∧
          ∀ x, (x < k ∨ k + 4096 ≤ x) → (x < b ∨ b + 16 ≤ x) → Memory.get u.mem x = Memory.get s.mem x) ∧
    (s.alightDue o = true → s.Happens (.evAlightRemoval o.id) fun u => done u ∧ u.coach? c.fresh = none ∧
      keptBut s u (coachKey c.slot 0) 4096 ∧ ∀ n, n < 4096 → Memory.get u.mem (coachKey c.slot n) = 0)

/-- Coaches whose payload or region is lost. Firmware reads the recorded source of a poisoned coach through the station that
reboards it; at the coach's next passage there the payload lands, with a new version. A lost or retired die's station is
bridged; a killed region's coaches, and one that firmware alights, leave the line. (18 R393, 18 R394, 19 R407, 19 R408) -/
def Obligations.CoachRecovery : Prop := ∀ (s : State) (c : Coach) (d k node : Nat),
  (s.coaches.find? (fun x => x.slot == c.slot && x.onLine && x.poison && x.staged.isNone) = some c → s.coach? c.fresh = some c →
    s.reboardDie c = some d →
    (c.src = .key k → s.poisonAt k 4096 = none → ∃ u, exec (.evReboard c.slot) s = .next u ∧ u.mem = s.mem ∧ u.warps = s.warps ∧
      u.coach? c.fresh = some { c with staged := some { die := d, bytes := s.read k 4096, stamp := s.spaceClock k, since := s.lineShift } }) ∧
    (∀ t bs st, s.readTile (stationReader c.fresh d c.node 0 c.src 0) = .ok t (bs, st) →
      exec (.evReboard c.slot) s = .next ((t.dropWindow c.fresh).putCoach
        { c with staged := some { die := d, bytes := bs, stamp := st, since := s.lineShift } }))) ∧
  (∀ r, s.memWf → c.staged = some r → s.coach? c.fresh = some c → s.stationServes r.die = true → s.atPlatform c.slot r.die = true →
    r.since < s.lineShift → r.bytes.length = 4096 →
      (s.landReboard c).warps = s.warps ∧ keptBut s (s.landReboard c) (coachKey c.slot 0) 4096 ∧
      (∀ n, n < 4096 → Memory.get (s.landReboard c).mem (coachKey c.slot n) = r.bytes.getD n 0) ∧
      ∃ x, (s.landReboard c).coach? c.fresh = some x ∧ x.poison = false ∧ x.onLine = true ∧ x.staged = none ∧
        s.opClock < x.version ∧ r.stamp < x.version) ∧
  (s.coaches.find? (fun x => x.slot == c.slot && x.onLine && x.poison) = some c →
    s.Happens (.evFirmwareAlight c.slot) fun u => u.coach? c.fresh = none ∧
      ∀ o ∈ s.lineOps, (o.op ≠ .catchTile ∨ o.stage = .waiting ∨ o.stage = .held ∨ o.coach ≠ c.fresh) → o ∈ u.lineOps) ∧
  (d < 8 → d < s.dies.length → (s.die d).bridged = false → (s.die d).st ≠ 0 → ((s.die d).lossShift ≠ none ∨ (s.die d).st = 3) →
    ∃ u, exec (.evStationBridge d) s = .next u ∧ u = { s with dies := u.dies } ∧ (u.die d).bridged = true ∧
      ∀ n, n ≠ d → u.die n = s.die n) ∧
  (((s.region? node).map (·.st)).getD 3 = 3 → s.Happens (.evRegionCoachRemoval node) fun u =>
    (∀ x ∈ u.coaches, x.node ≠ node ∧ x ∈ s.coaches) ∧ (∀ x ∈ s.coaches, x.node ≠ node →
      (∀ y ∈ s.coaches, y.node = node → y.fresh ≠ x.fresh) → x ∈ u.coaches) ∧ u.warps = s.warps)

/-! ### Class 0xC and the distributor -/

/-- launch: while too many device launches are uncompleted, or an acquire is in flight (the model's reading, log 3), it waits at
issue; else the distributor holds a launch that reads its packet later, under the next sequence number, and the ticket register
receives PENDING. trigger marks its lanes, at once where none of their accesses is unanswered, else to be marked later. waitdep
goes on where every producer has triggered, its predicate saying whether all are well, and blocks otherwise. segq returns a
segment's status word, tagged U for the core's own segment or a uniform number. (14 R335, 14 R336, 14 R337, 11 R288, the model's
log 3) -/
def Obligations.LaunchInstructions : Prop := ∀ (s : State) (c : Ctx) (f : FormX) (v : FormV),
  let x := f.xa.toNat; let tk := f.dst.toNat; let pd := v.dst.toNat; let here := f.opsAt 75 75 == 1
  (s.ctx? f.guard = some c → c.eff ≠ 0 → c.deadRead [x, x + 1] = none → s.launchWaits c ≠ none → exec (.launch f) s = .next s.wait) ∧
  (s.Issues f.guard c → c.eff ≠ 0 → c.deadRead [x, x + 1] = none → s.launchWaits c = none →
      ∃ (u : State) (w : Warp) (l : Launch), exec (.launch f) s = .next (u.after c w) ∧ u.mem = s.mem ∧ u.warps = s.warps ∧
        u.devSeq = (s.devSeq + 1) % 2 ^ 40 ∧ u.launches.getLast? = some l ∧ l.source = 16 ∧ l.seq = s.devSeq ∧ l.node = c.l.node ∧
        l.phase = .reading ∧ l.address = c.w.pair x c.low ∧ l.carried = c.w.clock ∧
        w.tickets = c.w.tickets.set tk (ticketVal 1 0 3 8 0 s.devSeq) ∧
        c.Wrote { w with tickets := c.w.tickets, endPasts := c.w.endPasts } [] (FormX.marked f [(0, x, 2)])) ∧
  (s.Issues v.guard c → c.w.trigWait = [] → s.pendingFor c.w.uid c.eff = false →
    ∃ (u : State), exec (.trigger v) s = .next u ∧ u.mem = s.mem ∧ u.warp? c.w.uid = some { c.w with
      triggered := c.w.triggered ||| c.eff,
      entries := c.w.entries.set c.e { c.w.entry c.e with pc := nextSlot c.pc, wait := .none } }) ∧
  (s.Issues v.guard c → ∃ (u : State) (z : Warp), exec (.trigger v) s = .next u ∧ u.mem = s.mem ∧ u.warp? c.w.uid = some z ∧
    ∀ i, i < 32 → c.eff.getLsbD i = true → z.triggered.getLsbD i = true ∨ ∃ t ∈ z.trigWait, t.lane = i) ∧
  (s.Issues v.guard c → c.eff ≠ 0 → pd < 8 → c.w.preds.length = 7 → c.l.producers.all (s.producerTriggered c.l) = true →
    s.Completes c (.waitdep v) fun w => c.WrotePred { w with clock := c.w.clock, sights := c.w.sights } pd
        (fun _ => s.producersGood c.l) [] ∧
      w.clock = max c.w.clock (s.triggerClock c.l)) ∧
  (s.ctx? v.guard = some c → c.eff ≠ 0 → c.l.producers.all (s.producerTriggered c.l) = false →
    exec (.waitdep v) s = .next (s.blockHere c (.deps pd c.eff))) ∧
  (s.Issues f.guard c → c.deadRead (if here then [] else [x]) = none → c.holds tk false →
    s.Completes c (.segq f) fun w => c.Wrote w
      [(tk, fun _ => match (if here then s.pinnedOn c.l c.w.die c.w.core else some (c.w.lane x c.low).toNat) with
        | some n => s.segWord c.l n
        | none => 0xFFFFFFFF)] ((FormX.marked f [(0, x, if here then 0 else 1)]).filter (· != tk))
        (fun _ => if here = true ∨ (c.w.reg x).countsU = true then 0 else 2)) ∧
  (∀ w e eff l, s.warp? w.uid = some w → s.launch? w.launch = some l → (w.entry e).st = .block →
    (w.entry e).wait = .deps pd eff → l.producers.all (s.producerTriggered l) = true →
      exec (.evWaitdepRelease w.uid e) s =
        .next (s.resume w.uid e fun z => z.takeDeps pd eff (s.producersGood l) (s.triggerClock l) (s.triggerPast l)))

/-- The distributor takes the packet at HEAD of a submitted queue: HEAD advances and the launch it names, validated, is held; a
queue that has given every packet is left until its next SUBMIT, one that is not served now stays listed and gives none yet, and
so does one whose next launch id is still in use (the model's choice, log 42); a packet that cannot be read is a failed launch
(log 28). A device launch's packet is read once its issuer's accesses are acknowledged. Validation: an unreadable packet ends
the launch FAILED, FAULT; one with a bad field FAILED, FAULT with the field's offset; one that asks for more than a core holds
FAILED, TOO_LARGE with its code; one for which there are too few dies FAILED, NO_DIES. (14 R327, 14 R328, 14 R331, 14 R332, 14
R335, the model's log 28, the model's log 38, the model's log 42) -/
def Obligations.PacketsTaken : Prop :=
  (∀ (s t t1 t2 : State) (node q : Nat) (packet : Option (List Byte)) (x : Submitted)
     (base size tail head : Nat) (l : Launch) (uid n : Nat) (m : Mask),
   let asid := s.effAsid node; let a := ((s.region? node).map (·.qtable.toNat)).getD 0 + 32 * q
   let used := s.launches.any fun l => l.id == launchId node q head && l.open_
   (s.submitted.find? (fun p => p.node == node && p.queue == q) = some x →
     (s.readQueue node q = (t, none) → exec (.evQueuePacketTake node q) s = .next s) ∧
     (s.readQueue node q = (t, some (base, size, tail, head)) →
       (tail ≤ head → exec (.evQueuePacketTake node q) s = .next (t.unsubmit node q)) ∧
       (head < tail → used = true → exec (.evQueuePacketTake node q) s = .next s) ∧
       (head < tail → used = false → t.frontRead asid (base + 128 * (head % size)) 128 = (t1, packet) →
         t1.frontWrite asid node (a + 0x18) (leBytes 8 (head + 1)) 0 none = some t2 →
           let v := t2.validate { id := launchId node q head, node := node, source := q, seq := head % 2 ^ 47, past := x.past } packet
           exec (.evQueuePacketTake node q) s = .next (v.1.holdLaunch v.2)))) ∧
   (s.launches.find? (fun l => l.source == 16 && l.seq == n && l.phase == .reading) = some l → l.issuer = some (uid, base, m) →
     l.cancelled = false → s.acknowledged uid base m = true → s.frontRead (s.effAsid l.node) l.address.toNat 128 = (t, packet) →
       ∃ k : Stamp, l.carried ≤ k ∧
         let v := t.validate { l with carried := k } packet
         exec (.evDeviceLaunchRead n) s = .next (v.1.putLaunch v.2))) ∧
  (∀ (s : State) (l : Launch) (b : List Byte),
   let p := parsePacket b
   let fails (packet : Option (List Byte)) (reason fld : Nat) : Prop :=
     (s.validate l packet).2.killed = true ∧ (s.validate l packet).2.failReason = reason ∧ (s.validate l packet).2.failField = fld ∧
       (s.validate l packet).2.id = l.id
   fails none 6 0xFF ∧
   (p.timetable = 0 → p.travel = false →
     (∀ off, packetFault p l (s.negotiated.getD 1 0) none = some off → fails (some b) 6 off) ∧
     (packetFault p l (s.negotiated.getD 1 0) none = none →
       (∀ code, tooLarge p p.regs p.shared p.spill = some code → fails (some b) 16 code) ∧
       (tooLarge p p.regs p.shared p.spill = none → (∀ d, d < 8 → s.online d = false) → 0 < p.mindie → fails (some b) 17 0))))

/-- A launch that completes leaves memory as the writing of its record does, and leaves the distributor with its status and end
stamp; its ticket and its die store end with it. One with a step due, all of whose accesses and engine operations are done, is
prepared again instead, from its first workgroup, its step counted where that does not fail it. The distributor's and the cores'
other events. The deal serves the launches with work to place, all in one event (log 36), turn by turn: a turn places the next
workgroup, if its core has room, on the slots that the core's rotation gives it, its warps' registers dead, at the launch's
entry. The pre-emption hint is sent once. A thread record of a departed lane, the lowest thread id of those that can ship first,
enters the shortest queue of its segment, or its overflow area, or is a SEGMENT_OVERFLOW (0x29); it was written in one event
(log 27). A core forms a warp from the oldest records of a PC in its queue, which carry its lanes' thread ids and registers. A
scheduler's choice, once in a cycle, comes to the issue stage. (14 R330, 14 R338, 14 R342, 14 R347, 16 R357, 11 R280, 11 R282,
the model's log 36, the model's log 27, 11 R281) -/
def Obligations.Distributor : Prop :=
  (∀ (s t : State) (l m : Launch),
   let ends (k : DWord) : DWord :=
     if l.source = 16 ∧ tkState k = 1 ∧ tkKind k = 3 ∧ tkDie k = 8 ∧ tkUnit k = 0 ∧ tkSeq k = l.seq % 2 ^ 40 then
       ticketVal l.outcome.1 l.outcome.2.1 3 8 0 l.seq
     else k
   let k : Launch := { l with stepped := false, nextWg := 0, total := l.packet.grid, barcBroken := [], pbarReady := [], starved := 0,
                              hinted := false, stamp := max l.stamp l.endStamp, past := joinPast l.past l.endPast, dealt := false,
                              roomy := [] }
   s.launch? l.id = some l →
     (s.noReaders → s.completes l = true → s.Happens (.evLaunchCompletion l.id) fun u =>
       u.mem = (s.writeRecord l (max s.tick l.endStamp)).mem ∧ (l.packet.complete = 0 → u.mem = s.mem) ∧
       (∃ m, u.launch? l.id = some m ∧ m.phase = .ended ∧ m.status = some l.statusWord ∧ m.stampEnd = max s.tick l.endStamp) ∧
       (∀ a ∈ u.allocs, a.launch ≠ some l.id) ∧ (∀ a ∈ s.allocs, a.launch ≠ some l.id → a ∈ u.allocs) ∧
       ∀ w ∈ s.warps, ∃ v ∈ u.warps, v = { w with clock := v.clock, endPasts := v.endPasts, tickets := w.tickets.map ends }) ∧
     (l.phase = .running → l.stepDue = true → s.wgsEnded l = true → s.accessesDone l = true → s.opsDone l = true →
       s.prepare k true = (t, m) →
         let n := if m.killed then m else { m with step := m.step + 1 }
         exec (.evStepBoundary l.id) s = .next (State.stabilise (State.serve
           { t.putLaunch n with allocs := (t.putLaunch n).allocs.filter fun a => a.launch != some l.id || n.dies.contains a.die })))) ∧
  (∀ (s t u : State) (l m : Launch) (d : Departure) (q : ArrivalQueue) (k : Launch)
     (w : Warp) (g : Workgroup) (e line : Nat) (i : Instr) (p : PC) (sg : Segment),
   let pc := (w.entry e).pc
   (s.launch? l.id = some l → s.servable l = true → exec (.evDeal l.id) s = .next (State.stabilise s.serve)) ∧
   ((∀ x ∈ s.served, s.turnOf x = none) → s.serve.warps = s.warps ∧ s.serve.wgs = s.wgs ∧ s.serve.mem = s.mem) ∧
   (∀ die core slots ptr, s.launch? l.id = some l → l.saved = [] → l.nextWg < l.total → s.room l die core = some (slots, ptr) →
     ∃ (v : State) (h : Workgroup) (ws : List Warp) (n : Launch), s.offerCore l.id die core = some v ∧ v.wgs = s.wgs ++ [h] ∧ v.warps = s.warps ++ ws ∧
       h.launch = l.id ∧ h.index = l.nextWg ∧ h.die = die ∧ h.core = core ∧ h.threads = l.packet.threads ∧
       h.sharedBytes = roundUp l.shared 1024 ∧ ws.map (·.slot) = slots ∧
       (die * 36 + core < s.cores.length → (v.core die core).rotation = ptr) ∧
       (∀ x ∈ ws, x.launch = l.id ∧ x.wg = h.uid ∧ x.die = die ∧ x.core = core ∧ x.nreg = l.regs ∧ (∀ r, x.reg r = .d) ∧
         (x.entry 0).st = .run ∧ (x.entry 0).pc = l.entry ∧ (x.entry 0).mask = x.living ∧ x.clock = s.placeStamp l ∧
         x.living = firstLanes (l.packet.threads - 32 * x.index) ∧ x.tids = threadIds l.nextWg x.index) ∧
       v.launch? l.id = some n ∧ n.nextWg = l.nextWg + 1 ∧ n.placed = true) ∧
   (s.launch? l.id = some l → s.launch? m.id = some m → l.phase ≠ .ended → l.killed = false → l.cancelled = false →
     (l.nextWg < l.total ∨ l.saved ≠ []) → l.hinted = false → l.starved ≠ 0 → l.starved + 10000 ≤ s.cycle →
     s.effPrio m.node < s.effPrio l.node → (∃ g ∈ s.wgs, g.launch = m.id ∧ g.done = false ∧ g.die ∈ l.dies) →
       exec (.evPreemptionHint l.id m.id) s = .next ((s.logged (.hint l.id m.id)).modLaunch l.id fun l => { l with hinted := true })) ∧
   (s.stages.find? (fun x => x.die == d.die && x.core == d.core && x.record.tid.toNat == d.record.tid.toNat &&
       s.shippable x) = some d → d.cycle < s.cycle →
     (s.stages.any fun x => x.launch == d.launch && x.record.tid.toNat < d.record.tid.toNat &&
       (x.cycle == d.cycle || s.shippable x)) = false →
     State.moveOverflow d.launch d.seg overflowTurns { s with stages := s.stages.erase d } = t → t.launch? d.launch = some k →
       (t.ship k d.seg d.record = some u →
         exec (.evThreadRecordShip d.die d.core d.record.tid.toNat) s = .next (State.stabilise u)) ∧
       (t.ship k d.seg d.record = none →
         exec (.evThreadRecordShip d.die d.core d.record.tid.toNat) s = .next (State.stabilise (t.faultPolicy d.launch 0 0x29)))) ∧
   (s.ship k d.seg d.record = some u → ∃ x, k.segments[d.seg]? = some x ∧
     ((∃ q ∈ s.queues, q.launch = k.id ∧ q.seg = d.seg ∧ q.records.length < x.qdepth ∧ x.overflow = [] ∧
         (∀ y ∈ s.queues, y.launch = k.id → y.seg = d.seg →
           q.records.length * 2 ^ 16 + q.logical ≤ y.records.length * 2 ^ 16 + y.logical) ∧
         u = { s with queues := s.queues.map fun y => if y = q then { y with records := y.records ++ [{ d.record with entered := s.cycle }] } else y }) ∨
       (x.overflow.length < x.ocap ∧ u = s.modLaunch k.id fun n =>
         { n with segments := modAt n.segments d.seg fun y => { y with overflow := y.overflow ++ [d.record] } }))) ∧
   (s.formOn d.die d.core = some (t, q) →
     exec (.evWarpFormation d.die d.core) s = .next (State.stabilise (State.moveOverflow q.launch q.seg overflowTurns t))) ∧
   (s.formWarp q k p = some t → k.segments[q.seg]? = some sg →
     let rs := (q.records.filter (·.nextPc == p)).take 32
     ∃ v : Warp, t.warps = s.warps ++ [v] ∧ v.launch = k.id ∧ v.die = q.die ∧ v.core = q.core ∧ v.formed = true ∧
       v.tids = rs.map (·.tid) ∧ v.living = firstLanes rs.length ∧ v.clock = rs.foldl (fun a r => max a r.clock) 0 ∧
       (v.entry 0).st = .run ∧ (v.entry 0).pc = p ∧ (v.entry 0).mask = v.living ∧
       (∀ n a r, n < sg.limit → n < k.regs → rs[a]? = some r → r.shipped.getLsbD n = true →
         v.lane n a = r.regs.getD n 0 ∧ (v.reg n).code = 2) ∧
       (∀ n, (∀ r ∈ rs, r.shipped.getLsbD n = false) → v.reg n = .d) ∧
       t.queues = s.queues.map fun y => if y = q then { y with records := q.records.filter fun r => !rs.contains r } else y) ∧
   (∀ die core sched, let n := (die * 36 + core) * 4 + sched
     s.issue = none →
     (s.hasIssued n = true → exec (.evSchedulerIssue die core sched) s = .next s) ∧
     (s.hasIssued n = false → s.choose n = some (w, e) → s.launch? w.launch = some l → s.wg? w.wg = some g →
       s.fetchLine w (s.asidOf w) e pc = (t, .line line) →
       lineCheck w.nreg l.packet.travel line (pc.toNat % 8) = .ok (i, none) → t.sequentialFault l w e pc i none = none →
         exec (.evSchedulerIssue die core sched) s = .next { t.noteIssue w.uid e with
           issue := some { warp := w.uid, entry := e, pc := pc, instr := i, second := none } })))

/-- Pre-emption. A running launch that is not idempotent halts, a travel launch's queues and stages with it, in one event; an
idempotent one is discarded, and its workgroups that have not retired will start again. Once the last reply has arrived the save
of a workgroup, with the members of its consist, is complete and its room is free; its save area is kept with it (log 29). A saved
workgroup is restored where there is room, its warps with what they held, what had blocked being at its instruction again. (06
R168, 06 R171, 06 R172, 06 R174, the model's log 29) -/
def Obligations.Preemption : Prop := ∀ (s t : State) (l : Launch) (g : Workgroup) (v : SavedWg) (die core : Nat),
  (s.launch? l.id = some l → l.phase = .running → l.halted = false → l.killed = false → l.cancelled = false →
    l.suspended = false → ((s.wgs.any fun g => g.launch == l.id && !g.done) = true ∨ (l.packet.travel = true ∧ s.noRecords l = false)) →
    s.Happens (.evPreemptionRequest [l.id]) fun u =>
      (l.packet.idempotent = false → u.mem = s.mem ∧ ∃ m, u.launch? l.id = some m ∧ m.suspended = l.packet.travel ∧
        (l.packet.travel = false → m.halted = true)) ∧
      (l.packet.idempotent = true → u = s.discardLaunch l)) ∧
  (s.launch? l.id = some l → (∀ w ∈ (s.discardLaunch l).warps, w.launch ≠ l.id) ∧
    ∃ m vs, (s.discardLaunch l).launch? l.id = some m ∧ vs.map SavedWg.wg = l.saved.map SavedWg.wg ∧
      m.saved = vs ++ (s.unretired l).map fun g => { wg := g, warps := [], spill := [], restart := true }) ∧
  (s.wg? g.uid = some g → s.launch? g.launch = some l → l.halted = true → (s.savedWith g).all (·.done) = false →
    s.saveReady (s.savedWith g) = true → s.Happens (.evSaveComplete g.uid) fun u => u.mem = s.mem ∧
      (∃ m, u.launch? l.id = some m ∧ m.saved = l.saved ++ (s.savedWith g).map (s.saveArea l)) ∧
      ∀ w ∈ u.warps, (s.savedWith g).any (fun h => h.uid == w.wg) = false) ∧
  (s.launches.find? (fun l => l.saved.any fun v => v.wg.uid == g.uid) = some l →
    l.saved.find? (fun v => v.wg.uid == g.uid) = some v → s.mayPlace l = true →
    (if l.packet.consist ≥ 2 then s.restoreConsist l v.wg.consist die (core / 4) else s.restoreWg l v die core) = some t →
      exec (.evRestore g.uid die core) s = .next (State.stabilise t)) ∧
  (∀ slots ptr, s.launch? l.id = some l → s.versionOk v = true → v.restart = false → l.packet.travel = false →
    s.saveRoom l v die core = some (slots, ptr) → v.engines = [] → v.decisions = [] → v.fatal = false →
    ∃ (u : State) (ws : List Warp) (m : Launch), s.restoreWg l v die core = some u ∧ u.warps = s.warps ++ ws ∧
      u.wgs = s.wgs ++ [{ v.wg with die := die, core := core, logical := s.logicalOf l.dies die core, exited := [] }] ∧
      u.launch? l.id = some m ∧ m.saved = l.saved.filter (fun x => !([v].contains x)) ∧ ws.length = (v.warps.zip slots).length ∧
      ∀ (n : Nat) (p : Warp × Nat) (w : Warp), (v.warps.zip slots)[n]? = some p → ws[n]? = some w →
        w = { p.1 with die := die, core := core, slot := p.2, mloop := w.mloop, entries := w.entries } ∧
        ∀ e, (w.entry e).pc = (p.1.entry e).pc ∧ (w.entry e).mask = (p.1.entry e).mask ∧
          (w.entry e).st = (if (p.1.entry e).st = .block then .run else (p.1.entry e).st))

/-! ### Dies, clusters, firmware and the host -/

/-- Sampling and power. A scheduler whose interval has come records its next warp in its cluster's buffer, or counts the record as
lost; a drained record leaves its cluster's buffer, the place it frees taking a LOST record where records were dropped, and stands
in the die's ring where the die has one; a cluster without warps is gated; an emergency pre-empts the resident launches and gates
without draining, keeping the count, which the first record after it says; subnetworks follow the powered one below. (06 R175, 11
R273, 11 R274, 11 R275, 13 R297) -/
def Obligations.SamplingAndPower : Prop := ∀ (s : State) (die core sched k n : Nat) (w : Warp) (ws : List Warp) (r : DWord)
    (rest : List DWord),
  let c := s.core die core; let cl := (s.die die).clusters.getD (core / 4) {}; let cl' := (s.die die).clusters.getD k {}
  die < s.dies.length →
    (die * 36 + core < s.cores.length → core / 4 < (s.die die).clusters.length →
      c.sampctl.getLsbD 0 = true → sched < 4 → s.cycle % 2 ^ (6 + bitsOf c.sampctl.toNat 1 4) = 0 →
      c.sampled.getD sched 0 ≠ s.cycle + 1 → cl.gated = false → (s.die die).harvest.getLsbD core = true →
      sortBy (fun (w : Warp) => (w.slot + 16 - c.rotors.getD sched 0) % 16) ((s.warpsOn die core).filter fun w => w.sched == sched)
        = w :: ws →
        ∃ u, exec (.evSample die core sched) s = .next u ∧ u.mem = s.mem ∧ u.warps = s.warps ∧
          (u.die die).clusters.getD (core / 4) {} = cl.take (s.sampleOf w)) ∧
    (k < (s.die die).clusters.length → cl'.buffer = r :: rest →
      let d := s.die die; let a := dieStoreKey die (4096 * d.ringBase + 8 * (d.ringWidx % (512 * d.ringSize)))
      ∃ u, exec (.evSampleDrain die k) s = .next u ∧ (u.die die).clusters.getD k {} =
          { cl' with buffer := rest ++ (if cl'.lost = 0 then [] else [lostRecord cl'.lost]), lost := 0 } ∧
        (d.ringSize = 0 → u.mem = s.mem ∧ (u.die die).ringWidx = d.ringWidx) ∧
        (d.ringSize ≠ 0 → s.memWf → s.noReaders → keptBut s u a 8 ∧
          (∀ n, n < 8 → Memory.get u.mem (a + n) = (leBytes 8 r.toNat).getD n 0) ∧ (u.die die).ringWidx = d.ringWidx + 1)) ∧
    (k < 9 → k < (s.die die).clusters.length → s.clusterWarps die k = [] →
      ∃ u, exec (.evClusterPowerGate die k) s = .next u ∧ ((u.die die).clusters.getD k {}).gated = true ∧
        ((s.die die).ringSize = 0 → u.mem = s.mem ∧ u.warps = s.warps)) ∧
    (k < (s.die die).clusters.length → s.Happens (.evThermalEmergencyGate die k) fun u => ∃ v : State,
      v = { s with dies := v.dies } ∧ (v.die die).clusters.getD k {} =
        { cl' with gated := true, kept := cl'.kept + cl'.buffer.length + cl'.lost, buffer := [], lost := 0 } ∧
      u = (((s.clusterWarps die k).map (·.launch)).eraseDups).foldl (fun t id => t.preempt id) v) ∧
    (k < (s.die die).clusters.length → cl'.gated = true →
      ∃ u, exec (.evClusterUngate die k) s = .next u ∧ u.mem = s.mem ∧ (u.die die).clusters.getD k {} =
        { cl' with gated := false, kept := 0,
                   buffer := if cl'.kept = 0 then cl'.buffer else cl'.buffer ++ [lostRecord cl'.kept] }) ∧
    (1 ≤ n → n ≤ 3 → (s.die die).subnets.testBit (n - 1) = true → ∃ u, exec (.evSubnetPowerUp die n) s = .next u ∧ u.mem = s.mem ∧
      ∀ j, (u.die die).subnets.testBit j = ((s.die die).subnets.testBit j || j == n)) ∧
    (1 ≤ n → n ≤ 3 → (s.die die).subnets.testBit n = true → ∃ u, exec (.evSubnetPowerDown die n) s = .next u ∧ u.mem = s.mem ∧
      ∀ j, (u.die die).subnets.testBit j = ((s.die die).subnets.testBit j && j != n))

/-- The states of a die. A fatal error of an online die is recorded, and the die then lost; LOSE ends it at once. A lost die is
FENCED, with the kind of its loss, and nothing is allocated on it; a lost die's memory path may fail at any later moment. Firmware
moves an online die without a fatal error (log 38), or a lost one whose memory serves, to EVACUATING; one whose pages have all
moved, once no work remains on a retired one, or a lost one without its path, goes OFFLINE. An evacuating die's pages move one at
a time, each in one event (log 32), each to a destination that is free for it, or it is poisoned where there is none, and the
regions that map it are killed (log 31): a table on the walk first, then the data page whose turn it is, a page that a leaf maps
or the fresh page of a shadow. A move out of that order is refused. A data page that moves to another home keeps its bytes, the
leaves that map it name the new place, and no other byte changes; one that goes out to a host window is kept among the pages that
lie there. (19 R398, 19 R399, 19 R400, 19 R403, 19 R404, 19 R405, the model's log 31, the model's log 32, the model's log 38) -/
def Obligations.DiesAndPages : Prop :=
  (∀ (s : State) (d why : Nat),
   let lost (i : Instr) (why : Nat) (path : Bool) : Prop := s.Happens i fun u =>
     (u.die d).st = 1 ∧ (u.die d).why = why ∧ (u.die d).mempath = path ∧ (∀ a ∈ u.allocs, a.die ≠ d) ∧
       ∀ a ∈ s.allocs, a.die ≠ d → a ∈ u.allocs
   let becomes (i : Instr) (x : Die) : Prop := ∃ u, exec i s = .next u ∧ u = { s with dies := u.dies } ∧ u.die d = x ∧
     ∀ k, k ≠ d → u.die k = s.die k
   d < s.dies.length →
     (s.online d = true → (s.die d).mempath = true →
       lost (.evLoseCommand d) 4 true ∧
       (1 ≤ why → why ≤ 3 → (s.die d).fatal = 0 → becomes (.evDieFatalError d why) { s.die d with fatal := why }) ∧
       ((s.die d).fatal ≠ 0 → lost (.evDieLost d true) (s.die d).fatal true ∧
         s.Happens (.evDieLost d false) fun u => (u.die d).st = 1 ∧ (u.die d).why = (s.die d).fatal ∧ (u.die d).mempath = false)) ∧
     (d < 8 → ((s.die d).st = 0 → (s.die d).fatal = 0 → becomes (.evDieStateWrite d 2) { s.die d with st := 2, why := 5 }) ∧
       ((s.die d).st = 0 → (s.die d).fatal ≠ 0 → exec (.evDieStateWrite d 2) s = .next s) ∧
       ((s.die d).st = 1 → (s.die d).mempath = true → becomes (.evDieStateWrite d 2) { s.die d with st := 2 })) ∧
     ((s.die d).lossShift ≠ none → (s.die d).mempath = true →
       exec (.evMempathFail d) s = .next (State.stabilise ((s.modDie d fun x => { x with mempath := false }).killMapping
         (fun pa _ => homeOf pa == d) (fun t => homeOf t == d)))) ∧
     (d < 8 → (s.die d).st = 2 → s.tablesOn d = [] → s.nextPage d = none →
       ((s.die d).lossShift ≠ none → (s.die d).mempath = true → becomes (.evDieOffline d) { s.die d with st := 3 }) ∧
       ((s.die d).lossShift = none → s.workOn d = false → s.Happens (.evDieOffline d) fun u =>
         (u.die d).st = 3 ∧ (∀ a ∈ u.allocs, a.die ≠ d) ∧ ∀ a ∈ s.allocs, a.die ≠ d → a ∈ u.allocs)) ∧
     (d < 8 → (s.die d).lossShift ≠ none → (s.die d).mempath = false → ((s.die d).st = 1 ∨ (s.die d).st = 2) →
       becomes (.evDieOffline d) { s.die d with st := 3 })) ∧
  (∀ (s : State) (asid root new owner : Nat) (va : DWord) (y : DataPage) (x : Leaf) (p : ShadowPage) (tb : Nat)
     (dest : Option Nat),
   let old := pteAddr x.pte
   let n := roundUp y.bytes 4096
   let first := (s.walkTables va 5 0 root).find? fun t => s.evacuating (homeOf t) && s.toMove (homeOf t) t
   let moved (u : State) (from_ len : Nat) : Prop := ∀ k, k < len → Memory.get u.mem (new + k) = Memory.get s.mem (from_ + k)
   (s.rootOf asid = some root →
     (first = some tb → s.pageBusy tb 4096 = false →
       (s.noDest 4096 4096 .table = true →
         exec (.evPageMove asid va none) s = .next (State.stabilise (s.poisonPage (homeOf tb) tb 4096))) ∧
       (s.destOk new 4096 4096 .table = true → exec (.evPageMove asid va (some new)) s = .next (s.moveTable tb new))) ∧
     (first = none → s.pageDue asid va = none → exec (.evPageMove asid va dest) s = .next s) ∧
     (first = none → s.pageDue asid va = some (owner, y) → s.pageBusy y.pa y.bytes = false →
       (s.noDest y.size n .page = true → exec (.evPageMove asid va none) s = .next (State.stabilise (s.poisonPage (homeOf y.pa) y.pa y.bytes))) ∧
       (s.destOk new y.size n .page = true → exec (.evPageMove asid va (some new)) s = .next (s.movePage owner y new)))) ∧
   (s.pageDue asid va = some (owner, y) → owner = asid ∧ y.va ≤ va.toNat ∧ va.toNat < y.va + y.size ∧
     ∃ d, s.evacuating d = true ∧ s.tablesOn d = [] ∧ s.nextPage d = some (owner, y)) ∧
   (s.memWf → homeOf new < 8 →
     (∀ z ∈ s.leavesIn old x.bytes, z.2.entry + 8 ≤ new ∨ new + x.bytes ≤ z.2.entry) →
       let u := s.movePage owner (.leaf x) new
       moved u old x.bytes ∧
       (s.leavesIn old x.bytes = [(owner, x)] → u.readNat x.entry 8 = (movedLeaf old new x.pte).toNat) ∧
       ∀ k, (k < new ∨ new + x.bytes ≤ k) → (∀ z ∈ s.leavesIn old x.bytes, k < z.2.entry ∨ z.2.entry + 8 ≤ k) →
         Memory.get u.mem k = Memory.get s.mem k) ∧
   (s.memWf → homeOf new < 8 →
     let u := s.movePage owner (.shadow p) new; let m := roundUp (DataPage.shadow p).bytes 4096
     moved u p.new m ∧ keptBut s u new m ∧ u.poolTaken = s.poolTaken.map fun b => if b.1 = p.new then (new, b.2) else b) ∧
   (8 ≤ homeOf new → ∀ i, i < ceilDiv x.bytes 4096 → new + 4096 * i ∈ (s.movePage owner (.leaf x) new).backing))

/-- The registers firmware writes, each within its fields, a sample ring only clear of every allocation (the model's choice, log
38); nothing else of the state changes. (13 R312, 11 R274, 20 R417, 20 R418, 20 R425, 20 R428, the model's log 38) -/
def Obligations.FirmwareRegisters : Prop := ∀ (s : State) (n die core : Nat) (v : DWord) (f : BitVec 128),
  (n < 1024 → exec (.evRootRegisterWrite n v) s = .next { s with roots := tset s.roots n (v &&& 0x000F_FFFF_FFFF_F001) }) ∧
  (let ring (d : Die) : Die := { d with ringSize := v.toNat / 2 ^ 18 % 2 ^ 14, ringBase := v.toNat % 2 ^ 14 }
   let meets := s.allocs.any fun a => a.die == die && (ring { harvest := 0 }).ringMeets a.base a.size
   (meets = false → exec (.evSampleRingWrite die v) s = .next (s.modDie die fun d => { ring d with ringWidx := 0 })) ∧
   (meets = true → exec (.evSampleRingWrite die v) s = .next s)) ∧
  (n < 4 → exec (.evFabricWindowWrite n f) s = .next { s with fabric := s.fabric.set n (f &&& 0xFFFF_FFFE_0000_0FFF_FFFF_FFFF_FFFF_0001) }) ∧
  (s.boot = .firmware → s.fusedSvn ≤ n → n ≤ s.svn → exec (.evSvnRaise n) s = .next { s with fusedSvn := n }) ∧
  (n < s.fusedSvn ∨ s.svn < n → exec (.evSvnRaise n) s = .next s) ∧
  (450 ≤ n → n ≤ 650 → exec (.evOperatingPointChange n) s = .next { s with millivolts := n }) ∧
  (exec (.evRegisterWrite .regionTable v) s = .next { s with regionTable := v }) ∧
  (0 < n → n < 4096 → ∃ m, exec (.evRegisterWrite (.hostAccess n) v) s = .next { s with hostMask := m } ∧
    ∀ k, k ∈ m ↔ if k = n then v.getLsbD 0 = true else k ∈ s.hostMask) ∧
  (exec (.evRegisterWrite (.matrixError die core) v) s = .next (s.modCore die core fun c =>
    { c with matrixErr := c.matrixErr &&& ~~~(v &&& 0xC000_0000_0000_0000) }))

/-- Firmware's part in faults and regions. A walk that faults is recorded, once for the walks of a page in a cycle; a serviced
page wakes the splits that waited for it in BLOCK, in a warp without held lanes or fetches that wait; a decision lets lanes that
wait for firmware replay, or applies the fault policy. A control block that keeps its form is installed, its FLOOR raising the
region's up to the history window (log 38), and any other is an error, each in one event (log 30); a destroyed region's
allocations go; an allocation that fits is made at the lowest free range, one that shrinks keeping its bytes, unless something
may still reach it (log 12). (13 R311, 01 R25, 06 R167, 14 R321, 14 R323, 13 R295, the model's log 38, the model's log 30, the
model's log 12) -/
def Obligations.FirmwareService : Prop := ∀ (s t : State) (die asid level reason node units : Nat) (va : DWord) (kind : AccessKind)
    (w : Warp) (e : Nat) (key : PC),
  let wakes (x : Entry) : Entry := if x.st = .block ∧ x.waitsPage asid va = true then { x with st := .run, wait := .none } else x
  (va.toNat < 2 ^ 57 → s.lookup die asid va = (t, .fault level reason) → exec (.evTranslationWalk die asid va kind) s =
    .next (t.reportWalk (faultRecord va asid kind.code level reason die 0))) ∧
  (∀ a p, va.toNat < 2 ^ 57 → s.lookup die asid va = (t, .leaf level a p) → exec (.evTranslationWalk die asid va kind) s = .next t) ∧
  (s.Happens (.evFaultServiceComplete asid va true) fun u => u.mem = s.mem ∧
    (∀ w ∈ s.warps, (∀ x ∈ w.entries, x.st ≠ .held ∧ ∀ g ∈ x.siding, fetchGroup va g = false) →
      (∀ n, n < 8 → w.canFuse n = false) → ∃ v ∈ u.warps, v = { w with entries := w.entries.map wakes }) ∧
    ∀ r ∈ u.log, r ∈ s.log) ∧
  (s.warp? w.uid = some w → ∀ g, (w.entry e).siding.find? (fun g => g.arrived && g.key == key && isFirmware g.kind) = some g →
    exec (.evFirmwareDecision w.uid e key true) s = .next (State.stabilise (s.putWarp (w.release (fun h => h == g) (·.key)))) ∧
    ∀ cause a, g.kind = .firmware cause a → exec (.evFirmwareDecision w.uid e key false) s =
      .next (State.stabilise (s.faultPolicy w.launch w.wg cause))) ∧
  (node < 4096 →
    let b := s.read (s.regionTable.toNat + 256 * node) 256; let r := parseRegion node b
    let rs := (s.regions.filter fun x => x.node != node) ++ [r]
    ((blockForm node b r && treeForm rs) = false → exec (.evRegionUpdate node) s = .next (s.logged (.regionError node))) ∧
    ((blockForm node b r && treeForm rs) = true → (r.st ≠ 0 ∨ ((s.region? node).map (·.st)).getD 0 = 0) →
      ∃ u, exec (.evRegionUpdate node) s = .next u ∧ u.mem = s.mem ∧ u.regions = sortBy (·.node) rs ∧
        s.regionFloorOf node ≤ u.regionFloorOf node ∧
        min (field b 0x40 8) (s.tick - u.effHwindow node) ≤ u.regionFloorOf node) ∧
    ((blockForm node b r && treeForm rs) = true → r.st = 0 → ((s.region? node).map (·.st)).getD 0 ≠ 0 →
      ∃ u, exec (.evRegionUpdate node) s = .next u ∧ u.regions = sortBy (·.node) rs ∧
        (∀ a ∈ u.allocs, ¬(a.launch = none ∧ a.node = node)) ∧
        ∀ a ∈ s.allocs, ¬(a.launch = none ∧ a.node = node) → a.node ≠ noNode → a ∈ u.allocs)) ∧
  (∀ a, s.regionAlloc? node die = some a → (s.region? node).isSome = true → s.online die = true → units * 65536 ≤ a.size →
    units * 65536 + s.launchBytes node die ≤ s.effDs node die * 65536 → 0 < units → s.memWf →
    (s.inUse a = true → units * 65536 < a.size → exec (.evRegionAllocation node die units) s = .next s) ∧
    ((s.inUse a = false ∨ units * 65536 = a.size) → ∃ u, exec (.evRegionAllocation node die units) s = .next u ∧
        (∀ n, n < units * 65536 → Memory.get u.mem (dieStoreKey die a.base + n) = Memory.get s.mem (dieStoreKey die a.base + n)) ∧
        ∃ x ∈ u.allocs, x = { a with size := units * 65536 })) ∧
  (∀ base, s.regionAlloc? node die = none → (s.region? node).isSome = true → s.online die = true → 0 < units →
    units * 65536 + s.launchBytes node die ≤ s.effDs node die * 65536 → s.dsFits node die (units * 65536) = true →
    s.dieRange die (units * 65536) = some base →
      ∃ u, exec (.evRegionAllocation node die units) s = .next u ∧
        ∃ x ∈ u.allocs, x.die = die ∧ x.launch = none ∧ x.node = node ∧ x.base = base ∧ x.size = units * 65536)

/-- A command that breaks its form is MALFORMED, and one that names a region the host may not name DENIED, its form being checked
first (log 34): nothing else happens. One that comes while another waits for a window, or BOOT verifies, is held behind it, but a
WRITE to the staging buffer while BOOT verifies is BUSY. What a command of good form does, when none waits before it. WRITE stores
its payload in its region's memory, or in the staging buffer before verification; READ answers the bytes; SUBMIT, with interface 1
negotiated alone (log 34), lists its queue, which the distributor serves once it can (log 38); READC parks; GRANT opens a window,
or closes it unless evacuated pages lie in it; NEGOTIATE fixes the highest common version; BOOT starts verification; ATTEST sends
the report to a window. (20 R411, 20 R412, 20 R413, 20 R415, 20 R416, 20 R417, 20 R427, 20 R426, the model's log 34, the model's
log 38) -/
def Obligations.HostCommands : Prop :=
  (∀ (s : State) (p : Packet),
   let i (op : Nat) : Instr := match op with
     | 1 => .evWrite p
     | 2 => .evRead p
     | 3 => .evSubmit p
     | 4 => .evReadc p
     | 5 => .evGrant p
     | 6 => .evNegotiate p
     | 7 => .evBoot p
     | _ => .evAttest p
   (∀ op, 1 ≤ op → op ≤ 8 → (s.mailOp ≠ none ∨ s.verifying = true) → (s.verifying && toStaging p) = false → p.op = op →
     exec (i op) s = .next { s with inbound := s.inbound ++ [p] }) ∧
   (s.verifying = true → toStaging p = true → s.packetForm p 1 = true → argsForm p = true → exec (.evWrite p) s = .next (s.reply p .busy)) ∧
   ∀ op, 1 ≤ op → op ≤ 8 → s.mailOp = none → s.verifying = false →
     ((s.packetForm p op && argsForm p) = false → exec (i op) s = .next (s.reply p .malformed)) ∧
     (op ≤ 4 → s.packetForm p op = true → argsForm p = true → p.region ≠ 0xFFFF → s.hostDenied p.region = true →
       exec (i op) s = .next (s.reply p .denied))) ∧
  (∀ (s : State) (p : Packet),
   let good (op : Nat) : Prop := s.mailOp = none ∧ s.verifying = false ∧ s.packetForm p op = true ∧ argsForm p = true
   let k := dieStoreKey s.stagingDie p.addr.toNat; let asid := s.effAsid p.region
   (good 1 → p.region ≠ 0xFFFF → s.hostDenied p.region = false → ∀ t pa pte, s.xlate 8 asid p.addr .write = (t, .ok pa pte) →
     let tt := t.touch 8 asid p.addr true t.mailWriter
     inWindow pa = false → tt.gone pa = false → tt.memWf → tt.noReaders →
       ∃ u : State, exec (.evWrite p) s = .next (u.reply p .ok) ∧ keptBut tt u pa p.len ∧
         ∀ n, n < p.len → Memory.get u.mem (pa + n) = p.payload.getD n 0) ∧
   (good 1 → p.region = 0xFFFF → s.boot = .boot → exec (.evWrite p) s = .next ((s.write k p.payload).reply p .ok)) ∧
   (good 2 → p.region = 0xFFFF → s.boot ≠ .firmware →
     exec (.evRead p) s = .next (s.reply p .ok 0 (s.read k p.arg1.toNat))) ∧
   (good 2 → p.region ≠ 0xFFFF → s.hostDenied p.region = false → ∀ t bs,
     State.readVirt (s.mailReader p.region s.fresh p.addr) 3 2 ({ s with fresh := s.fresh + 1 } : State) p.addr.toNat p.arg1.toNat =
       .ok t bs →
       ∃ u : State, exec (.evRead p) s = .next (u.reply p .ok 0 bs) ∧ s.mailClock ≤ u.mailClock ∧ u.mem = t.mem) ∧
   (good 3 → s.hostDenied p.region = false → s.negotiated.getD 1 0 ≠ 0 → ∀ t q, s.readQueue p.region p.arg1.toNat = (t, q) →
     ∃ u : State, exec (.evSubmit p) s = .next (u.reply p .ok) ∧ u = { t with submitted := u.submitted } ∧
       (⟨p.region, p.arg1.toNat, pastAdd s.mailPast mailAgent s.fresh⟩ : Submitted) ∈ u.submitted) ∧
   (good 4 → s.hostDenied p.region = false → s.parked.length < 64 → ∀ t pa pte,
     s.xlate 8 (s.effAsid p.region) p.addr .read = (t, .ok pa pte) → ∃ (u : State) (r : ParkedReadc), exec (.evReadc p) s = .next u ∧
       u.mem = t.mem ∧ u.outbound = t.outbound ∧ u.parked = t.parked ++ [r] ∧ r.packet = p ∧
       r.deadline = if p.arg1 = 0 then none else some (s.tick + 1000 * p.arg1.toNat)) ∧
   (good 5 →
     let n := p.arg1.toNat % 4; let w : HostWindow := { base := p.addr.toNat, size := p.arg0.toNat, flags := p.arg1.toNat }
     let used := s.backed.any fun pa => homeOf pa == 8 + n
     (p.arg0 ≠ 0 → exec (.evGrant p) s = .next (State.reply { s with windows := s.windows.set n w } p .ok)) ∧
     (p.arg0 = 0 → used = true → exec (.evGrant p) s = .next (s.reply p .busy)) ∧
     (p.arg0 = 0 → used = false → exec (.evGrant p) s = .next (State.reply { s with windows := s.windows.set n {} } p .ok))) ∧
   (good 6 → let i := p.arg1.toNat; let v := min (s.offered i).2 (p.arg0.toNat / 2 ^ 16)
     (s.boot = .firmware ∨ i = 0) → max (s.offered i).1 (p.arg0.toNat % 2 ^ 16) ≤ v →
       (s.negotiated.getD i 0 = 0 ∨ s.negotiated.getD i 0 = v ∨ (s.launches.any (·.open_)) = false) →
       exec (.evNegotiate p) s = .next (State.reply { s with negotiated := s.negotiated.set i v } p .ok (BitVec.ofNat 64 v))) ∧
   (good 7 → s.boot = .boot → (∀ q ∈ s.inbound, toStaging q = false) → exec (.evBoot p) s = .next { s with boot := .verifying p }) ∧
   (good 8 → 8 ≤ homeOf p.addr.toNat → homeOf p.addr.toNat ≤ 11 →
     let w := s.windows.getD (homeOf p.addr.toNat - 8) {}
     offsetOf p.addr.toNat + 17248 ≤ w.size → w.flags.testBit 2 = true → ∃ u, exec (.evAttest p) s = .next u ∧ u.mem = s.mem ∧
       u.mailOp = some (p, s.fresh) ∧ u.accesses.length = s.accesses.length + 1 ∧
       ∃ a ∈ u.accesses, a.op = .frontWrite s.fresh ∧ a.lanes.length = 539))

/-- Parked reads and boot. A parked READC of a TAG answers OK with the record once the record names the expected launch, or
TIMEOUT at its deadline, and stays while its first eight bytes do not match; verification starts firmware with its measurement,
the SHA-384 of the image (log 43), and sets aside a history reserve of 1 to 12 shares (log 38), or zeroes the staging buffer;
the commands held behind it then follow. Windows and the fabric. An answer to a window access is its lane's; after 1,000,000
ticks without one, or with no live port, the lane ends without; a peer's write is performed and acknowledged, its read answered
with the bytes, or as poison where the home is unreachable, whose writes are dropped. A reset of the front die is the state
after reset, its memory empty (log 1), with what is fused. (20 R416, 20 R419, 20 R420, 20 R421, 20 R422, 20 R424, the model's
log 1, the model's log 38, the model's log 43) -/
def Obligations.HostAndFabric : Prop :=
  (∀ (s : State) (r : ParkedReadc) (p : Packet) (tag : Nat),
   let mine (x : ParkedReadc) : Bool := x.packet.tag == tag
   let due (x : ParkedReadc) : Bool := mine x && (match x.deadline with
     | some t => decide (t ≤ s.tick)
     | none => false)
   (∀ t bs, s.parked.filter mine = [r] →
     State.readVirt (s.mailReader r.packet.region r.op r.packet.addr) 3 2 s r.packet.addr.toNat 8 = .ok t bs →
     (leNat bs ≠ r.packet.arg0.toNat → ∃ u : State, exec (.evReadcMatch tag) s = .next u ∧ u.mem = t.mem ∧ u.parked = t.parked ∧
       u.outbound = t.outbound) ∧
     (∀ v cs, leNat bs = r.packet.arg0.toNat → cs ≠ [] →
       State.readVirt (t.mailReader r.packet.region r.op r.packet.addr) 3 2 t r.packet.addr.toNat 64 = .ok v cs →
         ∃ u : State, exec (.evReadcMatch tag) s = .next (u.reply r.packet .ok 0 cs) ∧
           u.mem = v.mem ∧ u.parked = v.parked.filter (fun x => x != r))) ∧
   (exec (.evReadcMatch tag) s = .next ((s.parked.filter mine).foldl (fun s r => s.readcMatch r) s)) ∧
   (∃ u : State, exec (.evReadcTimeout tag) s = .next u ∧ u.mem = s.mem ∧
     (∀ x, x ∈ u.parked ↔ x ∈ s.parked ∧ due x = false) ∧
     u.outbound = s.outbound ++ (s.parked.filter due).map fun x =>
       { op := x.packet.op % 128 + 128, tag := x.packet.tag, region := x.packet.region, len := 0, arg0 := 0,
         status := MailStatus.code .timeout, payload := [] }) ∧
   (s.boot = .verifying p →
     let k := dieStoreKey s.stagingDie 0
     (s.imageGood p.arg0.toNat = true → ∃ u : State, exec .evBootVerify s = .next (u.reply p .ok).finishMail ∧ u.boot = .firmware ∧
       u.measurement = sha384 (s.read k p.arg0.toNat) ∧ u.svn = s.readNat (k + 8) 8 ∧ u.mem = s.mem ∧
       1 ≤ u.hreserve ∧ u.hreserve ≤ 12) ∧
     (s.imageGood p.arg0.toNat = false → ∃ u : State, exec .evBootVerify s = .next (u.reply p .verifyFailed).finishMail ∧ u.boot = .boot ∧
       keptBut s u k stagingBytes ∧ ∀ n, n < stagingBytes → Memory.get u.mem (k + n) = 0))) ∧
  (∀ (s : State) (a : Access) (x : LaneAcc) (data : BitVec 128) (r : FabricRequest) (n : Nat),
   (s.access? a.id = some a → a.lanes.find? (fun y => y.lane == x.lane) = some x → x.done = false → inWindow x.pa = true → x.sent = true →
     exec (.evWindowAccessReply a.id x.lane data) s = .next (State.stabilise (s.windowLane a x (some data.toNat)).releaseWindows.finishMail) ∧
     ((a.since + 1000000 ≤ s.tick ∨ s.noPort x.pa = true) →
       exec (.evWindowTimeout a.id x.lane) s = .next (State.stabilise (s.windowLane a x none).releaseWindows.finishMail))) ∧
   (∃ u, exec (.evFabricPortDown n) s = .next u ∧ u = { s with ports := u.ports } ∧
     ∀ k, k < 8 → u.ports.getLsbD k = (s.ports.getLsbD k && k != n)) ∧
   (r.port < 8 → s.ports.getLsbD r.port = true → homeOf r.pa < 8 → s.gone r.pa = true →
     (r.write = true → r.data ≠ [] → offsetOf r.pa + r.data.length ≤ s.populated → exec (.evFabricRemoteRequest r) s =
       .next { s with fabricOut := s.fabricOut ++ [{ port := r.port, pa := r.pa, data := [] }] }) ∧
     (r.write = false → 0 < r.len → offsetOf r.pa + r.len ≤ s.populated → ∃ u, exec (.evFabricRemoteRequest r) s = .next u ∧
       u.mem = s.mem ∧ u.fabricOut = s.fabricOut ++ [{ port := r.port, pa := r.pa, data := [], poison := true }])) ∧
   (r.port < 8 → s.ports.getLsbD r.port = true → homeOf r.pa < 8 → s.gone r.pa = false → s.memWf → s.noReaders →
     (r.write = true → r.data ≠ [] → offsetOf r.pa + r.data.length ≤ s.populated → ∃ u, exec (.evFabricRemoteRequest r) s = .next u ∧
       (∀ k, k < r.data.length → Memory.get u.mem (r.pa + k) = r.data.getD k 0) ∧ keptBut s u r.pa r.data.length ∧
       u.fabricOut = s.fabricOut ++ [{ port := r.port, pa := r.pa, data := [] }]) ∧
     (r.write = false → 0 < r.len → offsetOf r.pa + r.len ≤ s.populated → s.poisonAt r.pa r.len = none →
       ∃ u, exec (.evFabricRemoteRequest r) s = .next u ∧ u.mem = s.mem ∧
         u.fabricOut = s.fabricOut ++ [{ port := r.port, pa := r.pa, data := s.read r.pa r.len }])) ∧
   (∃ u, exec .evFrontDieReset s = .next u ∧ u.mem = [] ∧ u.boot = .boot ∧ u.fusedSvn = s.fusedSvn ∧ u.launches = [] ∧ u.warps = [] ∧
     u.dies.map (·.harvest) = s.dies.map (·.harvest) ∧ ∀ d ∈ u.dies, d.st = 0 ∧ d.mempath = true))
end

