-- ==== Sys2Proof/Laws/Memory.lean ====
section
/-! SUPPORT. Laws/Memory.lean: the laws of the memory list: a read after a write, the canonical form, and what every
operation of the state over memory does to both (log 1). -/

namespace Sys2Proof.Machine

/-- Every listed key is above `k`. -/
def Memory.above (k : Nat) (m : List (Nat × Byte)) : Prop := ∀ c ∈ m, k < c.1

/-- The canonical form, unfolded once. -/
theorem Memory.wf_cons (a : Nat) (v : Byte) (r : List (Nat × Byte)) :
    Memory.wf ((a, v) :: r) = true ↔ v ≠ Memory.blank ∧ Memory.above a r ∧ Memory.wf r = true := by
  induction r generalizing a v with
  | nil => simp [Memory.wf, Memory.above]
  | cons c r ih =>
    obtain ⟨b, w⟩ := c
    have hw := ih b w
    simp only [Memory.wf, Bool.and_eq_true, decide_eq_true_eq, bne_iff_ne, ne_eq, Memory.above, List.mem_cons,
      forall_eq_or_imp] at *
    constructor
    · rintro ⟨⟨h1, h2⟩, h3⟩
      obtain ⟨hb, ha, _⟩ := hw.mp h3
      exact ⟨h2, ⟨h1, fun c hc => Nat.lt_trans h1 (ha c hc)⟩, h3⟩
    · rintro ⟨h1, ⟨h2, _⟩, h4⟩
      exact ⟨⟨h2, h1⟩, h4⟩

/-- The empty memory is canonical. -/
@[simp] theorem Memory.wf_nil : Memory.wf [] = true := rfl

/-- A write changes one byte. -/
theorem Memory.get_set_ne {m : List (Nat × Byte)} {a b : Nat} (h : b ≠ a) (v : Byte) :
    Memory.get (Memory.set m a v) b = Memory.get m b := by
  induction m with
  | nil => simp only [Memory.set]; split <;> simp [Memory.get, h]
  | cons c r ih =>
    obtain ⟨k, w⟩ := c
    simp only [Memory.set]
    repeat' split
    all_goals simp_all [Memory.get]

/-- A key below every listed key reads blank. -/
theorem Memory.get_above {m : List (Nat × Byte)} {k a : Nat} (h : Memory.above k m) (ha : a ≤ k) :
    Memory.get m a = Memory.blank := by
  induction m with
  | nil => rfl
  | cons c r ih =>
    have h1 := h c (by simp)
    simp only [Memory.get]
    rw [if_neg (by omega)]
    exact ih fun d hd => h d (by simp [hd])

/-- A read after a write to the same key gives the byte written. -/
theorem Memory.get_set {m : List (Nat × Byte)} (hm : Memory.wf m = true) (a : Nat) (v : Byte) :
    Memory.get (Memory.set m a v) a = v := by
  induction m with
  | nil => simp only [Memory.set]; split <;> simp_all [Memory.get]
  | cons c r ih =>
    obtain ⟨k, w⟩ := c
    obtain ⟨_, hab, hr⟩ := (Memory.wf_cons k w r).mp hm
    have hlow : a ≤ k → Memory.get r a = Memory.blank := Memory.get_above hab
    simp only [Memory.set]
    split
    · have : a ≠ k := by omega
      split <;> simp_all [Memory.get]
      exact hlow (by omega)
    · split
      · split <;> simp_all [Memory.get]
      · simp_all [Memory.get]

/-- Writing above keeps what is above. -/
theorem Memory.above_set {m : List (Nat × Byte)} {k a : Nat} (h : Memory.above k m) (ha : k < a) (v : Byte) :
    Memory.above k (Memory.set m a v) := by
  induction m with
  | nil => simp only [Memory.set]; split <;> simp_all [Memory.above]
  | cons c r ih =>
    obtain ⟨b, w⟩ := c
    have ih := ih fun d hd => h d (by simp [hd])
    simp only [Memory.above, List.mem_cons, forall_eq_or_imp] at h
    simp only [Memory.set]
    repeat' split
    all_goals (simp_all [Memory.above] <;> first | exact h.2 | exact ih)

/-- A write keeps the canonical form. -/
theorem Memory.wf_set {m : List (Nat × Byte)} (hm : Memory.wf m = true) (a : Nat) (v : Byte) :
    Memory.wf (Memory.set m a v) = true := by
  induction m with
  | nil => simp only [Memory.set]; split <;> simp_all [Memory.wf]
  | cons c r ih =>
    obtain ⟨b, w⟩ := c
    obtain ⟨hw, hab, hr⟩ := (Memory.wf_cons b w r).mp hm
    have hup : a < b → Memory.above a ((b, w) :: r) := fun h => by
      intro d hd
      simp only [List.mem_cons] at hd
      rcases hd with rfl | hd
      · exact h
      · exact Nat.lt_trans h (hab d hd)
    simp only [Memory.set]
    split
    · split
      · exact hm
      · exact (Memory.wf_cons a v _).mpr ⟨by assumption, hup (by assumption), hm⟩
    · split
      · split
        · exact hr
        · subst_vars; exact (Memory.wf_cons _ v r).mpr ⟨by assumption, hab, hr⟩
      · exact (Memory.wf_cons b w _).mpr ⟨hw, Memory.above_set hab (by omega) v, ih hr⟩

/-- Writing a run of bytes keeps the canonical form. -/
theorem Memory.wf_setAll {m : List (Nat × Byte)} (hm : Memory.wf m = true) (a : Nat) (bs : List Byte) :
    Memory.wf (Memory.setAll m a bs) = true := by
  induction bs generalizing m a with
  | nil => exact hm
  | cons v r ih => exact ih (Memory.wf_set hm a v) (a + 1)

/-- Keys outside a run of bytes written keep their byte. -/
theorem Memory.get_setAll_out {m : List (Nat × Byte)} {a k : Nat} {bs : List Byte} (h : k < a ∨ a + bs.length ≤ k) :
    Memory.get (Memory.setAll m a bs) k = Memory.get m k := by
  induction bs generalizing m a with
  | nil => rfl
  | cons v r ih =>
    simp only [List.length_cons] at h
    rw [Memory.setAll, ih (by omega), Memory.get_set_ne (by omega)]

/-- Keys inside a run of bytes written read those bytes. -/
theorem Memory.get_setAll_in {m : List (Nat × Byte)} (hm : Memory.wf m = true) {a k : Nat} {bs : List Byte} (h1 : a ≤ k)
    (h2 : k < a + bs.length) : Memory.get (Memory.setAll m a bs) k = bs.getD (k - a) 0 := by
  induction bs generalizing m a with
  | nil => simp at h2; omega
  | cons v r ih =>
    simp only [List.length_cons] at h2
    rw [Memory.setAll]
    by_cases hk : k = a
    · subst hk
      rw [Memory.get_setAll_out (by omega), Memory.get_set hm]; simp
    · rw [ih (Memory.wf_set hm a v) (by omega) (by omega)]
      have : k - a = (k - (a + 1)) + 1 := by omega
      rw [this]; simp

/-- A run of bytes written is read back. -/
theorem Memory.bytes_setAll {m : List (Nat × Byte)} (hm : Memory.wf m = true) (a : Nat) (bs : List Byte) :
    Memory.bytes (Memory.setAll m a bs) a bs.length = bs := by
  refine List.ext_getElem (by simp [Memory.bytes]) fun i h _ => ?_
  have hi : i < bs.length := by simpa [Memory.bytes] using h
  have hr := Memory.get_setAll_in hm (Nat.le_add_right a i) (show a + i < a + bs.length by omega)
  simp [Memory.bytes, hr, hi]

/-- Entries removed leave the form canonical. -/
theorem Memory.wf_filter {m : List (Nat × Byte)} (hm : Memory.wf m = true) (p : Nat × Byte → Bool) :
    Memory.wf (m.filter p) = true := by
  induction m with
  | nil => rfl
  | cons c r ih =>
    obtain ⟨b, w⟩ := c
    obtain ⟨hw, hab, hr⟩ := (Memory.wf_cons b w r).mp hm
    simp only [List.filter]
    split
    · exact (Memory.wf_cons b w _).mpr ⟨hw, fun d hd => hab d (List.mem_filter.mp hd).1, ih hr⟩
    · exact ih hr

/-- Making a range blank keeps the canonical form. -/
theorem Memory.wf_wipe {m : List (Nat × Byte)} (hm : Memory.wf m = true) (lo hi : Nat) :
    Memory.wf (Memory.wipe m lo hi) = true := Memory.wf_filter hm _

/-- Inside a blanked range every byte is blank. -/
theorem Memory.get_wipe_in {m : List (Nat × Byte)} {lo hi k : Nat} (h1 : lo ≤ k) (h2 : k < hi) :
    Memory.get (Memory.wipe m lo hi) k = Memory.blank := by
  induction m with
  | nil => rfl
  | cons c r ih =>
    obtain ⟨b, w⟩ := c
    simp only [Memory.wipe, List.filter] at *
    split
    · simp only [Memory.get]
      rw [if_neg]
      · exact ih
      · rintro rfl; simp_all; omega
    · exact ih

/-- Outside it every byte is as before. -/
theorem Memory.get_wipe_out {m : List (Nat × Byte)} {lo hi k : Nat} (h : k < lo ∨ hi ≤ k) :
    Memory.get (Memory.wipe m lo hi) k = Memory.get m k := by
  induction m with
  | nil => rfl
  | cons c r ih =>
    obtain ⟨b, w⟩ := c
    simp only [Memory.wipe, List.filter] at *
    split
    · simp only [Memory.get, ih]
    · have : k ≠ b := by rintro rfl; simp_all; omega
      simp only [Memory.get, if_neg this, ih]

end Sys2Proof.Machine
end

