-- ==== Sys2Proof/Laws/State.lean ====
section
/-! SUPPORT. Laws/State.lean: one lemma per field per update of the state, true by unfolding, so that no proof unfolds a record
update; and what an update does to the field it writes. -/

namespace Sys2Proof.Machine

/-! ### write -/

@[simp] theorem State.write_cycle (s : State) (k : Nat) (bs : List Byte) : (s.write k bs).cycle = s.cycle := rfl
@[simp] theorem State.write_tick (s : State) (k : Nat) (bs : List Byte) : (s.write k bs).tick = s.tick := rfl
@[simp] theorem State.write_millivolts (s : State) (k : Nat) (bs : List Byte) : (s.write k bs).millivolts = s.millivolts := rfl
@[simp] theorem State.write_hreserve (s : State) (k : Nat) (bs : List Byte) : (s.write k bs).hreserve = s.hreserve := rfl
@[simp] theorem State.write_sliceClock (s : State) (k : Nat) (bs : List Byte) : (s.write k bs).sliceClock = s.sliceClock := rfl
@[simp] theorem State.write_opClock (s : State) (k : Nat) (bs : List Byte) : (s.write k bs).opClock = s.opClock := rfl
@[simp] theorem State.write_stamps (s : State) (k : Nat) (bs : List Byte) : (s.write k bs).stamps = s.stamps := rfl
@[simp] theorem State.write_versions (s : State) (k : Nat) (bs : List Byte) : (s.write k bs).versions = s.versions := rfl
@[simp] theorem State.write_histPages (s : State) (k : Nat) (bs : List Byte) : (s.write k bs).histPages = s.histPages := rfl
@[simp] theorem State.write_mapHistory (s : State) (k : Nat) (bs : List Byte) : (s.write k bs).mapHistory = s.mapHistory := rfl
@[simp] theorem State.write_stackFloor (s : State) (k : Nat) (bs : List Byte) : (s.write k bs).stackFloor = s.stackFloor := rfl
@[simp] theorem State.write_regionFloor (s : State) (k : Nat) (bs : List Byte) : (s.write k bs).regionFloor = s.regionFloor := rfl
@[simp] theorem State.write_floorsInEffect (s : State) (k : Nat) (bs : List Byte) : (s.write k bs).floorsInEffect = s.floorsInEffect := rfl
@[simp] theorem State.write_pendingFloors (s : State) (k : Nat) (bs : List Byte) : (s.write k bs).pendingFloors = s.pendingFloors := rfl
@[simp] theorem State.write_frontierG (s : State) (k : Nat) (bs : List Byte) : (s.write k bs).frontierG = s.frontierG := rfl
@[simp] theorem State.write_roots (s : State) (k : Nat) (bs : List Byte) : (s.write k bs).roots = s.roots := rfl
@[simp] theorem State.write_tlb (s : State) (k : Nat) (bs : List Byte) : (s.write k bs).tlb = s.tlb := rfl
@[simp] theorem State.write_walks (s : State) (k : Nat) (bs : List Byte) : (s.write k bs).walks = s.walks := rfl
@[simp] theorem State.write_dies (s : State) (k : Nat) (bs : List Byte) : (s.write k bs).dies = s.dies := rfl
@[simp] theorem State.write_cores (s : State) (k : Nat) (bs : List Byte) : (s.write k bs).cores = s.cores := rfl
@[simp] theorem State.write_regionTable (s : State) (k : Nat) (bs : List Byte) : (s.write k bs).regionTable = s.regionTable := rfl
@[simp] theorem State.write_regions (s : State) (k : Nat) (bs : List Byte) : (s.write k bs).regions = s.regions := rfl
@[simp] theorem State.write_allocs (s : State) (k : Nat) (bs : List Byte) : (s.write k bs).allocs = s.allocs := rfl
@[simp] theorem State.write_launches (s : State) (k : Nat) (bs : List Byte) : (s.write k bs).launches = s.launches := rfl
@[simp] theorem State.write_wgs (s : State) (k : Nat) (bs : List Byte) : (s.write k bs).wgs = s.wgs := rfl
@[simp] theorem State.write_warps (s : State) (k : Nat) (bs : List Byte) : (s.write k bs).warps = s.warps := rfl
@[simp] theorem State.write_accesses (s : State) (k : Nat) (bs : List Byte) : (s.write k bs).accesses = s.accesses := rfl
@[simp] theorem State.write_copies (s : State) (k : Nat) (bs : List Byte) : (s.write k bs).copies = s.copies := rfl
@[simp] theorem State.write_shadows (s : State) (k : Nat) (bs : List Byte) : (s.write k bs).shadows = s.shadows := rfl
@[simp] theorem State.write_poolTaken (s : State) (k : Nat) (bs : List Byte) : (s.write k bs).poolTaken = s.poolTaken := rfl
@[simp] theorem State.write_ends (s : State) (k : Nat) (bs : List Byte) : (s.write k bs).ends = s.ends := rfl
@[simp] theorem State.write_resolving (s : State) (k : Nat) (bs : List Byte) : (s.write k bs).resolving = s.resolving := rfl
@[simp] theorem State.write_queues (s : State) (k : Nat) (bs : List Byte) : (s.write k bs).queues = s.queues := rfl
@[simp] theorem State.write_submitted (s : State) (k : Nat) (bs : List Byte) : (s.write k bs).submitted = s.submitted := rfl
@[simp] theorem State.write_stages (s : State) (k : Nat) (bs : List Byte) : (s.write k bs).stages = s.stages := rfl
@[simp] theorem State.write_devSeq (s : State) (k : Nat) (bs : List Byte) : (s.write k bs).devSeq = s.devSeq := rfl
@[simp] theorem State.write_rotation (s : State) (k : Nat) (bs : List Byte) : (s.write k bs).rotation = s.rotation := rfl
@[simp] theorem State.write_turns (s : State) (k : Nat) (bs : List Byte) : (s.write k bs).turns = s.turns := rfl
@[simp] theorem State.write_freed (s : State) (k : Nat) (bs : List Byte) : (s.write k bs).freed = s.freed := rfl
@[simp] theorem State.write_coaches (s : State) (k : Nat) (bs : List Byte) : (s.write k bs).coaches = s.coaches := rfl
@[simp] theorem State.write_lineOps (s : State) (k : Nat) (bs : List Byte) : (s.write k bs).lineOps = s.lineOps := rfl
@[simp] theorem State.write_lineStart (s : State) (k : Nat) (bs : List Byte) : (s.write k bs).lineStart = s.lineStart := rfl
@[simp] theorem State.write_lineShift (s : State) (k : Nat) (bs : List Byte) : (s.write k bs).lineShift = s.lineShift := rfl
@[simp] theorem State.write_catches (s : State) (k : Nat) (bs : List Byte) : (s.write k bs).catches = s.catches := rfl
@[simp] theorem State.write_hostMask (s : State) (k : Nat) (bs : List Byte) : (s.write k bs).hostMask = s.hostMask := rfl
@[simp] theorem State.write_windows (s : State) (k : Nat) (bs : List Byte) : (s.write k bs).windows = s.windows := rfl
@[simp] theorem State.write_fabric (s : State) (k : Nat) (bs : List Byte) : (s.write k bs).fabric = s.fabric := rfl
@[simp] theorem State.write_ports (s : State) (k : Nat) (bs : List Byte) : (s.write k bs).ports = s.ports := rfl
@[simp] theorem State.write_backing (s : State) (k : Nat) (bs : List Byte) : (s.write k bs).backing = s.backing := rfl
@[simp] theorem State.write_boot (s : State) (k : Nat) (bs : List Byte) : (s.write k bs).boot = s.boot := rfl
@[simp] theorem State.write_measurement (s : State) (k : Nat) (bs : List Byte) : (s.write k bs).measurement = s.measurement := rfl
@[simp] theorem State.write_svn (s : State) (k : Nat) (bs : List Byte) : (s.write k bs).svn = s.svn := rfl
@[simp] theorem State.write_fusedSvn (s : State) (k : Nat) (bs : List Byte) : (s.write k bs).fusedSvn = s.fusedSvn := rfl
@[simp] theorem State.write_imageVersions (s : State) (k : Nat) (bs : List Byte) : (s.write k bs).imageVersions = s.imageVersions := rfl
@[simp] theorem State.write_negotiated (s : State) (k : Nat) (bs : List Byte) : (s.write k bs).negotiated = s.negotiated := rfl
@[simp] theorem State.write_mailClock (s : State) (k : Nat) (bs : List Byte) : (s.write k bs).mailClock = s.mailClock := rfl
@[simp] theorem State.write_mailPast (s : State) (k : Nat) (bs : List Byte) : (s.write k bs).mailPast = s.mailPast := rfl
@[simp] theorem State.write_parked (s : State) (k : Nat) (bs : List Byte) : (s.write k bs).parked = s.parked := rfl
@[simp] theorem State.write_mailOp (s : State) (k : Nat) (bs : List Byte) : (s.write k bs).mailOp = s.mailOp := rfl
@[simp] theorem State.write_inbound (s : State) (k : Nat) (bs : List Byte) : (s.write k bs).inbound = s.inbound := rfl
@[simp] theorem State.write_outbound (s : State) (k : Nat) (bs : List Byte) : (s.write k bs).outbound = s.outbound := rfl
@[simp] theorem State.write_fabricOut (s : State) (k : Nat) (bs : List Byte) : (s.write k bs).fabricOut = s.fabricOut := rfl
@[simp] theorem State.write_fabricAsks (s : State) (k : Nat) (bs : List Byte) : (s.write k bs).fabricAsks = s.fabricAsks := rfl
@[simp] theorem State.write_log (s : State) (k : Nat) (bs : List Byte) : (s.write k bs).log = s.log := rfl
@[simp] theorem State.write_upsets (s : State) (k : Nat) (bs : List Byte) : (s.write k bs).upsets = s.upsets := rfl
@[simp] theorem State.write_written (s : State) (k : Nat) (bs : List Byte) : (s.write k bs).written = s.written := rfl
@[simp] theorem State.write_ordered (s : State) (k : Nat) (bs : List Byte) : (s.write k bs).ordered = s.ordered := rfl
@[simp] theorem State.write_agenda (s : State) (k : Nat) (bs : List Byte) : (s.write k bs).agenda = s.agenda := rfl
@[simp] theorem State.write_issue (s : State) (k : Nat) (bs : List Byte) : (s.write k bs).issue = s.issue := rfl
@[simp] theorem State.write_turn (s : State) (k : Nat) (bs : List Byte) : (s.write k bs).turn = s.turn := rfl
@[simp] theorem State.write_fresh (s : State) (k : Nat) (bs : List Byte) : (s.write k bs).fresh = s.fresh := rfl
@[simp] theorem State.write_free (s : State) (k : Nat) (bs : List Byte) : (s.write k bs).free = s.free := rfl
@[simp] theorem State.write_lastIssued (s : State) (k : Nat) (bs : List Byte) : (s.write k bs).lastIssued = s.lastIssued := rfl

/-! ### wipe -/

@[simp] theorem State.wipe_cycle (s : State) (lo hi : Nat) : (s.wipe lo hi).cycle = s.cycle := rfl
@[simp] theorem State.wipe_tick (s : State) (lo hi : Nat) : (s.wipe lo hi).tick = s.tick := rfl
@[simp] theorem State.wipe_millivolts (s : State) (lo hi : Nat) : (s.wipe lo hi).millivolts = s.millivolts := rfl
@[simp] theorem State.wipe_hreserve (s : State) (lo hi : Nat) : (s.wipe lo hi).hreserve = s.hreserve := rfl
@[simp] theorem State.wipe_sliceClock (s : State) (lo hi : Nat) : (s.wipe lo hi).sliceClock = s.sliceClock := rfl
@[simp] theorem State.wipe_opClock (s : State) (lo hi : Nat) : (s.wipe lo hi).opClock = s.opClock := rfl
@[simp] theorem State.wipe_stamps (s : State) (lo hi : Nat) : (s.wipe lo hi).stamps = s.stamps := rfl
@[simp] theorem State.wipe_versions (s : State) (lo hi : Nat) : (s.wipe lo hi).versions = s.versions := rfl
@[simp] theorem State.wipe_histPages (s : State) (lo hi : Nat) : (s.wipe lo hi).histPages = s.histPages := rfl
@[simp] theorem State.wipe_mapHistory (s : State) (lo hi : Nat) : (s.wipe lo hi).mapHistory = s.mapHistory := rfl
@[simp] theorem State.wipe_stackFloor (s : State) (lo hi : Nat) : (s.wipe lo hi).stackFloor = s.stackFloor := rfl
@[simp] theorem State.wipe_regionFloor (s : State) (lo hi : Nat) : (s.wipe lo hi).regionFloor = s.regionFloor := rfl
@[simp] theorem State.wipe_floorsInEffect (s : State) (lo hi : Nat) : (s.wipe lo hi).floorsInEffect = s.floorsInEffect := rfl
@[simp] theorem State.wipe_pendingFloors (s : State) (lo hi : Nat) : (s.wipe lo hi).pendingFloors = s.pendingFloors := rfl
@[simp] theorem State.wipe_frontierG (s : State) (lo hi : Nat) : (s.wipe lo hi).frontierG = s.frontierG := rfl
@[simp] theorem State.wipe_roots (s : State) (lo hi : Nat) : (s.wipe lo hi).roots = s.roots := rfl
@[simp] theorem State.wipe_tlb (s : State) (lo hi : Nat) : (s.wipe lo hi).tlb = s.tlb := rfl
@[simp] theorem State.wipe_walks (s : State) (lo hi : Nat) : (s.wipe lo hi).walks = s.walks := rfl
@[simp] theorem State.wipe_dies (s : State) (lo hi : Nat) : (s.wipe lo hi).dies = s.dies := rfl
@[simp] theorem State.wipe_cores (s : State) (lo hi : Nat) : (s.wipe lo hi).cores = s.cores := rfl
@[simp] theorem State.wipe_regionTable (s : State) (lo hi : Nat) : (s.wipe lo hi).regionTable = s.regionTable := rfl
@[simp] theorem State.wipe_regions (s : State) (lo hi : Nat) : (s.wipe lo hi).regions = s.regions := rfl
@[simp] theorem State.wipe_allocs (s : State) (lo hi : Nat) : (s.wipe lo hi).allocs = s.allocs := rfl
@[simp] theorem State.wipe_launches (s : State) (lo hi : Nat) : (s.wipe lo hi).launches = s.launches := rfl
@[simp] theorem State.wipe_wgs (s : State) (lo hi : Nat) : (s.wipe lo hi).wgs = s.wgs := rfl
@[simp] theorem State.wipe_warps (s : State) (lo hi : Nat) : (s.wipe lo hi).warps = s.warps := rfl
@[simp] theorem State.wipe_accesses (s : State) (lo hi : Nat) : (s.wipe lo hi).accesses = s.accesses := rfl
@[simp] theorem State.wipe_copies (s : State) (lo hi : Nat) : (s.wipe lo hi).copies = s.copies := rfl
@[simp] theorem State.wipe_shadows (s : State) (lo hi : Nat) : (s.wipe lo hi).shadows = s.shadows := rfl
@[simp] theorem State.wipe_poolTaken (s : State) (lo hi : Nat) : (s.wipe lo hi).poolTaken = s.poolTaken := rfl
@[simp] theorem State.wipe_ends (s : State) (lo hi : Nat) : (s.wipe lo hi).ends = s.ends := rfl
@[simp] theorem State.wipe_resolving (s : State) (lo hi : Nat) : (s.wipe lo hi).resolving = s.resolving := rfl
@[simp] theorem State.wipe_queues (s : State) (lo hi : Nat) : (s.wipe lo hi).queues = s.queues := rfl
@[simp] theorem State.wipe_submitted (s : State) (lo hi : Nat) : (s.wipe lo hi).submitted = s.submitted := rfl
@[simp] theorem State.wipe_stages (s : State) (lo hi : Nat) : (s.wipe lo hi).stages = s.stages := rfl
@[simp] theorem State.wipe_devSeq (s : State) (lo hi : Nat) : (s.wipe lo hi).devSeq = s.devSeq := rfl
@[simp] theorem State.wipe_rotation (s : State) (lo hi : Nat) : (s.wipe lo hi).rotation = s.rotation := rfl
@[simp] theorem State.wipe_turns (s : State) (lo hi : Nat) : (s.wipe lo hi).turns = s.turns := rfl
@[simp] theorem State.wipe_freed (s : State) (lo hi : Nat) : (s.wipe lo hi).freed = s.freed := rfl
@[simp] theorem State.wipe_coaches (s : State) (lo hi : Nat) : (s.wipe lo hi).coaches = s.coaches := rfl
@[simp] theorem State.wipe_lineOps (s : State) (lo hi : Nat) : (s.wipe lo hi).lineOps = s.lineOps := rfl
@[simp] theorem State.wipe_lineStart (s : State) (lo hi : Nat) : (s.wipe lo hi).lineStart = s.lineStart := rfl
@[simp] theorem State.wipe_lineShift (s : State) (lo hi : Nat) : (s.wipe lo hi).lineShift = s.lineShift := rfl
@[simp] theorem State.wipe_catches (s : State) (lo hi : Nat) : (s.wipe lo hi).catches = s.catches := rfl
@[simp] theorem State.wipe_hostMask (s : State) (lo hi : Nat) : (s.wipe lo hi).hostMask = s.hostMask := rfl
@[simp] theorem State.wipe_windows (s : State) (lo hi : Nat) : (s.wipe lo hi).windows = s.windows := rfl
@[simp] theorem State.wipe_fabric (s : State) (lo hi : Nat) : (s.wipe lo hi).fabric = s.fabric := rfl
@[simp] theorem State.wipe_ports (s : State) (lo hi : Nat) : (s.wipe lo hi).ports = s.ports := rfl
@[simp] theorem State.wipe_backing (s : State) (lo hi : Nat) : (s.wipe lo hi).backing = s.backing := rfl
@[simp] theorem State.wipe_boot (s : State) (lo hi : Nat) : (s.wipe lo hi).boot = s.boot := rfl
@[simp] theorem State.wipe_measurement (s : State) (lo hi : Nat) : (s.wipe lo hi).measurement = s.measurement := rfl
@[simp] theorem State.wipe_svn (s : State) (lo hi : Nat) : (s.wipe lo hi).svn = s.svn := rfl
@[simp] theorem State.wipe_fusedSvn (s : State) (lo hi : Nat) : (s.wipe lo hi).fusedSvn = s.fusedSvn := rfl
@[simp] theorem State.wipe_imageVersions (s : State) (lo hi : Nat) : (s.wipe lo hi).imageVersions = s.imageVersions := rfl
@[simp] theorem State.wipe_negotiated (s : State) (lo hi : Nat) : (s.wipe lo hi).negotiated = s.negotiated := rfl
@[simp] theorem State.wipe_mailClock (s : State) (lo hi : Nat) : (s.wipe lo hi).mailClock = s.mailClock := rfl
@[simp] theorem State.wipe_mailPast (s : State) (lo hi : Nat) : (s.wipe lo hi).mailPast = s.mailPast := rfl
@[simp] theorem State.wipe_parked (s : State) (lo hi : Nat) : (s.wipe lo hi).parked = s.parked := rfl
@[simp] theorem State.wipe_mailOp (s : State) (lo hi : Nat) : (s.wipe lo hi).mailOp = s.mailOp := rfl
@[simp] theorem State.wipe_inbound (s : State) (lo hi : Nat) : (s.wipe lo hi).inbound = s.inbound := rfl
@[simp] theorem State.wipe_outbound (s : State) (lo hi : Nat) : (s.wipe lo hi).outbound = s.outbound := rfl
@[simp] theorem State.wipe_fabricOut (s : State) (lo hi : Nat) : (s.wipe lo hi).fabricOut = s.fabricOut := rfl
@[simp] theorem State.wipe_fabricAsks (s : State) (lo hi : Nat) : (s.wipe lo hi).fabricAsks = s.fabricAsks := rfl
@[simp] theorem State.wipe_log (s : State) (lo hi : Nat) : (s.wipe lo hi).log = s.log := rfl
@[simp] theorem State.wipe_upsets (s : State) (lo hi : Nat) : (s.wipe lo hi).upsets = s.upsets := rfl
@[simp] theorem State.wipe_ordered (s : State) (lo hi : Nat) : (s.wipe lo hi).ordered = s.ordered := rfl
@[simp] theorem State.wipe_agenda (s : State) (lo hi : Nat) : (s.wipe lo hi).agenda = s.agenda := rfl
@[simp] theorem State.wipe_issue (s : State) (lo hi : Nat) : (s.wipe lo hi).issue = s.issue := rfl
@[simp] theorem State.wipe_turn (s : State) (lo hi : Nat) : (s.wipe lo hi).turn = s.turn := rfl
@[simp] theorem State.wipe_fresh (s : State) (lo hi : Nat) : (s.wipe lo hi).fresh = s.fresh := rfl
@[simp] theorem State.wipe_free (s : State) (lo hi : Nat) : (s.wipe lo hi).free = s.free := rfl
@[simp] theorem State.wipe_lastIssued (s : State) (lo hi : Nat) : (s.wipe lo hi).lastIssued = s.lastIssued := rfl

/-! ### modDie -/

@[simp] theorem State.modDie_cycle (s : State) (d : Nat) (f : Die → Die) : (s.modDie d f).cycle = s.cycle := rfl
@[simp] theorem State.modDie_tick (s : State) (d : Nat) (f : Die → Die) : (s.modDie d f).tick = s.tick := rfl
@[simp] theorem State.modDie_millivolts (s : State) (d : Nat) (f : Die → Die) : (s.modDie d f).millivolts = s.millivolts := rfl
@[simp] theorem State.modDie_mem (s : State) (d : Nat) (f : Die → Die) : (s.modDie d f).mem = s.mem := rfl
@[simp] theorem State.modDie_poisoned (s : State) (d : Nat) (f : Die → Die) : (s.modDie d f).poisoned = s.poisoned := rfl
@[simp] theorem State.modDie_hreserve (s : State) (d : Nat) (f : Die → Die) : (s.modDie d f).hreserve = s.hreserve := rfl
@[simp] theorem State.modDie_sliceClock (s : State) (d : Nat) (f : Die → Die) : (s.modDie d f).sliceClock = s.sliceClock := rfl
@[simp] theorem State.modDie_opClock (s : State) (d : Nat) (f : Die → Die) : (s.modDie d f).opClock = s.opClock := rfl
@[simp] theorem State.modDie_stamps (s : State) (d : Nat) (f : Die → Die) : (s.modDie d f).stamps = s.stamps := rfl
@[simp] theorem State.modDie_versions (s : State) (d : Nat) (f : Die → Die) : (s.modDie d f).versions = s.versions := rfl
@[simp] theorem State.modDie_histPages (s : State) (d : Nat) (f : Die → Die) : (s.modDie d f).histPages = s.histPages := rfl
@[simp] theorem State.modDie_mapHistory (s : State) (d : Nat) (f : Die → Die) : (s.modDie d f).mapHistory = s.mapHistory := rfl
@[simp] theorem State.modDie_stackFloor (s : State) (d : Nat) (f : Die → Die) : (s.modDie d f).stackFloor = s.stackFloor := rfl
@[simp] theorem State.modDie_regionFloor (s : State) (d : Nat) (f : Die → Die) : (s.modDie d f).regionFloor = s.regionFloor := rfl
@[simp] theorem State.modDie_floorsInEffect (s : State) (d : Nat) (f : Die → Die) : (s.modDie d f).floorsInEffect = s.floorsInEffect := rfl
@[simp] theorem State.modDie_pendingFloors (s : State) (d : Nat) (f : Die → Die) : (s.modDie d f).pendingFloors = s.pendingFloors := rfl
@[simp] theorem State.modDie_frontierG (s : State) (d : Nat) (f : Die → Die) : (s.modDie d f).frontierG = s.frontierG := rfl
@[simp] theorem State.modDie_roots (s : State) (d : Nat) (f : Die → Die) : (s.modDie d f).roots = s.roots := rfl
@[simp] theorem State.modDie_tlb (s : State) (d : Nat) (f : Die → Die) : (s.modDie d f).tlb = s.tlb := rfl
@[simp] theorem State.modDie_walks (s : State) (d : Nat) (f : Die → Die) : (s.modDie d f).walks = s.walks := rfl
@[simp] theorem State.modDie_cores (s : State) (d : Nat) (f : Die → Die) : (s.modDie d f).cores = s.cores := rfl
@[simp] theorem State.modDie_regionTable (s : State) (d : Nat) (f : Die → Die) : (s.modDie d f).regionTable = s.regionTable := rfl
@[simp] theorem State.modDie_regions (s : State) (d : Nat) (f : Die → Die) : (s.modDie d f).regions = s.regions := rfl
@[simp] theorem State.modDie_allocs (s : State) (d : Nat) (f : Die → Die) : (s.modDie d f).allocs = s.allocs := rfl
@[simp] theorem State.modDie_launches (s : State) (d : Nat) (f : Die → Die) : (s.modDie d f).launches = s.launches := rfl
@[simp] theorem State.modDie_wgs (s : State) (d : Nat) (f : Die → Die) : (s.modDie d f).wgs = s.wgs := rfl
@[simp] theorem State.modDie_warps (s : State) (d : Nat) (f : Die → Die) : (s.modDie d f).warps = s.warps := rfl
@[simp] theorem State.modDie_accesses (s : State) (d : Nat) (f : Die → Die) : (s.modDie d f).accesses = s.accesses := rfl
@[simp] theorem State.modDie_copies (s : State) (d : Nat) (f : Die → Die) : (s.modDie d f).copies = s.copies := rfl
@[simp] theorem State.modDie_shadows (s : State) (d : Nat) (f : Die → Die) : (s.modDie d f).shadows = s.shadows := rfl
@[simp] theorem State.modDie_poolTaken (s : State) (d : Nat) (f : Die → Die) : (s.modDie d f).poolTaken = s.poolTaken := rfl
@[simp] theorem State.modDie_ends (s : State) (d : Nat) (f : Die → Die) : (s.modDie d f).ends = s.ends := rfl
@[simp] theorem State.modDie_resolving (s : State) (d : Nat) (f : Die → Die) : (s.modDie d f).resolving = s.resolving := rfl
@[simp] theorem State.modDie_queues (s : State) (d : Nat) (f : Die → Die) : (s.modDie d f).queues = s.queues := rfl
@[simp] theorem State.modDie_submitted (s : State) (d : Nat) (f : Die → Die) : (s.modDie d f).submitted = s.submitted := rfl
@[simp] theorem State.modDie_stages (s : State) (d : Nat) (f : Die → Die) : (s.modDie d f).stages = s.stages := rfl
@[simp] theorem State.modDie_devSeq (s : State) (d : Nat) (f : Die → Die) : (s.modDie d f).devSeq = s.devSeq := rfl
@[simp] theorem State.modDie_rotation (s : State) (d : Nat) (f : Die → Die) : (s.modDie d f).rotation = s.rotation := rfl
@[simp] theorem State.modDie_turns (s : State) (d : Nat) (f : Die → Die) : (s.modDie d f).turns = s.turns := rfl
@[simp] theorem State.modDie_freed (s : State) (d : Nat) (f : Die → Die) : (s.modDie d f).freed = s.freed := rfl
@[simp] theorem State.modDie_coaches (s : State) (d : Nat) (f : Die → Die) : (s.modDie d f).coaches = s.coaches := rfl
@[simp] theorem State.modDie_lineOps (s : State) (d : Nat) (f : Die → Die) : (s.modDie d f).lineOps = s.lineOps := rfl
@[simp] theorem State.modDie_lineStart (s : State) (d : Nat) (f : Die → Die) : (s.modDie d f).lineStart = s.lineStart := rfl
@[simp] theorem State.modDie_lineShift (s : State) (d : Nat) (f : Die → Die) : (s.modDie d f).lineShift = s.lineShift := rfl
@[simp] theorem State.modDie_catches (s : State) (d : Nat) (f : Die → Die) : (s.modDie d f).catches = s.catches := rfl
@[simp] theorem State.modDie_hostMask (s : State) (d : Nat) (f : Die → Die) : (s.modDie d f).hostMask = s.hostMask := rfl
@[simp] theorem State.modDie_windows (s : State) (d : Nat) (f : Die → Die) : (s.modDie d f).windows = s.windows := rfl
@[simp] theorem State.modDie_fabric (s : State) (d : Nat) (f : Die → Die) : (s.modDie d f).fabric = s.fabric := rfl
@[simp] theorem State.modDie_ports (s : State) (d : Nat) (f : Die → Die) : (s.modDie d f).ports = s.ports := rfl
@[simp] theorem State.modDie_backing (s : State) (d : Nat) (f : Die → Die) : (s.modDie d f).backing = s.backing := rfl
@[simp] theorem State.modDie_boot (s : State) (d : Nat) (f : Die → Die) : (s.modDie d f).boot = s.boot := rfl
@[simp] theorem State.modDie_measurement (s : State) (d : Nat) (f : Die → Die) : (s.modDie d f).measurement = s.measurement := rfl
@[simp] theorem State.modDie_svn (s : State) (d : Nat) (f : Die → Die) : (s.modDie d f).svn = s.svn := rfl
@[simp] theorem State.modDie_fusedSvn (s : State) (d : Nat) (f : Die → Die) : (s.modDie d f).fusedSvn = s.fusedSvn := rfl
@[simp] theorem State.modDie_imageVersions (s : State) (d : Nat) (f : Die → Die) : (s.modDie d f).imageVersions = s.imageVersions := rfl
@[simp] theorem State.modDie_negotiated (s : State) (d : Nat) (f : Die → Die) : (s.modDie d f).negotiated = s.negotiated := rfl
@[simp] theorem State.modDie_mailClock (s : State) (d : Nat) (f : Die → Die) : (s.modDie d f).mailClock = s.mailClock := rfl
@[simp] theorem State.modDie_mailPast (s : State) (d : Nat) (f : Die → Die) : (s.modDie d f).mailPast = s.mailPast := rfl
@[simp] theorem State.modDie_parked (s : State) (d : Nat) (f : Die → Die) : (s.modDie d f).parked = s.parked := rfl
@[simp] theorem State.modDie_mailOp (s : State) (d : Nat) (f : Die → Die) : (s.modDie d f).mailOp = s.mailOp := rfl
@[simp] theorem State.modDie_inbound (s : State) (d : Nat) (f : Die → Die) : (s.modDie d f).inbound = s.inbound := rfl
@[simp] theorem State.modDie_outbound (s : State) (d : Nat) (f : Die → Die) : (s.modDie d f).outbound = s.outbound := rfl
@[simp] theorem State.modDie_fabricOut (s : State) (d : Nat) (f : Die → Die) : (s.modDie d f).fabricOut = s.fabricOut := rfl
@[simp] theorem State.modDie_fabricAsks (s : State) (d : Nat) (f : Die → Die) : (s.modDie d f).fabricAsks = s.fabricAsks := rfl
@[simp] theorem State.modDie_log (s : State) (d : Nat) (f : Die → Die) : (s.modDie d f).log = s.log := rfl
@[simp] theorem State.modDie_upsets (s : State) (d : Nat) (f : Die → Die) : (s.modDie d f).upsets = s.upsets := rfl
@[simp] theorem State.modDie_written (s : State) (d : Nat) (f : Die → Die) : (s.modDie d f).written = s.written := rfl
@[simp] theorem State.modDie_ordered (s : State) (d : Nat) (f : Die → Die) : (s.modDie d f).ordered = s.ordered := rfl
@[simp] theorem State.modDie_agenda (s : State) (d : Nat) (f : Die → Die) : (s.modDie d f).agenda = s.agenda := rfl
@[simp] theorem State.modDie_issue (s : State) (d : Nat) (f : Die → Die) : (s.modDie d f).issue = s.issue := rfl
@[simp] theorem State.modDie_turn (s : State) (d : Nat) (f : Die → Die) : (s.modDie d f).turn = s.turn := rfl
@[simp] theorem State.modDie_fresh (s : State) (d : Nat) (f : Die → Die) : (s.modDie d f).fresh = s.fresh := rfl
@[simp] theorem State.modDie_free (s : State) (d : Nat) (f : Die → Die) : (s.modDie d f).free = s.free := rfl
@[simp] theorem State.modDie_lastIssued (s : State) (d : Nat) (f : Die → Die) : (s.modDie d f).lastIssued = s.lastIssued := rfl

/-! ### modCore -/

@[simp] theorem State.modCore_cycle (s : State) (d c : Nat) (f : Core → Core) : (s.modCore d c f).cycle = s.cycle := rfl
@[simp] theorem State.modCore_tick (s : State) (d c : Nat) (f : Core → Core) : (s.modCore d c f).tick = s.tick := rfl
@[simp] theorem State.modCore_millivolts (s : State) (d c : Nat) (f : Core → Core) : (s.modCore d c f).millivolts = s.millivolts := rfl
@[simp] theorem State.modCore_mem (s : State) (d c : Nat) (f : Core → Core) : (s.modCore d c f).mem = s.mem := rfl
@[simp] theorem State.modCore_poisoned (s : State) (d c : Nat) (f : Core → Core) : (s.modCore d c f).poisoned = s.poisoned := rfl
@[simp] theorem State.modCore_hreserve (s : State) (d c : Nat) (f : Core → Core) : (s.modCore d c f).hreserve = s.hreserve := rfl
@[simp] theorem State.modCore_sliceClock (s : State) (d c : Nat) (f : Core → Core) : (s.modCore d c f).sliceClock = s.sliceClock := rfl
@[simp] theorem State.modCore_opClock (s : State) (d c : Nat) (f : Core → Core) : (s.modCore d c f).opClock = s.opClock := rfl
@[simp] theorem State.modCore_stamps (s : State) (d c : Nat) (f : Core → Core) : (s.modCore d c f).stamps = s.stamps := rfl
@[simp] theorem State.modCore_versions (s : State) (d c : Nat) (f : Core → Core) : (s.modCore d c f).versions = s.versions := rfl
@[simp] theorem State.modCore_histPages (s : State) (d c : Nat) (f : Core → Core) : (s.modCore d c f).histPages = s.histPages := rfl
@[simp] theorem State.modCore_mapHistory (s : State) (d c : Nat) (f : Core → Core) : (s.modCore d c f).mapHistory = s.mapHistory := rfl
@[simp] theorem State.modCore_stackFloor (s : State) (d c : Nat) (f : Core → Core) : (s.modCore d c f).stackFloor = s.stackFloor := rfl
@[simp] theorem State.modCore_regionFloor (s : State) (d c : Nat) (f : Core → Core) : (s.modCore d c f).regionFloor = s.regionFloor := rfl
@[simp] theorem State.modCore_floorsInEffect (s : State) (d c : Nat) (f : Core → Core) : (s.modCore d c f).floorsInEffect = s.floorsInEffect := rfl
@[simp] theorem State.modCore_pendingFloors (s : State) (d c : Nat) (f : Core → Core) : (s.modCore d c f).pendingFloors = s.pendingFloors := rfl
@[simp] theorem State.modCore_frontierG (s : State) (d c : Nat) (f : Core → Core) : (s.modCore d c f).frontierG = s.frontierG := rfl
@[simp] theorem State.modCore_roots (s : State) (d c : Nat) (f : Core → Core) : (s.modCore d c f).roots = s.roots := rfl
@[simp] theorem State.modCore_tlb (s : State) (d c : Nat) (f : Core → Core) : (s.modCore d c f).tlb = s.tlb := rfl
@[simp] theorem State.modCore_walks (s : State) (d c : Nat) (f : Core → Core) : (s.modCore d c f).walks = s.walks := rfl
@[simp] theorem State.modCore_dies (s : State) (d c : Nat) (f : Core → Core) : (s.modCore d c f).dies = s.dies := rfl
@[simp] theorem State.modCore_regionTable (s : State) (d c : Nat) (f : Core → Core) : (s.modCore d c f).regionTable = s.regionTable := rfl
@[simp] theorem State.modCore_regions (s : State) (d c : Nat) (f : Core → Core) : (s.modCore d c f).regions = s.regions := rfl
@[simp] theorem State.modCore_allocs (s : State) (d c : Nat) (f : Core → Core) : (s.modCore d c f).allocs = s.allocs := rfl
@[simp] theorem State.modCore_launches (s : State) (d c : Nat) (f : Core → Core) : (s.modCore d c f).launches = s.launches := rfl
@[simp] theorem State.modCore_wgs (s : State) (d c : Nat) (f : Core → Core) : (s.modCore d c f).wgs = s.wgs := rfl
@[simp] theorem State.modCore_warps (s : State) (d c : Nat) (f : Core → Core) : (s.modCore d c f).warps = s.warps := rfl
@[simp] theorem State.modCore_accesses (s : State) (d c : Nat) (f : Core → Core) : (s.modCore d c f).accesses = s.accesses := rfl
@[simp] theorem State.modCore_copies (s : State) (d c : Nat) (f : Core → Core) : (s.modCore d c f).copies = s.copies := rfl
@[simp] theorem State.modCore_shadows (s : State) (d c : Nat) (f : Core → Core) : (s.modCore d c f).shadows = s.shadows := rfl
@[simp] theorem State.modCore_poolTaken (s : State) (d c : Nat) (f : Core → Core) : (s.modCore d c f).poolTaken = s.poolTaken := rfl
@[simp] theorem State.modCore_ends (s : State) (d c : Nat) (f : Core → Core) : (s.modCore d c f).ends = s.ends := rfl
@[simp] theorem State.modCore_resolving (s : State) (d c : Nat) (f : Core → Core) : (s.modCore d c f).resolving = s.resolving := rfl
@[simp] theorem State.modCore_queues (s : State) (d c : Nat) (f : Core → Core) : (s.modCore d c f).queues = s.queues := rfl
@[simp] theorem State.modCore_submitted (s : State) (d c : Nat) (f : Core → Core) : (s.modCore d c f).submitted = s.submitted := rfl
@[simp] theorem State.modCore_stages (s : State) (d c : Nat) (f : Core → Core) : (s.modCore d c f).stages = s.stages := rfl
@[simp] theorem State.modCore_devSeq (s : State) (d c : Nat) (f : Core → Core) : (s.modCore d c f).devSeq = s.devSeq := rfl
@[simp] theorem State.modCore_rotation (s : State) (d c : Nat) (f : Core → Core) : (s.modCore d c f).rotation = s.rotation := rfl
@[simp] theorem State.modCore_turns (s : State) (d c : Nat) (f : Core → Core) : (s.modCore d c f).turns = s.turns := rfl
@[simp] theorem State.modCore_freed (s : State) (d c : Nat) (f : Core → Core) : (s.modCore d c f).freed = s.freed := rfl
@[simp] theorem State.modCore_coaches (s : State) (d c : Nat) (f : Core → Core) : (s.modCore d c f).coaches = s.coaches := rfl
@[simp] theorem State.modCore_lineOps (s : State) (d c : Nat) (f : Core → Core) : (s.modCore d c f).lineOps = s.lineOps := rfl
@[simp] theorem State.modCore_lineStart (s : State) (d c : Nat) (f : Core → Core) : (s.modCore d c f).lineStart = s.lineStart := rfl
@[simp] theorem State.modCore_lineShift (s : State) (d c : Nat) (f : Core → Core) : (s.modCore d c f).lineShift = s.lineShift := rfl
@[simp] theorem State.modCore_catches (s : State) (d c : Nat) (f : Core → Core) : (s.modCore d c f).catches = s.catches := rfl
@[simp] theorem State.modCore_hostMask (s : State) (d c : Nat) (f : Core → Core) : (s.modCore d c f).hostMask = s.hostMask := rfl
@[simp] theorem State.modCore_windows (s : State) (d c : Nat) (f : Core → Core) : (s.modCore d c f).windows = s.windows := rfl
@[simp] theorem State.modCore_fabric (s : State) (d c : Nat) (f : Core → Core) : (s.modCore d c f).fabric = s.fabric := rfl
@[simp] theorem State.modCore_ports (s : State) (d c : Nat) (f : Core → Core) : (s.modCore d c f).ports = s.ports := rfl
@[simp] theorem State.modCore_backing (s : State) (d c : Nat) (f : Core → Core) : (s.modCore d c f).backing = s.backing := rfl
@[simp] theorem State.modCore_boot (s : State) (d c : Nat) (f : Core → Core) : (s.modCore d c f).boot = s.boot := rfl
@[simp] theorem State.modCore_measurement (s : State) (d c : Nat) (f : Core → Core) : (s.modCore d c f).measurement = s.measurement := rfl
@[simp] theorem State.modCore_svn (s : State) (d c : Nat) (f : Core → Core) : (s.modCore d c f).svn = s.svn := rfl
@[simp] theorem State.modCore_fusedSvn (s : State) (d c : Nat) (f : Core → Core) : (s.modCore d c f).fusedSvn = s.fusedSvn := rfl
@[simp] theorem State.modCore_imageVersions (s : State) (d c : Nat) (f : Core → Core) : (s.modCore d c f).imageVersions = s.imageVersions := rfl
@[simp] theorem State.modCore_negotiated (s : State) (d c : Nat) (f : Core → Core) : (s.modCore d c f).negotiated = s.negotiated := rfl
@[simp] theorem State.modCore_mailClock (s : State) (d c : Nat) (f : Core → Core) : (s.modCore d c f).mailClock = s.mailClock := rfl
@[simp] theorem State.modCore_mailPast (s : State) (d c : Nat) (f : Core → Core) : (s.modCore d c f).mailPast = s.mailPast := rfl
@[simp] theorem State.modCore_parked (s : State) (d c : Nat) (f : Core → Core) : (s.modCore d c f).parked = s.parked := rfl
@[simp] theorem State.modCore_mailOp (s : State) (d c : Nat) (f : Core → Core) : (s.modCore d c f).mailOp = s.mailOp := rfl
@[simp] theorem State.modCore_inbound (s : State) (d c : Nat) (f : Core → Core) : (s.modCore d c f).inbound = s.inbound := rfl
@[simp] theorem State.modCore_outbound (s : State) (d c : Nat) (f : Core → Core) : (s.modCore d c f).outbound = s.outbound := rfl
@[simp] theorem State.modCore_fabricOut (s : State) (d c : Nat) (f : Core → Core) : (s.modCore d c f).fabricOut = s.fabricOut := rfl
@[simp] theorem State.modCore_fabricAsks (s : State) (d c : Nat) (f : Core → Core) : (s.modCore d c f).fabricAsks = s.fabricAsks := rfl
@[simp] theorem State.modCore_log (s : State) (d c : Nat) (f : Core → Core) : (s.modCore d c f).log = s.log := rfl
@[simp] theorem State.modCore_upsets (s : State) (d c : Nat) (f : Core → Core) : (s.modCore d c f).upsets = s.upsets := rfl
@[simp] theorem State.modCore_written (s : State) (d c : Nat) (f : Core → Core) : (s.modCore d c f).written = s.written := rfl
@[simp] theorem State.modCore_ordered (s : State) (d c : Nat) (f : Core → Core) : (s.modCore d c f).ordered = s.ordered := rfl
@[simp] theorem State.modCore_agenda (s : State) (d c : Nat) (f : Core → Core) : (s.modCore d c f).agenda = s.agenda := rfl
@[simp] theorem State.modCore_issue (s : State) (d c : Nat) (f : Core → Core) : (s.modCore d c f).issue = s.issue := rfl
@[simp] theorem State.modCore_turn (s : State) (d c : Nat) (f : Core → Core) : (s.modCore d c f).turn = s.turn := rfl
@[simp] theorem State.modCore_fresh (s : State) (d c : Nat) (f : Core → Core) : (s.modCore d c f).fresh = s.fresh := rfl
@[simp] theorem State.modCore_free (s : State) (d c : Nat) (f : Core → Core) : (s.modCore d c f).free = s.free := rfl
@[simp] theorem State.modCore_lastIssued (s : State) (d c : Nat) (f : Core → Core) : (s.modCore d c f).lastIssued = s.lastIssued := rfl

/-! ### putWarp -/

@[simp] theorem State.putWarp_cycle (s : State) (w : Warp) : (s.putWarp w).cycle = s.cycle := rfl
@[simp] theorem State.putWarp_tick (s : State) (w : Warp) : (s.putWarp w).tick = s.tick := rfl
@[simp] theorem State.putWarp_millivolts (s : State) (w : Warp) : (s.putWarp w).millivolts = s.millivolts := rfl
@[simp] theorem State.putWarp_mem (s : State) (w : Warp) : (s.putWarp w).mem = s.mem := rfl
@[simp] theorem State.putWarp_poisoned (s : State) (w : Warp) : (s.putWarp w).poisoned = s.poisoned := rfl
@[simp] theorem State.putWarp_hreserve (s : State) (w : Warp) : (s.putWarp w).hreserve = s.hreserve := rfl
@[simp] theorem State.putWarp_sliceClock (s : State) (w : Warp) : (s.putWarp w).sliceClock = s.sliceClock := rfl
@[simp] theorem State.putWarp_opClock (s : State) (w : Warp) : (s.putWarp w).opClock = s.opClock := rfl
@[simp] theorem State.putWarp_stamps (s : State) (w : Warp) : (s.putWarp w).stamps = s.stamps := rfl
@[simp] theorem State.putWarp_versions (s : State) (w : Warp) : (s.putWarp w).versions = s.versions := rfl
@[simp] theorem State.putWarp_histPages (s : State) (w : Warp) : (s.putWarp w).histPages = s.histPages := rfl
@[simp] theorem State.putWarp_mapHistory (s : State) (w : Warp) : (s.putWarp w).mapHistory = s.mapHistory := rfl
@[simp] theorem State.putWarp_stackFloor (s : State) (w : Warp) : (s.putWarp w).stackFloor = s.stackFloor := rfl
@[simp] theorem State.putWarp_regionFloor (s : State) (w : Warp) : (s.putWarp w).regionFloor = s.regionFloor := rfl
@[simp] theorem State.putWarp_floorsInEffect (s : State) (w : Warp) : (s.putWarp w).floorsInEffect = s.floorsInEffect := rfl
@[simp] theorem State.putWarp_pendingFloors (s : State) (w : Warp) : (s.putWarp w).pendingFloors = s.pendingFloors := rfl
@[simp] theorem State.putWarp_frontierG (s : State) (w : Warp) : (s.putWarp w).frontierG = s.frontierG := rfl
@[simp] theorem State.putWarp_roots (s : State) (w : Warp) : (s.putWarp w).roots = s.roots := rfl
@[simp] theorem State.putWarp_tlb (s : State) (w : Warp) : (s.putWarp w).tlb = s.tlb := rfl
@[simp] theorem State.putWarp_walks (s : State) (w : Warp) : (s.putWarp w).walks = s.walks := rfl
@[simp] theorem State.putWarp_dies (s : State) (w : Warp) : (s.putWarp w).dies = s.dies := rfl
@[simp] theorem State.putWarp_cores (s : State) (w : Warp) : (s.putWarp w).cores = s.cores := rfl
@[simp] theorem State.putWarp_regionTable (s : State) (w : Warp) : (s.putWarp w).regionTable = s.regionTable := rfl
@[simp] theorem State.putWarp_regions (s : State) (w : Warp) : (s.putWarp w).regions = s.regions := rfl
@[simp] theorem State.putWarp_allocs (s : State) (w : Warp) : (s.putWarp w).allocs = s.allocs := rfl
@[simp] theorem State.putWarp_launches (s : State) (w : Warp) : (s.putWarp w).launches = s.launches := rfl
@[simp] theorem State.putWarp_wgs (s : State) (w : Warp) : (s.putWarp w).wgs = s.wgs := rfl
@[simp] theorem State.putWarp_accesses (s : State) (w : Warp) : (s.putWarp w).accesses = s.accesses := rfl
@[simp] theorem State.putWarp_copies (s : State) (w : Warp) : (s.putWarp w).copies = s.copies := rfl
@[simp] theorem State.putWarp_shadows (s : State) (w : Warp) : (s.putWarp w).shadows = s.shadows := rfl
@[simp] theorem State.putWarp_poolTaken (s : State) (w : Warp) : (s.putWarp w).poolTaken = s.poolTaken := rfl
@[simp] theorem State.putWarp_ends (s : State) (w : Warp) : (s.putWarp w).ends = s.ends := rfl
@[simp] theorem State.putWarp_resolving (s : State) (w : Warp) : (s.putWarp w).resolving = s.resolving := rfl
@[simp] theorem State.putWarp_queues (s : State) (w : Warp) : (s.putWarp w).queues = s.queues := rfl
@[simp] theorem State.putWarp_submitted (s : State) (w : Warp) : (s.putWarp w).submitted = s.submitted := rfl
@[simp] theorem State.putWarp_stages (s : State) (w : Warp) : (s.putWarp w).stages = s.stages := rfl
@[simp] theorem State.putWarp_devSeq (s : State) (w : Warp) : (s.putWarp w).devSeq = s.devSeq := rfl
@[simp] theorem State.putWarp_rotation (s : State) (w : Warp) : (s.putWarp w).rotation = s.rotation := rfl
@[simp] theorem State.putWarp_turns (s : State) (w : Warp) : (s.putWarp w).turns = s.turns := rfl
@[simp] theorem State.putWarp_freed (s : State) (w : Warp) : (s.putWarp w).freed = s.freed := rfl
@[simp] theorem State.putWarp_coaches (s : State) (w : Warp) : (s.putWarp w).coaches = s.coaches := rfl
@[simp] theorem State.putWarp_lineOps (s : State) (w : Warp) : (s.putWarp w).lineOps = s.lineOps := rfl
@[simp] theorem State.putWarp_lineStart (s : State) (w : Warp) : (s.putWarp w).lineStart = s.lineStart := rfl
@[simp] theorem State.putWarp_lineShift (s : State) (w : Warp) : (s.putWarp w).lineShift = s.lineShift := rfl
@[simp] theorem State.putWarp_catches (s : State) (w : Warp) : (s.putWarp w).catches = s.catches := rfl
@[simp] theorem State.putWarp_hostMask (s : State) (w : Warp) : (s.putWarp w).hostMask = s.hostMask := rfl
@[simp] theorem State.putWarp_windows (s : State) (w : Warp) : (s.putWarp w).windows = s.windows := rfl
@[simp] theorem State.putWarp_fabric (s : State) (w : Warp) : (s.putWarp w).fabric = s.fabric := rfl
@[simp] theorem State.putWarp_ports (s : State) (w : Warp) : (s.putWarp w).ports = s.ports := rfl
@[simp] theorem State.putWarp_backing (s : State) (w : Warp) : (s.putWarp w).backing = s.backing := rfl
@[simp] theorem State.putWarp_boot (s : State) (w : Warp) : (s.putWarp w).boot = s.boot := rfl
@[simp] theorem State.putWarp_measurement (s : State) (w : Warp) : (s.putWarp w).measurement = s.measurement := rfl
@[simp] theorem State.putWarp_svn (s : State) (w : Warp) : (s.putWarp w).svn = s.svn := rfl
@[simp] theorem State.putWarp_fusedSvn (s : State) (w : Warp) : (s.putWarp w).fusedSvn = s.fusedSvn := rfl
@[simp] theorem State.putWarp_imageVersions (s : State) (w : Warp) : (s.putWarp w).imageVersions = s.imageVersions := rfl
@[simp] theorem State.putWarp_negotiated (s : State) (w : Warp) : (s.putWarp w).negotiated = s.negotiated := rfl
@[simp] theorem State.putWarp_mailClock (s : State) (w : Warp) : (s.putWarp w).mailClock = s.mailClock := rfl
@[simp] theorem State.putWarp_mailPast (s : State) (w : Warp) : (s.putWarp w).mailPast = s.mailPast := rfl
@[simp] theorem State.putWarp_parked (s : State) (w : Warp) : (s.putWarp w).parked = s.parked := rfl
@[simp] theorem State.putWarp_mailOp (s : State) (w : Warp) : (s.putWarp w).mailOp = s.mailOp := rfl
@[simp] theorem State.putWarp_inbound (s : State) (w : Warp) : (s.putWarp w).inbound = s.inbound := rfl
@[simp] theorem State.putWarp_outbound (s : State) (w : Warp) : (s.putWarp w).outbound = s.outbound := rfl
@[simp] theorem State.putWarp_fabricOut (s : State) (w : Warp) : (s.putWarp w).fabricOut = s.fabricOut := rfl
@[simp] theorem State.putWarp_fabricAsks (s : State) (w : Warp) : (s.putWarp w).fabricAsks = s.fabricAsks := rfl
@[simp] theorem State.putWarp_log (s : State) (w : Warp) : (s.putWarp w).log = s.log := rfl
@[simp] theorem State.putWarp_upsets (s : State) (w : Warp) : (s.putWarp w).upsets = s.upsets := rfl
@[simp] theorem State.putWarp_written (s : State) (w : Warp) : (s.putWarp w).written = s.written := rfl
@[simp] theorem State.putWarp_ordered (s : State) (w : Warp) : (s.putWarp w).ordered = s.ordered := rfl
@[simp] theorem State.putWarp_agenda (s : State) (w : Warp) : (s.putWarp w).agenda = s.agenda := rfl
@[simp] theorem State.putWarp_issue (s : State) (w : Warp) : (s.putWarp w).issue = s.issue := rfl
@[simp] theorem State.putWarp_turn (s : State) (w : Warp) : (s.putWarp w).turn = s.turn := rfl
@[simp] theorem State.putWarp_fresh (s : State) (w : Warp) : (s.putWarp w).fresh = s.fresh := rfl
@[simp] theorem State.putWarp_free (s : State) (w : Warp) : (s.putWarp w).free = s.free := rfl
@[simp] theorem State.putWarp_lastIssued (s : State) (w : Warp) : (s.putWarp w).lastIssued = s.lastIssued := rfl

/-! ### putWg -/

@[simp] theorem State.putWg_cycle (s : State) (g : Workgroup) : (s.putWg g).cycle = s.cycle := rfl
@[simp] theorem State.putWg_tick (s : State) (g : Workgroup) : (s.putWg g).tick = s.tick := rfl
@[simp] theorem State.putWg_millivolts (s : State) (g : Workgroup) : (s.putWg g).millivolts = s.millivolts := rfl
@[simp] theorem State.putWg_mem (s : State) (g : Workgroup) : (s.putWg g).mem = s.mem := rfl
@[simp] theorem State.putWg_poisoned (s : State) (g : Workgroup) : (s.putWg g).poisoned = s.poisoned := rfl
@[simp] theorem State.putWg_hreserve (s : State) (g : Workgroup) : (s.putWg g).hreserve = s.hreserve := rfl
@[simp] theorem State.putWg_sliceClock (s : State) (g : Workgroup) : (s.putWg g).sliceClock = s.sliceClock := rfl
@[simp] theorem State.putWg_opClock (s : State) (g : Workgroup) : (s.putWg g).opClock = s.opClock := rfl
@[simp] theorem State.putWg_stamps (s : State) (g : Workgroup) : (s.putWg g).stamps = s.stamps := rfl
@[simp] theorem State.putWg_versions (s : State) (g : Workgroup) : (s.putWg g).versions = s.versions := rfl
@[simp] theorem State.putWg_histPages (s : State) (g : Workgroup) : (s.putWg g).histPages = s.histPages := rfl
@[simp] theorem State.putWg_mapHistory (s : State) (g : Workgroup) : (s.putWg g).mapHistory = s.mapHistory := rfl
@[simp] theorem State.putWg_stackFloor (s : State) (g : Workgroup) : (s.putWg g).stackFloor = s.stackFloor := rfl
@[simp] theorem State.putWg_regionFloor (s : State) (g : Workgroup) : (s.putWg g).regionFloor = s.regionFloor := rfl
@[simp] theorem State.putWg_floorsInEffect (s : State) (g : Workgroup) : (s.putWg g).floorsInEffect = s.floorsInEffect := rfl
@[simp] theorem State.putWg_pendingFloors (s : State) (g : Workgroup) : (s.putWg g).pendingFloors = s.pendingFloors := rfl
@[simp] theorem State.putWg_frontierG (s : State) (g : Workgroup) : (s.putWg g).frontierG = s.frontierG := rfl
@[simp] theorem State.putWg_roots (s : State) (g : Workgroup) : (s.putWg g).roots = s.roots := rfl
@[simp] theorem State.putWg_tlb (s : State) (g : Workgroup) : (s.putWg g).tlb = s.tlb := rfl
@[simp] theorem State.putWg_walks (s : State) (g : Workgroup) : (s.putWg g).walks = s.walks := rfl
@[simp] theorem State.putWg_dies (s : State) (g : Workgroup) : (s.putWg g).dies = s.dies := rfl
@[simp] theorem State.putWg_cores (s : State) (g : Workgroup) : (s.putWg g).cores = s.cores := rfl
@[simp] theorem State.putWg_regionTable (s : State) (g : Workgroup) : (s.putWg g).regionTable = s.regionTable := rfl
@[simp] theorem State.putWg_regions (s : State) (g : Workgroup) : (s.putWg g).regions = s.regions := rfl
@[simp] theorem State.putWg_allocs (s : State) (g : Workgroup) : (s.putWg g).allocs = s.allocs := rfl
@[simp] theorem State.putWg_launches (s : State) (g : Workgroup) : (s.putWg g).launches = s.launches := rfl
@[simp] theorem State.putWg_warps (s : State) (g : Workgroup) : (s.putWg g).warps = s.warps := rfl
@[simp] theorem State.putWg_accesses (s : State) (g : Workgroup) : (s.putWg g).accesses = s.accesses := rfl
@[simp] theorem State.putWg_copies (s : State) (g : Workgroup) : (s.putWg g).copies = s.copies := rfl
@[simp] theorem State.putWg_shadows (s : State) (g : Workgroup) : (s.putWg g).shadows = s.shadows := rfl
@[simp] theorem State.putWg_poolTaken (s : State) (g : Workgroup) : (s.putWg g).poolTaken = s.poolTaken := rfl
@[simp] theorem State.putWg_ends (s : State) (g : Workgroup) : (s.putWg g).ends = s.ends := rfl
@[simp] theorem State.putWg_resolving (s : State) (g : Workgroup) : (s.putWg g).resolving = s.resolving := rfl
@[simp] theorem State.putWg_queues (s : State) (g : Workgroup) : (s.putWg g).queues = s.queues := rfl
@[simp] theorem State.putWg_submitted (s : State) (g : Workgroup) : (s.putWg g).submitted = s.submitted := rfl
@[simp] theorem State.putWg_stages (s : State) (g : Workgroup) : (s.putWg g).stages = s.stages := rfl
@[simp] theorem State.putWg_devSeq (s : State) (g : Workgroup) : (s.putWg g).devSeq = s.devSeq := rfl
@[simp] theorem State.putWg_rotation (s : State) (g : Workgroup) : (s.putWg g).rotation = s.rotation := rfl
@[simp] theorem State.putWg_turns (s : State) (g : Workgroup) : (s.putWg g).turns = s.turns := rfl
@[simp] theorem State.putWg_freed (s : State) (g : Workgroup) : (s.putWg g).freed = s.freed := rfl
@[simp] theorem State.putWg_coaches (s : State) (g : Workgroup) : (s.putWg g).coaches = s.coaches := rfl
@[simp] theorem State.putWg_lineOps (s : State) (g : Workgroup) : (s.putWg g).lineOps = s.lineOps := rfl
@[simp] theorem State.putWg_lineStart (s : State) (g : Workgroup) : (s.putWg g).lineStart = s.lineStart := rfl
@[simp] theorem State.putWg_lineShift (s : State) (g : Workgroup) : (s.putWg g).lineShift = s.lineShift := rfl
@[simp] theorem State.putWg_catches (s : State) (g : Workgroup) : (s.putWg g).catches = s.catches := rfl
@[simp] theorem State.putWg_hostMask (s : State) (g : Workgroup) : (s.putWg g).hostMask = s.hostMask := rfl
@[simp] theorem State.putWg_windows (s : State) (g : Workgroup) : (s.putWg g).windows = s.windows := rfl
@[simp] theorem State.putWg_fabric (s : State) (g : Workgroup) : (s.putWg g).fabric = s.fabric := rfl
@[simp] theorem State.putWg_ports (s : State) (g : Workgroup) : (s.putWg g).ports = s.ports := rfl
@[simp] theorem State.putWg_backing (s : State) (g : Workgroup) : (s.putWg g).backing = s.backing := rfl
@[simp] theorem State.putWg_boot (s : State) (g : Workgroup) : (s.putWg g).boot = s.boot := rfl
@[simp] theorem State.putWg_measurement (s : State) (g : Workgroup) : (s.putWg g).measurement = s.measurement := rfl
@[simp] theorem State.putWg_svn (s : State) (g : Workgroup) : (s.putWg g).svn = s.svn := rfl
@[simp] theorem State.putWg_fusedSvn (s : State) (g : Workgroup) : (s.putWg g).fusedSvn = s.fusedSvn := rfl
@[simp] theorem State.putWg_imageVersions (s : State) (g : Workgroup) : (s.putWg g).imageVersions = s.imageVersions := rfl
@[simp] theorem State.putWg_negotiated (s : State) (g : Workgroup) : (s.putWg g).negotiated = s.negotiated := rfl
@[simp] theorem State.putWg_mailClock (s : State) (g : Workgroup) : (s.putWg g).mailClock = s.mailClock := rfl
@[simp] theorem State.putWg_mailPast (s : State) (g : Workgroup) : (s.putWg g).mailPast = s.mailPast := rfl
@[simp] theorem State.putWg_parked (s : State) (g : Workgroup) : (s.putWg g).parked = s.parked := rfl
@[simp] theorem State.putWg_mailOp (s : State) (g : Workgroup) : (s.putWg g).mailOp = s.mailOp := rfl
@[simp] theorem State.putWg_inbound (s : State) (g : Workgroup) : (s.putWg g).inbound = s.inbound := rfl
@[simp] theorem State.putWg_outbound (s : State) (g : Workgroup) : (s.putWg g).outbound = s.outbound := rfl
@[simp] theorem State.putWg_fabricOut (s : State) (g : Workgroup) : (s.putWg g).fabricOut = s.fabricOut := rfl
@[simp] theorem State.putWg_fabricAsks (s : State) (g : Workgroup) : (s.putWg g).fabricAsks = s.fabricAsks := rfl
@[simp] theorem State.putWg_log (s : State) (g : Workgroup) : (s.putWg g).log = s.log := rfl
@[simp] theorem State.putWg_upsets (s : State) (g : Workgroup) : (s.putWg g).upsets = s.upsets := rfl
@[simp] theorem State.putWg_written (s : State) (g : Workgroup) : (s.putWg g).written = s.written := rfl
@[simp] theorem State.putWg_ordered (s : State) (g : Workgroup) : (s.putWg g).ordered = s.ordered := rfl
@[simp] theorem State.putWg_agenda (s : State) (g : Workgroup) : (s.putWg g).agenda = s.agenda := rfl
@[simp] theorem State.putWg_issue (s : State) (g : Workgroup) : (s.putWg g).issue = s.issue := rfl
@[simp] theorem State.putWg_turn (s : State) (g : Workgroup) : (s.putWg g).turn = s.turn := rfl
@[simp] theorem State.putWg_fresh (s : State) (g : Workgroup) : (s.putWg g).fresh = s.fresh := rfl
@[simp] theorem State.putWg_free (s : State) (g : Workgroup) : (s.putWg g).free = s.free := rfl
@[simp] theorem State.putWg_lastIssued (s : State) (g : Workgroup) : (s.putWg g).lastIssued = s.lastIssued := rfl

/-! ### putLaunch -/

@[simp] theorem State.putLaunch_cycle (s : State) (l : Launch) : (s.putLaunch l).cycle = s.cycle := rfl
@[simp] theorem State.putLaunch_tick (s : State) (l : Launch) : (s.putLaunch l).tick = s.tick := rfl
@[simp] theorem State.putLaunch_millivolts (s : State) (l : Launch) : (s.putLaunch l).millivolts = s.millivolts := rfl
@[simp] theorem State.putLaunch_mem (s : State) (l : Launch) : (s.putLaunch l).mem = s.mem := rfl
@[simp] theorem State.putLaunch_poisoned (s : State) (l : Launch) : (s.putLaunch l).poisoned = s.poisoned := rfl
@[simp] theorem State.putLaunch_hreserve (s : State) (l : Launch) : (s.putLaunch l).hreserve = s.hreserve := rfl
@[simp] theorem State.putLaunch_sliceClock (s : State) (l : Launch) : (s.putLaunch l).sliceClock = s.sliceClock := rfl
@[simp] theorem State.putLaunch_opClock (s : State) (l : Launch) : (s.putLaunch l).opClock = s.opClock := rfl
@[simp] theorem State.putLaunch_stamps (s : State) (l : Launch) : (s.putLaunch l).stamps = s.stamps := rfl
@[simp] theorem State.putLaunch_versions (s : State) (l : Launch) : (s.putLaunch l).versions = s.versions := rfl
@[simp] theorem State.putLaunch_histPages (s : State) (l : Launch) : (s.putLaunch l).histPages = s.histPages := rfl
@[simp] theorem State.putLaunch_mapHistory (s : State) (l : Launch) : (s.putLaunch l).mapHistory = s.mapHistory := rfl
@[simp] theorem State.putLaunch_stackFloor (s : State) (l : Launch) : (s.putLaunch l).stackFloor = s.stackFloor := rfl
@[simp] theorem State.putLaunch_regionFloor (s : State) (l : Launch) : (s.putLaunch l).regionFloor = s.regionFloor := rfl
@[simp] theorem State.putLaunch_floorsInEffect (s : State) (l : Launch) : (s.putLaunch l).floorsInEffect = s.floorsInEffect := rfl
@[simp] theorem State.putLaunch_pendingFloors (s : State) (l : Launch) : (s.putLaunch l).pendingFloors = s.pendingFloors := rfl
@[simp] theorem State.putLaunch_frontierG (s : State) (l : Launch) : (s.putLaunch l).frontierG = s.frontierG := rfl
@[simp] theorem State.putLaunch_roots (s : State) (l : Launch) : (s.putLaunch l).roots = s.roots := rfl
@[simp] theorem State.putLaunch_tlb (s : State) (l : Launch) : (s.putLaunch l).tlb = s.tlb := rfl
@[simp] theorem State.putLaunch_walks (s : State) (l : Launch) : (s.putLaunch l).walks = s.walks := rfl
@[simp] theorem State.putLaunch_dies (s : State) (l : Launch) : (s.putLaunch l).dies = s.dies := rfl
@[simp] theorem State.putLaunch_cores (s : State) (l : Launch) : (s.putLaunch l).cores = s.cores := rfl
@[simp] theorem State.putLaunch_regionTable (s : State) (l : Launch) : (s.putLaunch l).regionTable = s.regionTable := rfl
@[simp] theorem State.putLaunch_regions (s : State) (l : Launch) : (s.putLaunch l).regions = s.regions := rfl
@[simp] theorem State.putLaunch_allocs (s : State) (l : Launch) : (s.putLaunch l).allocs = s.allocs := rfl
@[simp] theorem State.putLaunch_wgs (s : State) (l : Launch) : (s.putLaunch l).wgs = s.wgs := rfl
@[simp] theorem State.putLaunch_warps (s : State) (l : Launch) : (s.putLaunch l).warps = s.warps := rfl
@[simp] theorem State.putLaunch_accesses (s : State) (l : Launch) : (s.putLaunch l).accesses = s.accesses := rfl
@[simp] theorem State.putLaunch_copies (s : State) (l : Launch) : (s.putLaunch l).copies = s.copies := rfl
@[simp] theorem State.putLaunch_shadows (s : State) (l : Launch) : (s.putLaunch l).shadows = s.shadows := rfl
@[simp] theorem State.putLaunch_poolTaken (s : State) (l : Launch) : (s.putLaunch l).poolTaken = s.poolTaken := rfl
@[simp] theorem State.putLaunch_ends (s : State) (l : Launch) : (s.putLaunch l).ends = s.ends := rfl
@[simp] theorem State.putLaunch_resolving (s : State) (l : Launch) : (s.putLaunch l).resolving = s.resolving := rfl
@[simp] theorem State.putLaunch_queues (s : State) (l : Launch) : (s.putLaunch l).queues = s.queues := rfl
@[simp] theorem State.putLaunch_submitted (s : State) (l : Launch) : (s.putLaunch l).submitted = s.submitted := rfl
@[simp] theorem State.putLaunch_stages (s : State) (l : Launch) : (s.putLaunch l).stages = s.stages := rfl
@[simp] theorem State.putLaunch_devSeq (s : State) (l : Launch) : (s.putLaunch l).devSeq = s.devSeq := rfl
@[simp] theorem State.putLaunch_rotation (s : State) (l : Launch) : (s.putLaunch l).rotation = s.rotation := rfl
@[simp] theorem State.putLaunch_turns (s : State) (l : Launch) : (s.putLaunch l).turns = s.turns := rfl
@[simp] theorem State.putLaunch_freed (s : State) (l : Launch) : (s.putLaunch l).freed = s.freed := rfl
@[simp] theorem State.putLaunch_coaches (s : State) (l : Launch) : (s.putLaunch l).coaches = s.coaches := rfl
@[simp] theorem State.putLaunch_lineOps (s : State) (l : Launch) : (s.putLaunch l).lineOps = s.lineOps := rfl
@[simp] theorem State.putLaunch_lineStart (s : State) (l : Launch) : (s.putLaunch l).lineStart = s.lineStart := rfl
@[simp] theorem State.putLaunch_lineShift (s : State) (l : Launch) : (s.putLaunch l).lineShift = s.lineShift := rfl
@[simp] theorem State.putLaunch_catches (s : State) (l : Launch) : (s.putLaunch l).catches = s.catches := rfl
@[simp] theorem State.putLaunch_hostMask (s : State) (l : Launch) : (s.putLaunch l).hostMask = s.hostMask := rfl
@[simp] theorem State.putLaunch_windows (s : State) (l : Launch) : (s.putLaunch l).windows = s.windows := rfl
@[simp] theorem State.putLaunch_fabric (s : State) (l : Launch) : (s.putLaunch l).fabric = s.fabric := rfl
@[simp] theorem State.putLaunch_ports (s : State) (l : Launch) : (s.putLaunch l).ports = s.ports := rfl
@[simp] theorem State.putLaunch_backing (s : State) (l : Launch) : (s.putLaunch l).backing = s.backing := rfl
@[simp] theorem State.putLaunch_boot (s : State) (l : Launch) : (s.putLaunch l).boot = s.boot := rfl
@[simp] theorem State.putLaunch_measurement (s : State) (l : Launch) : (s.putLaunch l).measurement = s.measurement := rfl
@[simp] theorem State.putLaunch_svn (s : State) (l : Launch) : (s.putLaunch l).svn = s.svn := rfl
@[simp] theorem State.putLaunch_fusedSvn (s : State) (l : Launch) : (s.putLaunch l).fusedSvn = s.fusedSvn := rfl
@[simp] theorem State.putLaunch_imageVersions (s : State) (l : Launch) : (s.putLaunch l).imageVersions = s.imageVersions := rfl
@[simp] theorem State.putLaunch_negotiated (s : State) (l : Launch) : (s.putLaunch l).negotiated = s.negotiated := rfl
@[simp] theorem State.putLaunch_mailClock (s : State) (l : Launch) : (s.putLaunch l).mailClock = s.mailClock := rfl
@[simp] theorem State.putLaunch_mailPast (s : State) (l : Launch) : (s.putLaunch l).mailPast = s.mailPast := rfl
@[simp] theorem State.putLaunch_parked (s : State) (l : Launch) : (s.putLaunch l).parked = s.parked := rfl
@[simp] theorem State.putLaunch_mailOp (s : State) (l : Launch) : (s.putLaunch l).mailOp = s.mailOp := rfl
@[simp] theorem State.putLaunch_inbound (s : State) (l : Launch) : (s.putLaunch l).inbound = s.inbound := rfl
@[simp] theorem State.putLaunch_outbound (s : State) (l : Launch) : (s.putLaunch l).outbound = s.outbound := rfl
@[simp] theorem State.putLaunch_fabricOut (s : State) (l : Launch) : (s.putLaunch l).fabricOut = s.fabricOut := rfl
@[simp] theorem State.putLaunch_fabricAsks (s : State) (l : Launch) : (s.putLaunch l).fabricAsks = s.fabricAsks := rfl
@[simp] theorem State.putLaunch_log (s : State) (l : Launch) : (s.putLaunch l).log = s.log := rfl
@[simp] theorem State.putLaunch_upsets (s : State) (l : Launch) : (s.putLaunch l).upsets = s.upsets := rfl
@[simp] theorem State.putLaunch_written (s : State) (l : Launch) : (s.putLaunch l).written = s.written := rfl
@[simp] theorem State.putLaunch_ordered (s : State) (l : Launch) : (s.putLaunch l).ordered = s.ordered := rfl
@[simp] theorem State.putLaunch_agenda (s : State) (l : Launch) : (s.putLaunch l).agenda = s.agenda := rfl
@[simp] theorem State.putLaunch_issue (s : State) (l : Launch) : (s.putLaunch l).issue = s.issue := rfl
@[simp] theorem State.putLaunch_turn (s : State) (l : Launch) : (s.putLaunch l).turn = s.turn := rfl
@[simp] theorem State.putLaunch_fresh (s : State) (l : Launch) : (s.putLaunch l).fresh = s.fresh := rfl
@[simp] theorem State.putLaunch_free (s : State) (l : Launch) : (s.putLaunch l).free = s.free := rfl
@[simp] theorem State.putLaunch_lastIssued (s : State) (l : Launch) : (s.putLaunch l).lastIssued = s.lastIssued := rfl

/-! ### putAccess -/

@[simp] theorem State.putAccess_cycle (s : State) (a : Access) : (s.putAccess a).cycle = s.cycle := rfl
@[simp] theorem State.putAccess_tick (s : State) (a : Access) : (s.putAccess a).tick = s.tick := rfl
@[simp] theorem State.putAccess_millivolts (s : State) (a : Access) : (s.putAccess a).millivolts = s.millivolts := rfl
@[simp] theorem State.putAccess_mem (s : State) (a : Access) : (s.putAccess a).mem = s.mem := rfl
@[simp] theorem State.putAccess_poisoned (s : State) (a : Access) : (s.putAccess a).poisoned = s.poisoned := rfl
@[simp] theorem State.putAccess_hreserve (s : State) (a : Access) : (s.putAccess a).hreserve = s.hreserve := rfl
@[simp] theorem State.putAccess_sliceClock (s : State) (a : Access) : (s.putAccess a).sliceClock = s.sliceClock := rfl
@[simp] theorem State.putAccess_opClock (s : State) (a : Access) : (s.putAccess a).opClock = s.opClock := rfl
@[simp] theorem State.putAccess_stamps (s : State) (a : Access) : (s.putAccess a).stamps = s.stamps := rfl
@[simp] theorem State.putAccess_versions (s : State) (a : Access) : (s.putAccess a).versions = s.versions := rfl
@[simp] theorem State.putAccess_histPages (s : State) (a : Access) : (s.putAccess a).histPages = s.histPages := rfl
@[simp] theorem State.putAccess_mapHistory (s : State) (a : Access) : (s.putAccess a).mapHistory = s.mapHistory := rfl
@[simp] theorem State.putAccess_stackFloor (s : State) (a : Access) : (s.putAccess a).stackFloor = s.stackFloor := rfl
@[simp] theorem State.putAccess_regionFloor (s : State) (a : Access) : (s.putAccess a).regionFloor = s.regionFloor := rfl
@[simp] theorem State.putAccess_floorsInEffect (s : State) (a : Access) : (s.putAccess a).floorsInEffect = s.floorsInEffect := rfl
@[simp] theorem State.putAccess_pendingFloors (s : State) (a : Access) : (s.putAccess a).pendingFloors = s.pendingFloors := rfl
@[simp] theorem State.putAccess_frontierG (s : State) (a : Access) : (s.putAccess a).frontierG = s.frontierG := rfl
@[simp] theorem State.putAccess_roots (s : State) (a : Access) : (s.putAccess a).roots = s.roots := rfl
@[simp] theorem State.putAccess_tlb (s : State) (a : Access) : (s.putAccess a).tlb = s.tlb := rfl
@[simp] theorem State.putAccess_walks (s : State) (a : Access) : (s.putAccess a).walks = s.walks := rfl
@[simp] theorem State.putAccess_dies (s : State) (a : Access) : (s.putAccess a).dies = s.dies := rfl
@[simp] theorem State.putAccess_cores (s : State) (a : Access) : (s.putAccess a).cores = s.cores := rfl
@[simp] theorem State.putAccess_regionTable (s : State) (a : Access) : (s.putAccess a).regionTable = s.regionTable := rfl
@[simp] theorem State.putAccess_regions (s : State) (a : Access) : (s.putAccess a).regions = s.regions := rfl
@[simp] theorem State.putAccess_allocs (s : State) (a : Access) : (s.putAccess a).allocs = s.allocs := rfl
@[simp] theorem State.putAccess_launches (s : State) (a : Access) : (s.putAccess a).launches = s.launches := rfl
@[simp] theorem State.putAccess_wgs (s : State) (a : Access) : (s.putAccess a).wgs = s.wgs := rfl
@[simp] theorem State.putAccess_warps (s : State) (a : Access) : (s.putAccess a).warps = s.warps := rfl
@[simp] theorem State.putAccess_copies (s : State) (a : Access) : (s.putAccess a).copies = s.copies := rfl
@[simp] theorem State.putAccess_shadows (s : State) (a : Access) : (s.putAccess a).shadows = s.shadows := rfl
@[simp] theorem State.putAccess_poolTaken (s : State) (a : Access) : (s.putAccess a).poolTaken = s.poolTaken := rfl
@[simp] theorem State.putAccess_ends (s : State) (a : Access) : (s.putAccess a).ends = s.ends := rfl
@[simp] theorem State.putAccess_resolving (s : State) (a : Access) : (s.putAccess a).resolving = s.resolving := rfl
@[simp] theorem State.putAccess_queues (s : State) (a : Access) : (s.putAccess a).queues = s.queues := rfl
@[simp] theorem State.putAccess_submitted (s : State) (a : Access) : (s.putAccess a).submitted = s.submitted := rfl
@[simp] theorem State.putAccess_stages (s : State) (a : Access) : (s.putAccess a).stages = s.stages := rfl
@[simp] theorem State.putAccess_devSeq (s : State) (a : Access) : (s.putAccess a).devSeq = s.devSeq := rfl
@[simp] theorem State.putAccess_rotation (s : State) (a : Access) : (s.putAccess a).rotation = s.rotation := rfl
@[simp] theorem State.putAccess_turns (s : State) (a : Access) : (s.putAccess a).turns = s.turns := rfl
@[simp] theorem State.putAccess_freed (s : State) (a : Access) : (s.putAccess a).freed = s.freed := rfl
@[simp] theorem State.putAccess_coaches (s : State) (a : Access) : (s.putAccess a).coaches = s.coaches := rfl
@[simp] theorem State.putAccess_lineOps (s : State) (a : Access) : (s.putAccess a).lineOps = s.lineOps := rfl
@[simp] theorem State.putAccess_lineStart (s : State) (a : Access) : (s.putAccess a).lineStart = s.lineStart := rfl
@[simp] theorem State.putAccess_lineShift (s : State) (a : Access) : (s.putAccess a).lineShift = s.lineShift := rfl
@[simp] theorem State.putAccess_catches (s : State) (a : Access) : (s.putAccess a).catches = s.catches := rfl
@[simp] theorem State.putAccess_hostMask (s : State) (a : Access) : (s.putAccess a).hostMask = s.hostMask := rfl
@[simp] theorem State.putAccess_windows (s : State) (a : Access) : (s.putAccess a).windows = s.windows := rfl
@[simp] theorem State.putAccess_fabric (s : State) (a : Access) : (s.putAccess a).fabric = s.fabric := rfl
@[simp] theorem State.putAccess_ports (s : State) (a : Access) : (s.putAccess a).ports = s.ports := rfl
@[simp] theorem State.putAccess_backing (s : State) (a : Access) : (s.putAccess a).backing = s.backing := rfl
@[simp] theorem State.putAccess_boot (s : State) (a : Access) : (s.putAccess a).boot = s.boot := rfl
@[simp] theorem State.putAccess_measurement (s : State) (a : Access) : (s.putAccess a).measurement = s.measurement := rfl
@[simp] theorem State.putAccess_svn (s : State) (a : Access) : (s.putAccess a).svn = s.svn := rfl
@[simp] theorem State.putAccess_fusedSvn (s : State) (a : Access) : (s.putAccess a).fusedSvn = s.fusedSvn := rfl
@[simp] theorem State.putAccess_imageVersions (s : State) (a : Access) : (s.putAccess a).imageVersions = s.imageVersions := rfl
@[simp] theorem State.putAccess_negotiated (s : State) (a : Access) : (s.putAccess a).negotiated = s.negotiated := rfl
@[simp] theorem State.putAccess_mailClock (s : State) (a : Access) : (s.putAccess a).mailClock = s.mailClock := rfl
@[simp] theorem State.putAccess_mailPast (s : State) (a : Access) : (s.putAccess a).mailPast = s.mailPast := rfl
@[simp] theorem State.putAccess_parked (s : State) (a : Access) : (s.putAccess a).parked = s.parked := rfl
@[simp] theorem State.putAccess_mailOp (s : State) (a : Access) : (s.putAccess a).mailOp = s.mailOp := rfl
@[simp] theorem State.putAccess_inbound (s : State) (a : Access) : (s.putAccess a).inbound = s.inbound := rfl
@[simp] theorem State.putAccess_outbound (s : State) (a : Access) : (s.putAccess a).outbound = s.outbound := rfl
@[simp] theorem State.putAccess_fabricOut (s : State) (a : Access) : (s.putAccess a).fabricOut = s.fabricOut := rfl
@[simp] theorem State.putAccess_fabricAsks (s : State) (a : Access) : (s.putAccess a).fabricAsks = s.fabricAsks := rfl
@[simp] theorem State.putAccess_log (s : State) (a : Access) : (s.putAccess a).log = s.log := rfl
@[simp] theorem State.putAccess_upsets (s : State) (a : Access) : (s.putAccess a).upsets = s.upsets := rfl
@[simp] theorem State.putAccess_written (s : State) (a : Access) : (s.putAccess a).written = s.written := rfl
@[simp] theorem State.putAccess_ordered (s : State) (a : Access) : (s.putAccess a).ordered = s.ordered := rfl
@[simp] theorem State.putAccess_agenda (s : State) (a : Access) : (s.putAccess a).agenda = s.agenda := rfl
@[simp] theorem State.putAccess_issue (s : State) (a : Access) : (s.putAccess a).issue = s.issue := rfl
@[simp] theorem State.putAccess_turn (s : State) (a : Access) : (s.putAccess a).turn = s.turn := rfl
@[simp] theorem State.putAccess_fresh (s : State) (a : Access) : (s.putAccess a).fresh = s.fresh := rfl
@[simp] theorem State.putAccess_free (s : State) (a : Access) : (s.putAccess a).free = s.free := rfl
@[simp] theorem State.putAccess_lastIssued (s : State) (a : Access) : (s.putAccess a).lastIssued = s.lastIssued := rfl

/-! ### putCopy -/

@[simp] theorem State.putCopy_cycle (s : State) (c : Copy) : (s.putCopy c).cycle = s.cycle := rfl
@[simp] theorem State.putCopy_tick (s : State) (c : Copy) : (s.putCopy c).tick = s.tick := rfl
@[simp] theorem State.putCopy_millivolts (s : State) (c : Copy) : (s.putCopy c).millivolts = s.millivolts := rfl
@[simp] theorem State.putCopy_mem (s : State) (c : Copy) : (s.putCopy c).mem = s.mem := rfl
@[simp] theorem State.putCopy_poisoned (s : State) (c : Copy) : (s.putCopy c).poisoned = s.poisoned := rfl
@[simp] theorem State.putCopy_hreserve (s : State) (c : Copy) : (s.putCopy c).hreserve = s.hreserve := rfl
@[simp] theorem State.putCopy_sliceClock (s : State) (c : Copy) : (s.putCopy c).sliceClock = s.sliceClock := rfl
@[simp] theorem State.putCopy_opClock (s : State) (c : Copy) : (s.putCopy c).opClock = s.opClock := rfl
@[simp] theorem State.putCopy_stamps (s : State) (c : Copy) : (s.putCopy c).stamps = s.stamps := rfl
@[simp] theorem State.putCopy_versions (s : State) (c : Copy) : (s.putCopy c).versions = s.versions := rfl
@[simp] theorem State.putCopy_histPages (s : State) (c : Copy) : (s.putCopy c).histPages = s.histPages := rfl
@[simp] theorem State.putCopy_mapHistory (s : State) (c : Copy) : (s.putCopy c).mapHistory = s.mapHistory := rfl
@[simp] theorem State.putCopy_stackFloor (s : State) (c : Copy) : (s.putCopy c).stackFloor = s.stackFloor := rfl
@[simp] theorem State.putCopy_regionFloor (s : State) (c : Copy) : (s.putCopy c).regionFloor = s.regionFloor := rfl
@[simp] theorem State.putCopy_floorsInEffect (s : State) (c : Copy) : (s.putCopy c).floorsInEffect = s.floorsInEffect := rfl
@[simp] theorem State.putCopy_pendingFloors (s : State) (c : Copy) : (s.putCopy c).pendingFloors = s.pendingFloors := rfl
@[simp] theorem State.putCopy_frontierG (s : State) (c : Copy) : (s.putCopy c).frontierG = s.frontierG := rfl
@[simp] theorem State.putCopy_roots (s : State) (c : Copy) : (s.putCopy c).roots = s.roots := rfl
@[simp] theorem State.putCopy_tlb (s : State) (c : Copy) : (s.putCopy c).tlb = s.tlb := rfl
@[simp] theorem State.putCopy_walks (s : State) (c : Copy) : (s.putCopy c).walks = s.walks := rfl
@[simp] theorem State.putCopy_dies (s : State) (c : Copy) : (s.putCopy c).dies = s.dies := rfl
@[simp] theorem State.putCopy_cores (s : State) (c : Copy) : (s.putCopy c).cores = s.cores := rfl
@[simp] theorem State.putCopy_regionTable (s : State) (c : Copy) : (s.putCopy c).regionTable = s.regionTable := rfl
@[simp] theorem State.putCopy_regions (s : State) (c : Copy) : (s.putCopy c).regions = s.regions := rfl
@[simp] theorem State.putCopy_allocs (s : State) (c : Copy) : (s.putCopy c).allocs = s.allocs := rfl
@[simp] theorem State.putCopy_launches (s : State) (c : Copy) : (s.putCopy c).launches = s.launches := rfl
@[simp] theorem State.putCopy_wgs (s : State) (c : Copy) : (s.putCopy c).wgs = s.wgs := rfl
@[simp] theorem State.putCopy_warps (s : State) (c : Copy) : (s.putCopy c).warps = s.warps := rfl
@[simp] theorem State.putCopy_accesses (s : State) (c : Copy) : (s.putCopy c).accesses = s.accesses := rfl
@[simp] theorem State.putCopy_shadows (s : State) (c : Copy) : (s.putCopy c).shadows = s.shadows := rfl
@[simp] theorem State.putCopy_poolTaken (s : State) (c : Copy) : (s.putCopy c).poolTaken = s.poolTaken := rfl
@[simp] theorem State.putCopy_ends (s : State) (c : Copy) : (s.putCopy c).ends = s.ends := rfl
@[simp] theorem State.putCopy_resolving (s : State) (c : Copy) : (s.putCopy c).resolving = s.resolving := rfl
@[simp] theorem State.putCopy_queues (s : State) (c : Copy) : (s.putCopy c).queues = s.queues := rfl
@[simp] theorem State.putCopy_submitted (s : State) (c : Copy) : (s.putCopy c).submitted = s.submitted := rfl
@[simp] theorem State.putCopy_stages (s : State) (c : Copy) : (s.putCopy c).stages = s.stages := rfl
@[simp] theorem State.putCopy_devSeq (s : State) (c : Copy) : (s.putCopy c).devSeq = s.devSeq := rfl
@[simp] theorem State.putCopy_rotation (s : State) (c : Copy) : (s.putCopy c).rotation = s.rotation := rfl
@[simp] theorem State.putCopy_turns (s : State) (c : Copy) : (s.putCopy c).turns = s.turns := rfl
@[simp] theorem State.putCopy_freed (s : State) (c : Copy) : (s.putCopy c).freed = s.freed := rfl
@[simp] theorem State.putCopy_coaches (s : State) (c : Copy) : (s.putCopy c).coaches = s.coaches := rfl
@[simp] theorem State.putCopy_lineOps (s : State) (c : Copy) : (s.putCopy c).lineOps = s.lineOps := rfl
@[simp] theorem State.putCopy_lineStart (s : State) (c : Copy) : (s.putCopy c).lineStart = s.lineStart := rfl
@[simp] theorem State.putCopy_lineShift (s : State) (c : Copy) : (s.putCopy c).lineShift = s.lineShift := rfl
@[simp] theorem State.putCopy_catches (s : State) (c : Copy) : (s.putCopy c).catches = s.catches := rfl
@[simp] theorem State.putCopy_hostMask (s : State) (c : Copy) : (s.putCopy c).hostMask = s.hostMask := rfl
@[simp] theorem State.putCopy_windows (s : State) (c : Copy) : (s.putCopy c).windows = s.windows := rfl
@[simp] theorem State.putCopy_fabric (s : State) (c : Copy) : (s.putCopy c).fabric = s.fabric := rfl
@[simp] theorem State.putCopy_ports (s : State) (c : Copy) : (s.putCopy c).ports = s.ports := rfl
@[simp] theorem State.putCopy_backing (s : State) (c : Copy) : (s.putCopy c).backing = s.backing := rfl
@[simp] theorem State.putCopy_boot (s : State) (c : Copy) : (s.putCopy c).boot = s.boot := rfl
@[simp] theorem State.putCopy_measurement (s : State) (c : Copy) : (s.putCopy c).measurement = s.measurement := rfl
@[simp] theorem State.putCopy_svn (s : State) (c : Copy) : (s.putCopy c).svn = s.svn := rfl
@[simp] theorem State.putCopy_fusedSvn (s : State) (c : Copy) : (s.putCopy c).fusedSvn = s.fusedSvn := rfl
@[simp] theorem State.putCopy_imageVersions (s : State) (c : Copy) : (s.putCopy c).imageVersions = s.imageVersions := rfl
@[simp] theorem State.putCopy_negotiated (s : State) (c : Copy) : (s.putCopy c).negotiated = s.negotiated := rfl
@[simp] theorem State.putCopy_mailClock (s : State) (c : Copy) : (s.putCopy c).mailClock = s.mailClock := rfl
@[simp] theorem State.putCopy_mailPast (s : State) (c : Copy) : (s.putCopy c).mailPast = s.mailPast := rfl
@[simp] theorem State.putCopy_parked (s : State) (c : Copy) : (s.putCopy c).parked = s.parked := rfl
@[simp] theorem State.putCopy_mailOp (s : State) (c : Copy) : (s.putCopy c).mailOp = s.mailOp := rfl
@[simp] theorem State.putCopy_inbound (s : State) (c : Copy) : (s.putCopy c).inbound = s.inbound := rfl
@[simp] theorem State.putCopy_outbound (s : State) (c : Copy) : (s.putCopy c).outbound = s.outbound := rfl
@[simp] theorem State.putCopy_fabricOut (s : State) (c : Copy) : (s.putCopy c).fabricOut = s.fabricOut := rfl
@[simp] theorem State.putCopy_fabricAsks (s : State) (c : Copy) : (s.putCopy c).fabricAsks = s.fabricAsks := rfl
@[simp] theorem State.putCopy_log (s : State) (c : Copy) : (s.putCopy c).log = s.log := rfl
@[simp] theorem State.putCopy_upsets (s : State) (c : Copy) : (s.putCopy c).upsets = s.upsets := rfl
@[simp] theorem State.putCopy_written (s : State) (c : Copy) : (s.putCopy c).written = s.written := rfl
@[simp] theorem State.putCopy_ordered (s : State) (c : Copy) : (s.putCopy c).ordered = s.ordered := rfl
@[simp] theorem State.putCopy_agenda (s : State) (c : Copy) : (s.putCopy c).agenda = s.agenda := rfl
@[simp] theorem State.putCopy_issue (s : State) (c : Copy) : (s.putCopy c).issue = s.issue := rfl
@[simp] theorem State.putCopy_turn (s : State) (c : Copy) : (s.putCopy c).turn = s.turn := rfl
@[simp] theorem State.putCopy_fresh (s : State) (c : Copy) : (s.putCopy c).fresh = s.fresh := rfl
@[simp] theorem State.putCopy_free (s : State) (c : Copy) : (s.putCopy c).free = s.free := rfl
@[simp] theorem State.putCopy_lastIssued (s : State) (c : Copy) : (s.putCopy c).lastIssued = s.lastIssued := rfl

/-! ### putLineOp -/

@[simp] theorem State.putLineOp_cycle (s : State) (o : StationOp) : (s.putLineOp o).cycle = s.cycle := rfl
@[simp] theorem State.putLineOp_tick (s : State) (o : StationOp) : (s.putLineOp o).tick = s.tick := rfl
@[simp] theorem State.putLineOp_millivolts (s : State) (o : StationOp) : (s.putLineOp o).millivolts = s.millivolts := rfl
@[simp] theorem State.putLineOp_mem (s : State) (o : StationOp) : (s.putLineOp o).mem = s.mem := rfl
@[simp] theorem State.putLineOp_poisoned (s : State) (o : StationOp) : (s.putLineOp o).poisoned = s.poisoned := rfl
@[simp] theorem State.putLineOp_hreserve (s : State) (o : StationOp) : (s.putLineOp o).hreserve = s.hreserve := rfl
@[simp] theorem State.putLineOp_sliceClock (s : State) (o : StationOp) : (s.putLineOp o).sliceClock = s.sliceClock := rfl
@[simp] theorem State.putLineOp_opClock (s : State) (o : StationOp) : (s.putLineOp o).opClock = s.opClock := rfl
@[simp] theorem State.putLineOp_stamps (s : State) (o : StationOp) : (s.putLineOp o).stamps = s.stamps := rfl
@[simp] theorem State.putLineOp_versions (s : State) (o : StationOp) : (s.putLineOp o).versions = s.versions := rfl
@[simp] theorem State.putLineOp_histPages (s : State) (o : StationOp) : (s.putLineOp o).histPages = s.histPages := rfl
@[simp] theorem State.putLineOp_mapHistory (s : State) (o : StationOp) : (s.putLineOp o).mapHistory = s.mapHistory := rfl
@[simp] theorem State.putLineOp_stackFloor (s : State) (o : StationOp) : (s.putLineOp o).stackFloor = s.stackFloor := rfl
@[simp] theorem State.putLineOp_regionFloor (s : State) (o : StationOp) : (s.putLineOp o).regionFloor = s.regionFloor := rfl
@[simp] theorem State.putLineOp_floorsInEffect (s : State) (o : StationOp) : (s.putLineOp o).floorsInEffect = s.floorsInEffect := rfl
@[simp] theorem State.putLineOp_pendingFloors (s : State) (o : StationOp) : (s.putLineOp o).pendingFloors = s.pendingFloors := rfl
@[simp] theorem State.putLineOp_frontierG (s : State) (o : StationOp) : (s.putLineOp o).frontierG = s.frontierG := rfl
@[simp] theorem State.putLineOp_roots (s : State) (o : StationOp) : (s.putLineOp o).roots = s.roots := rfl
@[simp] theorem State.putLineOp_tlb (s : State) (o : StationOp) : (s.putLineOp o).tlb = s.tlb := rfl
@[simp] theorem State.putLineOp_walks (s : State) (o : StationOp) : (s.putLineOp o).walks = s.walks := rfl
@[simp] theorem State.putLineOp_dies (s : State) (o : StationOp) : (s.putLineOp o).dies = s.dies := rfl
@[simp] theorem State.putLineOp_cores (s : State) (o : StationOp) : (s.putLineOp o).cores = s.cores := rfl
@[simp] theorem State.putLineOp_regionTable (s : State) (o : StationOp) : (s.putLineOp o).regionTable = s.regionTable := rfl
@[simp] theorem State.putLineOp_regions (s : State) (o : StationOp) : (s.putLineOp o).regions = s.regions := rfl
@[simp] theorem State.putLineOp_allocs (s : State) (o : StationOp) : (s.putLineOp o).allocs = s.allocs := rfl
@[simp] theorem State.putLineOp_launches (s : State) (o : StationOp) : (s.putLineOp o).launches = s.launches := rfl
@[simp] theorem State.putLineOp_wgs (s : State) (o : StationOp) : (s.putLineOp o).wgs = s.wgs := rfl
@[simp] theorem State.putLineOp_warps (s : State) (o : StationOp) : (s.putLineOp o).warps = s.warps := rfl
@[simp] theorem State.putLineOp_accesses (s : State) (o : StationOp) : (s.putLineOp o).accesses = s.accesses := rfl
@[simp] theorem State.putLineOp_copies (s : State) (o : StationOp) : (s.putLineOp o).copies = s.copies := rfl
@[simp] theorem State.putLineOp_shadows (s : State) (o : StationOp) : (s.putLineOp o).shadows = s.shadows := rfl
@[simp] theorem State.putLineOp_poolTaken (s : State) (o : StationOp) : (s.putLineOp o).poolTaken = s.poolTaken := rfl
@[simp] theorem State.putLineOp_ends (s : State) (o : StationOp) : (s.putLineOp o).ends = s.ends := rfl
@[simp] theorem State.putLineOp_resolving (s : State) (o : StationOp) : (s.putLineOp o).resolving = s.resolving := rfl
@[simp] theorem State.putLineOp_queues (s : State) (o : StationOp) : (s.putLineOp o).queues = s.queues := rfl
@[simp] theorem State.putLineOp_submitted (s : State) (o : StationOp) : (s.putLineOp o).submitted = s.submitted := rfl
@[simp] theorem State.putLineOp_stages (s : State) (o : StationOp) : (s.putLineOp o).stages = s.stages := rfl
@[simp] theorem State.putLineOp_devSeq (s : State) (o : StationOp) : (s.putLineOp o).devSeq = s.devSeq := rfl
@[simp] theorem State.putLineOp_rotation (s : State) (o : StationOp) : (s.putLineOp o).rotation = s.rotation := rfl
@[simp] theorem State.putLineOp_turns (s : State) (o : StationOp) : (s.putLineOp o).turns = s.turns := rfl
@[simp] theorem State.putLineOp_freed (s : State) (o : StationOp) : (s.putLineOp o).freed = s.freed := rfl
@[simp] theorem State.putLineOp_coaches (s : State) (o : StationOp) : (s.putLineOp o).coaches = s.coaches := rfl
@[simp] theorem State.putLineOp_lineStart (s : State) (o : StationOp) : (s.putLineOp o).lineStart = s.lineStart := rfl
@[simp] theorem State.putLineOp_lineShift (s : State) (o : StationOp) : (s.putLineOp o).lineShift = s.lineShift := rfl
@[simp] theorem State.putLineOp_catches (s : State) (o : StationOp) : (s.putLineOp o).catches = s.catches := rfl
@[simp] theorem State.putLineOp_hostMask (s : State) (o : StationOp) : (s.putLineOp o).hostMask = s.hostMask := rfl
@[simp] theorem State.putLineOp_windows (s : State) (o : StationOp) : (s.putLineOp o).windows = s.windows := rfl
@[simp] theorem State.putLineOp_fabric (s : State) (o : StationOp) : (s.putLineOp o).fabric = s.fabric := rfl
@[simp] theorem State.putLineOp_ports (s : State) (o : StationOp) : (s.putLineOp o).ports = s.ports := rfl
@[simp] theorem State.putLineOp_backing (s : State) (o : StationOp) : (s.putLineOp o).backing = s.backing := rfl
@[simp] theorem State.putLineOp_boot (s : State) (o : StationOp) : (s.putLineOp o).boot = s.boot := rfl
@[simp] theorem State.putLineOp_measurement (s : State) (o : StationOp) : (s.putLineOp o).measurement = s.measurement := rfl
@[simp] theorem State.putLineOp_svn (s : State) (o : StationOp) : (s.putLineOp o).svn = s.svn := rfl
@[simp] theorem State.putLineOp_fusedSvn (s : State) (o : StationOp) : (s.putLineOp o).fusedSvn = s.fusedSvn := rfl
@[simp] theorem State.putLineOp_imageVersions (s : State) (o : StationOp) : (s.putLineOp o).imageVersions = s.imageVersions := rfl
@[simp] theorem State.putLineOp_negotiated (s : State) (o : StationOp) : (s.putLineOp o).negotiated = s.negotiated := rfl
@[simp] theorem State.putLineOp_mailClock (s : State) (o : StationOp) : (s.putLineOp o).mailClock = s.mailClock := rfl
@[simp] theorem State.putLineOp_mailPast (s : State) (o : StationOp) : (s.putLineOp o).mailPast = s.mailPast := rfl
@[simp] theorem State.putLineOp_parked (s : State) (o : StationOp) : (s.putLineOp o).parked = s.parked := rfl
@[simp] theorem State.putLineOp_mailOp (s : State) (o : StationOp) : (s.putLineOp o).mailOp = s.mailOp := rfl
@[simp] theorem State.putLineOp_inbound (s : State) (o : StationOp) : (s.putLineOp o).inbound = s.inbound := rfl
@[simp] theorem State.putLineOp_outbound (s : State) (o : StationOp) : (s.putLineOp o).outbound = s.outbound := rfl
@[simp] theorem State.putLineOp_fabricOut (s : State) (o : StationOp) : (s.putLineOp o).fabricOut = s.fabricOut := rfl
@[simp] theorem State.putLineOp_fabricAsks (s : State) (o : StationOp) : (s.putLineOp o).fabricAsks = s.fabricAsks := rfl
@[simp] theorem State.putLineOp_log (s : State) (o : StationOp) : (s.putLineOp o).log = s.log := rfl
@[simp] theorem State.putLineOp_upsets (s : State) (o : StationOp) : (s.putLineOp o).upsets = s.upsets := rfl
@[simp] theorem State.putLineOp_written (s : State) (o : StationOp) : (s.putLineOp o).written = s.written := rfl
@[simp] theorem State.putLineOp_ordered (s : State) (o : StationOp) : (s.putLineOp o).ordered = s.ordered := rfl
@[simp] theorem State.putLineOp_agenda (s : State) (o : StationOp) : (s.putLineOp o).agenda = s.agenda := rfl
@[simp] theorem State.putLineOp_issue (s : State) (o : StationOp) : (s.putLineOp o).issue = s.issue := rfl
@[simp] theorem State.putLineOp_turn (s : State) (o : StationOp) : (s.putLineOp o).turn = s.turn := rfl
@[simp] theorem State.putLineOp_fresh (s : State) (o : StationOp) : (s.putLineOp o).fresh = s.fresh := rfl
@[simp] theorem State.putLineOp_free (s : State) (o : StationOp) : (s.putLineOp o).free = s.free := rfl
@[simp] theorem State.putLineOp_lastIssued (s : State) (o : StationOp) : (s.putLineOp o).lastIssued = s.lastIssued := rfl

/-! ### modWarp -/

@[simp] theorem State.modWarp_cycle (s : State) (u : Nat) (f : Warp → Warp) : (s.modWarp u f).cycle = s.cycle := rfl
@[simp] theorem State.modWarp_tick (s : State) (u : Nat) (f : Warp → Warp) : (s.modWarp u f).tick = s.tick := rfl
@[simp] theorem State.modWarp_millivolts (s : State) (u : Nat) (f : Warp → Warp) : (s.modWarp u f).millivolts = s.millivolts := rfl
@[simp] theorem State.modWarp_mem (s : State) (u : Nat) (f : Warp → Warp) : (s.modWarp u f).mem = s.mem := rfl
@[simp] theorem State.modWarp_poisoned (s : State) (u : Nat) (f : Warp → Warp) : (s.modWarp u f).poisoned = s.poisoned := rfl
@[simp] theorem State.modWarp_hreserve (s : State) (u : Nat) (f : Warp → Warp) : (s.modWarp u f).hreserve = s.hreserve := rfl
@[simp] theorem State.modWarp_sliceClock (s : State) (u : Nat) (f : Warp → Warp) : (s.modWarp u f).sliceClock = s.sliceClock := rfl
@[simp] theorem State.modWarp_opClock (s : State) (u : Nat) (f : Warp → Warp) : (s.modWarp u f).opClock = s.opClock := rfl
@[simp] theorem State.modWarp_stamps (s : State) (u : Nat) (f : Warp → Warp) : (s.modWarp u f).stamps = s.stamps := rfl
@[simp] theorem State.modWarp_versions (s : State) (u : Nat) (f : Warp → Warp) : (s.modWarp u f).versions = s.versions := rfl
@[simp] theorem State.modWarp_histPages (s : State) (u : Nat) (f : Warp → Warp) : (s.modWarp u f).histPages = s.histPages := rfl
@[simp] theorem State.modWarp_mapHistory (s : State) (u : Nat) (f : Warp → Warp) : (s.modWarp u f).mapHistory = s.mapHistory := rfl
@[simp] theorem State.modWarp_stackFloor (s : State) (u : Nat) (f : Warp → Warp) : (s.modWarp u f).stackFloor = s.stackFloor := rfl
@[simp] theorem State.modWarp_regionFloor (s : State) (u : Nat) (f : Warp → Warp) : (s.modWarp u f).regionFloor = s.regionFloor := rfl
@[simp] theorem State.modWarp_floorsInEffect (s : State) (u : Nat) (f : Warp → Warp) : (s.modWarp u f).floorsInEffect = s.floorsInEffect := rfl
@[simp] theorem State.modWarp_pendingFloors (s : State) (u : Nat) (f : Warp → Warp) : (s.modWarp u f).pendingFloors = s.pendingFloors := rfl
@[simp] theorem State.modWarp_frontierG (s : State) (u : Nat) (f : Warp → Warp) : (s.modWarp u f).frontierG = s.frontierG := rfl
@[simp] theorem State.modWarp_roots (s : State) (u : Nat) (f : Warp → Warp) : (s.modWarp u f).roots = s.roots := rfl
@[simp] theorem State.modWarp_tlb (s : State) (u : Nat) (f : Warp → Warp) : (s.modWarp u f).tlb = s.tlb := rfl
@[simp] theorem State.modWarp_walks (s : State) (u : Nat) (f : Warp → Warp) : (s.modWarp u f).walks = s.walks := rfl
@[simp] theorem State.modWarp_dies (s : State) (u : Nat) (f : Warp → Warp) : (s.modWarp u f).dies = s.dies := rfl
@[simp] theorem State.modWarp_cores (s : State) (u : Nat) (f : Warp → Warp) : (s.modWarp u f).cores = s.cores := rfl
@[simp] theorem State.modWarp_regionTable (s : State) (u : Nat) (f : Warp → Warp) : (s.modWarp u f).regionTable = s.regionTable := rfl
@[simp] theorem State.modWarp_regions (s : State) (u : Nat) (f : Warp → Warp) : (s.modWarp u f).regions = s.regions := rfl
@[simp] theorem State.modWarp_allocs (s : State) (u : Nat) (f : Warp → Warp) : (s.modWarp u f).allocs = s.allocs := rfl
@[simp] theorem State.modWarp_launches (s : State) (u : Nat) (f : Warp → Warp) : (s.modWarp u f).launches = s.launches := rfl
@[simp] theorem State.modWarp_wgs (s : State) (u : Nat) (f : Warp → Warp) : (s.modWarp u f).wgs = s.wgs := rfl
@[simp] theorem State.modWarp_accesses (s : State) (u : Nat) (f : Warp → Warp) : (s.modWarp u f).accesses = s.accesses := rfl
@[simp] theorem State.modWarp_copies (s : State) (u : Nat) (f : Warp → Warp) : (s.modWarp u f).copies = s.copies := rfl
@[simp] theorem State.modWarp_shadows (s : State) (u : Nat) (f : Warp → Warp) : (s.modWarp u f).shadows = s.shadows := rfl
@[simp] theorem State.modWarp_poolTaken (s : State) (u : Nat) (f : Warp → Warp) : (s.modWarp u f).poolTaken = s.poolTaken := rfl
@[simp] theorem State.modWarp_ends (s : State) (u : Nat) (f : Warp → Warp) : (s.modWarp u f).ends = s.ends := rfl
@[simp] theorem State.modWarp_resolving (s : State) (u : Nat) (f : Warp → Warp) : (s.modWarp u f).resolving = s.resolving := rfl
@[simp] theorem State.modWarp_queues (s : State) (u : Nat) (f : Warp → Warp) : (s.modWarp u f).queues = s.queues := rfl
@[simp] theorem State.modWarp_submitted (s : State) (u : Nat) (f : Warp → Warp) : (s.modWarp u f).submitted = s.submitted := rfl
@[simp] theorem State.modWarp_stages (s : State) (u : Nat) (f : Warp → Warp) : (s.modWarp u f).stages = s.stages := rfl
@[simp] theorem State.modWarp_devSeq (s : State) (u : Nat) (f : Warp → Warp) : (s.modWarp u f).devSeq = s.devSeq := rfl
@[simp] theorem State.modWarp_rotation (s : State) (u : Nat) (f : Warp → Warp) : (s.modWarp u f).rotation = s.rotation := rfl
@[simp] theorem State.modWarp_turns (s : State) (u : Nat) (f : Warp → Warp) : (s.modWarp u f).turns = s.turns := rfl
@[simp] theorem State.modWarp_freed (s : State) (u : Nat) (f : Warp → Warp) : (s.modWarp u f).freed = s.freed := rfl
@[simp] theorem State.modWarp_coaches (s : State) (u : Nat) (f : Warp → Warp) : (s.modWarp u f).coaches = s.coaches := rfl
@[simp] theorem State.modWarp_lineOps (s : State) (u : Nat) (f : Warp → Warp) : (s.modWarp u f).lineOps = s.lineOps := rfl
@[simp] theorem State.modWarp_lineStart (s : State) (u : Nat) (f : Warp → Warp) : (s.modWarp u f).lineStart = s.lineStart := rfl
@[simp] theorem State.modWarp_lineShift (s : State) (u : Nat) (f : Warp → Warp) : (s.modWarp u f).lineShift = s.lineShift := rfl
@[simp] theorem State.modWarp_catches (s : State) (u : Nat) (f : Warp → Warp) : (s.modWarp u f).catches = s.catches := rfl
@[simp] theorem State.modWarp_hostMask (s : State) (u : Nat) (f : Warp → Warp) : (s.modWarp u f).hostMask = s.hostMask := rfl
@[simp] theorem State.modWarp_windows (s : State) (u : Nat) (f : Warp → Warp) : (s.modWarp u f).windows = s.windows := rfl
@[simp] theorem State.modWarp_fabric (s : State) (u : Nat) (f : Warp → Warp) : (s.modWarp u f).fabric = s.fabric := rfl
@[simp] theorem State.modWarp_ports (s : State) (u : Nat) (f : Warp → Warp) : (s.modWarp u f).ports = s.ports := rfl
@[simp] theorem State.modWarp_backing (s : State) (u : Nat) (f : Warp → Warp) : (s.modWarp u f).backing = s.backing := rfl
@[simp] theorem State.modWarp_boot (s : State) (u : Nat) (f : Warp → Warp) : (s.modWarp u f).boot = s.boot := rfl
@[simp] theorem State.modWarp_measurement (s : State) (u : Nat) (f : Warp → Warp) : (s.modWarp u f).measurement = s.measurement := rfl
@[simp] theorem State.modWarp_svn (s : State) (u : Nat) (f : Warp → Warp) : (s.modWarp u f).svn = s.svn := rfl
@[simp] theorem State.modWarp_fusedSvn (s : State) (u : Nat) (f : Warp → Warp) : (s.modWarp u f).fusedSvn = s.fusedSvn := rfl
@[simp] theorem State.modWarp_imageVersions (s : State) (u : Nat) (f : Warp → Warp) : (s.modWarp u f).imageVersions = s.imageVersions := rfl
@[simp] theorem State.modWarp_negotiated (s : State) (u : Nat) (f : Warp → Warp) : (s.modWarp u f).negotiated = s.negotiated := rfl
@[simp] theorem State.modWarp_mailClock (s : State) (u : Nat) (f : Warp → Warp) : (s.modWarp u f).mailClock = s.mailClock := rfl
@[simp] theorem State.modWarp_mailPast (s : State) (u : Nat) (f : Warp → Warp) : (s.modWarp u f).mailPast = s.mailPast := rfl
@[simp] theorem State.modWarp_parked (s : State) (u : Nat) (f : Warp → Warp) : (s.modWarp u f).parked = s.parked := rfl
@[simp] theorem State.modWarp_mailOp (s : State) (u : Nat) (f : Warp → Warp) : (s.modWarp u f).mailOp = s.mailOp := rfl
@[simp] theorem State.modWarp_inbound (s : State) (u : Nat) (f : Warp → Warp) : (s.modWarp u f).inbound = s.inbound := rfl
@[simp] theorem State.modWarp_outbound (s : State) (u : Nat) (f : Warp → Warp) : (s.modWarp u f).outbound = s.outbound := rfl
@[simp] theorem State.modWarp_fabricOut (s : State) (u : Nat) (f : Warp → Warp) : (s.modWarp u f).fabricOut = s.fabricOut := rfl
@[simp] theorem State.modWarp_fabricAsks (s : State) (u : Nat) (f : Warp → Warp) : (s.modWarp u f).fabricAsks = s.fabricAsks := rfl
@[simp] theorem State.modWarp_log (s : State) (u : Nat) (f : Warp → Warp) : (s.modWarp u f).log = s.log := rfl
@[simp] theorem State.modWarp_upsets (s : State) (u : Nat) (f : Warp → Warp) : (s.modWarp u f).upsets = s.upsets := rfl
@[simp] theorem State.modWarp_written (s : State) (u : Nat) (f : Warp → Warp) : (s.modWarp u f).written = s.written := rfl
@[simp] theorem State.modWarp_ordered (s : State) (u : Nat) (f : Warp → Warp) : (s.modWarp u f).ordered = s.ordered := rfl
@[simp] theorem State.modWarp_agenda (s : State) (u : Nat) (f : Warp → Warp) : (s.modWarp u f).agenda = s.agenda := rfl
@[simp] theorem State.modWarp_issue (s : State) (u : Nat) (f : Warp → Warp) : (s.modWarp u f).issue = s.issue := rfl
@[simp] theorem State.modWarp_turn (s : State) (u : Nat) (f : Warp → Warp) : (s.modWarp u f).turn = s.turn := rfl
@[simp] theorem State.modWarp_fresh (s : State) (u : Nat) (f : Warp → Warp) : (s.modWarp u f).fresh = s.fresh := rfl
@[simp] theorem State.modWarp_free (s : State) (u : Nat) (f : Warp → Warp) : (s.modWarp u f).free = s.free := rfl
@[simp] theorem State.modWarp_lastIssued (s : State) (u : Nat) (f : Warp → Warp) : (s.modWarp u f).lastIssued = s.lastIssued := rfl

/-! ### modWg -/

@[simp] theorem State.modWg_cycle (s : State) (u : Nat) (f : Workgroup → Workgroup) : (s.modWg u f).cycle = s.cycle := rfl
@[simp] theorem State.modWg_tick (s : State) (u : Nat) (f : Workgroup → Workgroup) : (s.modWg u f).tick = s.tick := rfl
@[simp] theorem State.modWg_millivolts (s : State) (u : Nat) (f : Workgroup → Workgroup) : (s.modWg u f).millivolts = s.millivolts := rfl
@[simp] theorem State.modWg_mem (s : State) (u : Nat) (f : Workgroup → Workgroup) : (s.modWg u f).mem = s.mem := rfl
@[simp] theorem State.modWg_poisoned (s : State) (u : Nat) (f : Workgroup → Workgroup) : (s.modWg u f).poisoned = s.poisoned := rfl
@[simp] theorem State.modWg_hreserve (s : State) (u : Nat) (f : Workgroup → Workgroup) : (s.modWg u f).hreserve = s.hreserve := rfl
@[simp] theorem State.modWg_sliceClock (s : State) (u : Nat) (f : Workgroup → Workgroup) : (s.modWg u f).sliceClock = s.sliceClock := rfl
@[simp] theorem State.modWg_opClock (s : State) (u : Nat) (f : Workgroup → Workgroup) : (s.modWg u f).opClock = s.opClock := rfl
@[simp] theorem State.modWg_stamps (s : State) (u : Nat) (f : Workgroup → Workgroup) : (s.modWg u f).stamps = s.stamps := rfl
@[simp] theorem State.modWg_versions (s : State) (u : Nat) (f : Workgroup → Workgroup) : (s.modWg u f).versions = s.versions := rfl
@[simp] theorem State.modWg_histPages (s : State) (u : Nat) (f : Workgroup → Workgroup) : (s.modWg u f).histPages = s.histPages := rfl
@[simp] theorem State.modWg_mapHistory (s : State) (u : Nat) (f : Workgroup → Workgroup) : (s.modWg u f).mapHistory = s.mapHistory := rfl
@[simp] theorem State.modWg_stackFloor (s : State) (u : Nat) (f : Workgroup → Workgroup) : (s.modWg u f).stackFloor = s.stackFloor := rfl
@[simp] theorem State.modWg_regionFloor (s : State) (u : Nat) (f : Workgroup → Workgroup) : (s.modWg u f).regionFloor = s.regionFloor := rfl
@[simp] theorem State.modWg_floorsInEffect (s : State) (u : Nat) (f : Workgroup → Workgroup) : (s.modWg u f).floorsInEffect = s.floorsInEffect := rfl
@[simp] theorem State.modWg_pendingFloors (s : State) (u : Nat) (f : Workgroup → Workgroup) : (s.modWg u f).pendingFloors = s.pendingFloors := rfl
@[simp] theorem State.modWg_frontierG (s : State) (u : Nat) (f : Workgroup → Workgroup) : (s.modWg u f).frontierG = s.frontierG := rfl
@[simp] theorem State.modWg_roots (s : State) (u : Nat) (f : Workgroup → Workgroup) : (s.modWg u f).roots = s.roots := rfl
@[simp] theorem State.modWg_tlb (s : State) (u : Nat) (f : Workgroup → Workgroup) : (s.modWg u f).tlb = s.tlb := rfl
@[simp] theorem State.modWg_walks (s : State) (u : Nat) (f : Workgroup → Workgroup) : (s.modWg u f).walks = s.walks := rfl
@[simp] theorem State.modWg_dies (s : State) (u : Nat) (f : Workgroup → Workgroup) : (s.modWg u f).dies = s.dies := rfl
@[simp] theorem State.modWg_cores (s : State) (u : Nat) (f : Workgroup → Workgroup) : (s.modWg u f).cores = s.cores := rfl
@[simp] theorem State.modWg_regionTable (s : State) (u : Nat) (f : Workgroup → Workgroup) : (s.modWg u f).regionTable = s.regionTable := rfl
@[simp] theorem State.modWg_regions (s : State) (u : Nat) (f : Workgroup → Workgroup) : (s.modWg u f).regions = s.regions := rfl
@[simp] theorem State.modWg_allocs (s : State) (u : Nat) (f : Workgroup → Workgroup) : (s.modWg u f).allocs = s.allocs := rfl
@[simp] theorem State.modWg_launches (s : State) (u : Nat) (f : Workgroup → Workgroup) : (s.modWg u f).launches = s.launches := rfl
@[simp] theorem State.modWg_warps (s : State) (u : Nat) (f : Workgroup → Workgroup) : (s.modWg u f).warps = s.warps := rfl
@[simp] theorem State.modWg_accesses (s : State) (u : Nat) (f : Workgroup → Workgroup) : (s.modWg u f).accesses = s.accesses := rfl
@[simp] theorem State.modWg_copies (s : State) (u : Nat) (f : Workgroup → Workgroup) : (s.modWg u f).copies = s.copies := rfl
@[simp] theorem State.modWg_shadows (s : State) (u : Nat) (f : Workgroup → Workgroup) : (s.modWg u f).shadows = s.shadows := rfl
@[simp] theorem State.modWg_poolTaken (s : State) (u : Nat) (f : Workgroup → Workgroup) : (s.modWg u f).poolTaken = s.poolTaken := rfl
@[simp] theorem State.modWg_ends (s : State) (u : Nat) (f : Workgroup → Workgroup) : (s.modWg u f).ends = s.ends := rfl
@[simp] theorem State.modWg_resolving (s : State) (u : Nat) (f : Workgroup → Workgroup) : (s.modWg u f).resolving = s.resolving := rfl
@[simp] theorem State.modWg_queues (s : State) (u : Nat) (f : Workgroup → Workgroup) : (s.modWg u f).queues = s.queues := rfl
@[simp] theorem State.modWg_submitted (s : State) (u : Nat) (f : Workgroup → Workgroup) : (s.modWg u f).submitted = s.submitted := rfl
@[simp] theorem State.modWg_stages (s : State) (u : Nat) (f : Workgroup → Workgroup) : (s.modWg u f).stages = s.stages := rfl
@[simp] theorem State.modWg_devSeq (s : State) (u : Nat) (f : Workgroup → Workgroup) : (s.modWg u f).devSeq = s.devSeq := rfl
@[simp] theorem State.modWg_rotation (s : State) (u : Nat) (f : Workgroup → Workgroup) : (s.modWg u f).rotation = s.rotation := rfl
@[simp] theorem State.modWg_turns (s : State) (u : Nat) (f : Workgroup → Workgroup) : (s.modWg u f).turns = s.turns := rfl
@[simp] theorem State.modWg_freed (s : State) (u : Nat) (f : Workgroup → Workgroup) : (s.modWg u f).freed = s.freed := rfl
@[simp] theorem State.modWg_coaches (s : State) (u : Nat) (f : Workgroup → Workgroup) : (s.modWg u f).coaches = s.coaches := rfl
@[simp] theorem State.modWg_lineOps (s : State) (u : Nat) (f : Workgroup → Workgroup) : (s.modWg u f).lineOps = s.lineOps := rfl
@[simp] theorem State.modWg_lineStart (s : State) (u : Nat) (f : Workgroup → Workgroup) : (s.modWg u f).lineStart = s.lineStart := rfl
@[simp] theorem State.modWg_lineShift (s : State) (u : Nat) (f : Workgroup → Workgroup) : (s.modWg u f).lineShift = s.lineShift := rfl
@[simp] theorem State.modWg_catches (s : State) (u : Nat) (f : Workgroup → Workgroup) : (s.modWg u f).catches = s.catches := rfl
@[simp] theorem State.modWg_hostMask (s : State) (u : Nat) (f : Workgroup → Workgroup) : (s.modWg u f).hostMask = s.hostMask := rfl
@[simp] theorem State.modWg_windows (s : State) (u : Nat) (f : Workgroup → Workgroup) : (s.modWg u f).windows = s.windows := rfl
@[simp] theorem State.modWg_fabric (s : State) (u : Nat) (f : Workgroup → Workgroup) : (s.modWg u f).fabric = s.fabric := rfl
@[simp] theorem State.modWg_ports (s : State) (u : Nat) (f : Workgroup → Workgroup) : (s.modWg u f).ports = s.ports := rfl
@[simp] theorem State.modWg_backing (s : State) (u : Nat) (f : Workgroup → Workgroup) : (s.modWg u f).backing = s.backing := rfl
@[simp] theorem State.modWg_boot (s : State) (u : Nat) (f : Workgroup → Workgroup) : (s.modWg u f).boot = s.boot := rfl
@[simp] theorem State.modWg_measurement (s : State) (u : Nat) (f : Workgroup → Workgroup) : (s.modWg u f).measurement = s.measurement := rfl
@[simp] theorem State.modWg_svn (s : State) (u : Nat) (f : Workgroup → Workgroup) : (s.modWg u f).svn = s.svn := rfl
@[simp] theorem State.modWg_fusedSvn (s : State) (u : Nat) (f : Workgroup → Workgroup) : (s.modWg u f).fusedSvn = s.fusedSvn := rfl
@[simp] theorem State.modWg_imageVersions (s : State) (u : Nat) (f : Workgroup → Workgroup) : (s.modWg u f).imageVersions = s.imageVersions := rfl
@[simp] theorem State.modWg_negotiated (s : State) (u : Nat) (f : Workgroup → Workgroup) : (s.modWg u f).negotiated = s.negotiated := rfl
@[simp] theorem State.modWg_mailClock (s : State) (u : Nat) (f : Workgroup → Workgroup) : (s.modWg u f).mailClock = s.mailClock := rfl
@[simp] theorem State.modWg_mailPast (s : State) (u : Nat) (f : Workgroup → Workgroup) : (s.modWg u f).mailPast = s.mailPast := rfl
@[simp] theorem State.modWg_parked (s : State) (u : Nat) (f : Workgroup → Workgroup) : (s.modWg u f).parked = s.parked := rfl
@[simp] theorem State.modWg_mailOp (s : State) (u : Nat) (f : Workgroup → Workgroup) : (s.modWg u f).mailOp = s.mailOp := rfl
@[simp] theorem State.modWg_inbound (s : State) (u : Nat) (f : Workgroup → Workgroup) : (s.modWg u f).inbound = s.inbound := rfl
@[simp] theorem State.modWg_outbound (s : State) (u : Nat) (f : Workgroup → Workgroup) : (s.modWg u f).outbound = s.outbound := rfl
@[simp] theorem State.modWg_fabricOut (s : State) (u : Nat) (f : Workgroup → Workgroup) : (s.modWg u f).fabricOut = s.fabricOut := rfl
@[simp] theorem State.modWg_fabricAsks (s : State) (u : Nat) (f : Workgroup → Workgroup) : (s.modWg u f).fabricAsks = s.fabricAsks := rfl
@[simp] theorem State.modWg_log (s : State) (u : Nat) (f : Workgroup → Workgroup) : (s.modWg u f).log = s.log := rfl
@[simp] theorem State.modWg_upsets (s : State) (u : Nat) (f : Workgroup → Workgroup) : (s.modWg u f).upsets = s.upsets := rfl
@[simp] theorem State.modWg_written (s : State) (u : Nat) (f : Workgroup → Workgroup) : (s.modWg u f).written = s.written := rfl
@[simp] theorem State.modWg_ordered (s : State) (u : Nat) (f : Workgroup → Workgroup) : (s.modWg u f).ordered = s.ordered := rfl
@[simp] theorem State.modWg_agenda (s : State) (u : Nat) (f : Workgroup → Workgroup) : (s.modWg u f).agenda = s.agenda := rfl
@[simp] theorem State.modWg_issue (s : State) (u : Nat) (f : Workgroup → Workgroup) : (s.modWg u f).issue = s.issue := rfl
@[simp] theorem State.modWg_turn (s : State) (u : Nat) (f : Workgroup → Workgroup) : (s.modWg u f).turn = s.turn := rfl
@[simp] theorem State.modWg_fresh (s : State) (u : Nat) (f : Workgroup → Workgroup) : (s.modWg u f).fresh = s.fresh := rfl
@[simp] theorem State.modWg_free (s : State) (u : Nat) (f : Workgroup → Workgroup) : (s.modWg u f).free = s.free := rfl
@[simp] theorem State.modWg_lastIssued (s : State) (u : Nat) (f : Workgroup → Workgroup) : (s.modWg u f).lastIssued = s.lastIssued := rfl

/-! ### modLaunch -/

@[simp] theorem State.modLaunch_cycle (s : State) (u : Nat) (f : Launch → Launch) : (s.modLaunch u f).cycle = s.cycle := rfl
@[simp] theorem State.modLaunch_tick (s : State) (u : Nat) (f : Launch → Launch) : (s.modLaunch u f).tick = s.tick := rfl
@[simp] theorem State.modLaunch_millivolts (s : State) (u : Nat) (f : Launch → Launch) : (s.modLaunch u f).millivolts = s.millivolts := rfl
@[simp] theorem State.modLaunch_mem (s : State) (u : Nat) (f : Launch → Launch) : (s.modLaunch u f).mem = s.mem := rfl
@[simp] theorem State.modLaunch_poisoned (s : State) (u : Nat) (f : Launch → Launch) : (s.modLaunch u f).poisoned = s.poisoned := rfl
@[simp] theorem State.modLaunch_hreserve (s : State) (u : Nat) (f : Launch → Launch) : (s.modLaunch u f).hreserve = s.hreserve := rfl
@[simp] theorem State.modLaunch_sliceClock (s : State) (u : Nat) (f : Launch → Launch) : (s.modLaunch u f).sliceClock = s.sliceClock := rfl
@[simp] theorem State.modLaunch_opClock (s : State) (u : Nat) (f : Launch → Launch) : (s.modLaunch u f).opClock = s.opClock := rfl
@[simp] theorem State.modLaunch_stamps (s : State) (u : Nat) (f : Launch → Launch) : (s.modLaunch u f).stamps = s.stamps := rfl
@[simp] theorem State.modLaunch_versions (s : State) (u : Nat) (f : Launch → Launch) : (s.modLaunch u f).versions = s.versions := rfl
@[simp] theorem State.modLaunch_histPages (s : State) (u : Nat) (f : Launch → Launch) : (s.modLaunch u f).histPages = s.histPages := rfl
@[simp] theorem State.modLaunch_mapHistory (s : State) (u : Nat) (f : Launch → Launch) : (s.modLaunch u f).mapHistory = s.mapHistory := rfl
@[simp] theorem State.modLaunch_stackFloor (s : State) (u : Nat) (f : Launch → Launch) : (s.modLaunch u f).stackFloor = s.stackFloor := rfl
@[simp] theorem State.modLaunch_regionFloor (s : State) (u : Nat) (f : Launch → Launch) : (s.modLaunch u f).regionFloor = s.regionFloor := rfl
@[simp] theorem State.modLaunch_floorsInEffect (s : State) (u : Nat) (f : Launch → Launch) : (s.modLaunch u f).floorsInEffect = s.floorsInEffect := rfl
@[simp] theorem State.modLaunch_pendingFloors (s : State) (u : Nat) (f : Launch → Launch) : (s.modLaunch u f).pendingFloors = s.pendingFloors := rfl
@[simp] theorem State.modLaunch_frontierG (s : State) (u : Nat) (f : Launch → Launch) : (s.modLaunch u f).frontierG = s.frontierG := rfl
@[simp] theorem State.modLaunch_roots (s : State) (u : Nat) (f : Launch → Launch) : (s.modLaunch u f).roots = s.roots := rfl
@[simp] theorem State.modLaunch_tlb (s : State) (u : Nat) (f : Launch → Launch) : (s.modLaunch u f).tlb = s.tlb := rfl
@[simp] theorem State.modLaunch_walks (s : State) (u : Nat) (f : Launch → Launch) : (s.modLaunch u f).walks = s.walks := rfl
@[simp] theorem State.modLaunch_dies (s : State) (u : Nat) (f : Launch → Launch) : (s.modLaunch u f).dies = s.dies := rfl
@[simp] theorem State.modLaunch_cores (s : State) (u : Nat) (f : Launch → Launch) : (s.modLaunch u f).cores = s.cores := rfl
@[simp] theorem State.modLaunch_regionTable (s : State) (u : Nat) (f : Launch → Launch) : (s.modLaunch u f).regionTable = s.regionTable := rfl
@[simp] theorem State.modLaunch_regions (s : State) (u : Nat) (f : Launch → Launch) : (s.modLaunch u f).regions = s.regions := rfl
@[simp] theorem State.modLaunch_allocs (s : State) (u : Nat) (f : Launch → Launch) : (s.modLaunch u f).allocs = s.allocs := rfl
@[simp] theorem State.modLaunch_wgs (s : State) (u : Nat) (f : Launch → Launch) : (s.modLaunch u f).wgs = s.wgs := rfl
@[simp] theorem State.modLaunch_warps (s : State) (u : Nat) (f : Launch → Launch) : (s.modLaunch u f).warps = s.warps := rfl
@[simp] theorem State.modLaunch_accesses (s : State) (u : Nat) (f : Launch → Launch) : (s.modLaunch u f).accesses = s.accesses := rfl
@[simp] theorem State.modLaunch_copies (s : State) (u : Nat) (f : Launch → Launch) : (s.modLaunch u f).copies = s.copies := rfl
@[simp] theorem State.modLaunch_shadows (s : State) (u : Nat) (f : Launch → Launch) : (s.modLaunch u f).shadows = s.shadows := rfl
@[simp] theorem State.modLaunch_poolTaken (s : State) (u : Nat) (f : Launch → Launch) : (s.modLaunch u f).poolTaken = s.poolTaken := rfl
@[simp] theorem State.modLaunch_ends (s : State) (u : Nat) (f : Launch → Launch) : (s.modLaunch u f).ends = s.ends := rfl
@[simp] theorem State.modLaunch_resolving (s : State) (u : Nat) (f : Launch → Launch) : (s.modLaunch u f).resolving = s.resolving := rfl
@[simp] theorem State.modLaunch_queues (s : State) (u : Nat) (f : Launch → Launch) : (s.modLaunch u f).queues = s.queues := rfl
@[simp] theorem State.modLaunch_submitted (s : State) (u : Nat) (f : Launch → Launch) : (s.modLaunch u f).submitted = s.submitted := rfl
@[simp] theorem State.modLaunch_stages (s : State) (u : Nat) (f : Launch → Launch) : (s.modLaunch u f).stages = s.stages := rfl
@[simp] theorem State.modLaunch_devSeq (s : State) (u : Nat) (f : Launch → Launch) : (s.modLaunch u f).devSeq = s.devSeq := rfl
@[simp] theorem State.modLaunch_rotation (s : State) (u : Nat) (f : Launch → Launch) : (s.modLaunch u f).rotation = s.rotation := rfl
@[simp] theorem State.modLaunch_turns (s : State) (u : Nat) (f : Launch → Launch) : (s.modLaunch u f).turns = s.turns := rfl
@[simp] theorem State.modLaunch_freed (s : State) (u : Nat) (f : Launch → Launch) : (s.modLaunch u f).freed = s.freed := rfl
@[simp] theorem State.modLaunch_coaches (s : State) (u : Nat) (f : Launch → Launch) : (s.modLaunch u f).coaches = s.coaches := rfl
@[simp] theorem State.modLaunch_lineOps (s : State) (u : Nat) (f : Launch → Launch) : (s.modLaunch u f).lineOps = s.lineOps := rfl
@[simp] theorem State.modLaunch_lineStart (s : State) (u : Nat) (f : Launch → Launch) : (s.modLaunch u f).lineStart = s.lineStart := rfl
@[simp] theorem State.modLaunch_lineShift (s : State) (u : Nat) (f : Launch → Launch) : (s.modLaunch u f).lineShift = s.lineShift := rfl
@[simp] theorem State.modLaunch_catches (s : State) (u : Nat) (f : Launch → Launch) : (s.modLaunch u f).catches = s.catches := rfl
@[simp] theorem State.modLaunch_hostMask (s : State) (u : Nat) (f : Launch → Launch) : (s.modLaunch u f).hostMask = s.hostMask := rfl
@[simp] theorem State.modLaunch_windows (s : State) (u : Nat) (f : Launch → Launch) : (s.modLaunch u f).windows = s.windows := rfl
@[simp] theorem State.modLaunch_fabric (s : State) (u : Nat) (f : Launch → Launch) : (s.modLaunch u f).fabric = s.fabric := rfl
@[simp] theorem State.modLaunch_ports (s : State) (u : Nat) (f : Launch → Launch) : (s.modLaunch u f).ports = s.ports := rfl
@[simp] theorem State.modLaunch_backing (s : State) (u : Nat) (f : Launch → Launch) : (s.modLaunch u f).backing = s.backing := rfl
@[simp] theorem State.modLaunch_boot (s : State) (u : Nat) (f : Launch → Launch) : (s.modLaunch u f).boot = s.boot := rfl
@[simp] theorem State.modLaunch_measurement (s : State) (u : Nat) (f : Launch → Launch) : (s.modLaunch u f).measurement = s.measurement := rfl
@[simp] theorem State.modLaunch_svn (s : State) (u : Nat) (f : Launch → Launch) : (s.modLaunch u f).svn = s.svn := rfl
@[simp] theorem State.modLaunch_fusedSvn (s : State) (u : Nat) (f : Launch → Launch) : (s.modLaunch u f).fusedSvn = s.fusedSvn := rfl
@[simp] theorem State.modLaunch_imageVersions (s : State) (u : Nat) (f : Launch → Launch) : (s.modLaunch u f).imageVersions = s.imageVersions := rfl
@[simp] theorem State.modLaunch_negotiated (s : State) (u : Nat) (f : Launch → Launch) : (s.modLaunch u f).negotiated = s.negotiated := rfl
@[simp] theorem State.modLaunch_mailClock (s : State) (u : Nat) (f : Launch → Launch) : (s.modLaunch u f).mailClock = s.mailClock := rfl
@[simp] theorem State.modLaunch_mailPast (s : State) (u : Nat) (f : Launch → Launch) : (s.modLaunch u f).mailPast = s.mailPast := rfl
@[simp] theorem State.modLaunch_parked (s : State) (u : Nat) (f : Launch → Launch) : (s.modLaunch u f).parked = s.parked := rfl
@[simp] theorem State.modLaunch_mailOp (s : State) (u : Nat) (f : Launch → Launch) : (s.modLaunch u f).mailOp = s.mailOp := rfl
@[simp] theorem State.modLaunch_inbound (s : State) (u : Nat) (f : Launch → Launch) : (s.modLaunch u f).inbound = s.inbound := rfl
@[simp] theorem State.modLaunch_outbound (s : State) (u : Nat) (f : Launch → Launch) : (s.modLaunch u f).outbound = s.outbound := rfl
@[simp] theorem State.modLaunch_fabricOut (s : State) (u : Nat) (f : Launch → Launch) : (s.modLaunch u f).fabricOut = s.fabricOut := rfl
@[simp] theorem State.modLaunch_fabricAsks (s : State) (u : Nat) (f : Launch → Launch) : (s.modLaunch u f).fabricAsks = s.fabricAsks := rfl
@[simp] theorem State.modLaunch_log (s : State) (u : Nat) (f : Launch → Launch) : (s.modLaunch u f).log = s.log := rfl
@[simp] theorem State.modLaunch_upsets (s : State) (u : Nat) (f : Launch → Launch) : (s.modLaunch u f).upsets = s.upsets := rfl
@[simp] theorem State.modLaunch_written (s : State) (u : Nat) (f : Launch → Launch) : (s.modLaunch u f).written = s.written := rfl
@[simp] theorem State.modLaunch_ordered (s : State) (u : Nat) (f : Launch → Launch) : (s.modLaunch u f).ordered = s.ordered := rfl
@[simp] theorem State.modLaunch_agenda (s : State) (u : Nat) (f : Launch → Launch) : (s.modLaunch u f).agenda = s.agenda := rfl
@[simp] theorem State.modLaunch_issue (s : State) (u : Nat) (f : Launch → Launch) : (s.modLaunch u f).issue = s.issue := rfl
@[simp] theorem State.modLaunch_turn (s : State) (u : Nat) (f : Launch → Launch) : (s.modLaunch u f).turn = s.turn := rfl
@[simp] theorem State.modLaunch_fresh (s : State) (u : Nat) (f : Launch → Launch) : (s.modLaunch u f).fresh = s.fresh := rfl
@[simp] theorem State.modLaunch_free (s : State) (u : Nat) (f : Launch → Launch) : (s.modLaunch u f).free = s.free := rfl
@[simp] theorem State.modLaunch_lastIssued (s : State) (u : Nat) (f : Launch → Launch) : (s.modLaunch u f).lastIssued = s.lastIssued := rfl

/-! ### logged -/

@[simp] theorem State.logged_cycle (s : State) (r : LogRecord) : (s.logged r).cycle = s.cycle := rfl
@[simp] theorem State.logged_tick (s : State) (r : LogRecord) : (s.logged r).tick = s.tick := rfl
@[simp] theorem State.logged_millivolts (s : State) (r : LogRecord) : (s.logged r).millivolts = s.millivolts := rfl
@[simp] theorem State.logged_mem (s : State) (r : LogRecord) : (s.logged r).mem = s.mem := rfl
@[simp] theorem State.logged_poisoned (s : State) (r : LogRecord) : (s.logged r).poisoned = s.poisoned := rfl
@[simp] theorem State.logged_hreserve (s : State) (r : LogRecord) : (s.logged r).hreserve = s.hreserve := rfl
@[simp] theorem State.logged_sliceClock (s : State) (r : LogRecord) : (s.logged r).sliceClock = s.sliceClock := rfl
@[simp] theorem State.logged_opClock (s : State) (r : LogRecord) : (s.logged r).opClock = s.opClock := rfl
@[simp] theorem State.logged_stamps (s : State) (r : LogRecord) : (s.logged r).stamps = s.stamps := rfl
@[simp] theorem State.logged_versions (s : State) (r : LogRecord) : (s.logged r).versions = s.versions := rfl
@[simp] theorem State.logged_histPages (s : State) (r : LogRecord) : (s.logged r).histPages = s.histPages := rfl
@[simp] theorem State.logged_mapHistory (s : State) (r : LogRecord) : (s.logged r).mapHistory = s.mapHistory := rfl
@[simp] theorem State.logged_stackFloor (s : State) (r : LogRecord) : (s.logged r).stackFloor = s.stackFloor := rfl
@[simp] theorem State.logged_regionFloor (s : State) (r : LogRecord) : (s.logged r).regionFloor = s.regionFloor := rfl
@[simp] theorem State.logged_floorsInEffect (s : State) (r : LogRecord) : (s.logged r).floorsInEffect = s.floorsInEffect := rfl
@[simp] theorem State.logged_pendingFloors (s : State) (r : LogRecord) : (s.logged r).pendingFloors = s.pendingFloors := rfl
@[simp] theorem State.logged_frontierG (s : State) (r : LogRecord) : (s.logged r).frontierG = s.frontierG := rfl
@[simp] theorem State.logged_roots (s : State) (r : LogRecord) : (s.logged r).roots = s.roots := rfl
@[simp] theorem State.logged_tlb (s : State) (r : LogRecord) : (s.logged r).tlb = s.tlb := rfl
@[simp] theorem State.logged_walks (s : State) (r : LogRecord) : (s.logged r).walks = s.walks := rfl
@[simp] theorem State.logged_dies (s : State) (r : LogRecord) : (s.logged r).dies = s.dies := rfl
@[simp] theorem State.logged_cores (s : State) (r : LogRecord) : (s.logged r).cores = s.cores := rfl
@[simp] theorem State.logged_regionTable (s : State) (r : LogRecord) : (s.logged r).regionTable = s.regionTable := rfl
@[simp] theorem State.logged_regions (s : State) (r : LogRecord) : (s.logged r).regions = s.regions := rfl
@[simp] theorem State.logged_allocs (s : State) (r : LogRecord) : (s.logged r).allocs = s.allocs := rfl
@[simp] theorem State.logged_launches (s : State) (r : LogRecord) : (s.logged r).launches = s.launches := rfl
@[simp] theorem State.logged_wgs (s : State) (r : LogRecord) : (s.logged r).wgs = s.wgs := rfl
@[simp] theorem State.logged_warps (s : State) (r : LogRecord) : (s.logged r).warps = s.warps := rfl
@[simp] theorem State.logged_accesses (s : State) (r : LogRecord) : (s.logged r).accesses = s.accesses := rfl
@[simp] theorem State.logged_copies (s : State) (r : LogRecord) : (s.logged r).copies = s.copies := rfl
@[simp] theorem State.logged_shadows (s : State) (r : LogRecord) : (s.logged r).shadows = s.shadows := rfl
@[simp] theorem State.logged_poolTaken (s : State) (r : LogRecord) : (s.logged r).poolTaken = s.poolTaken := rfl
@[simp] theorem State.logged_ends (s : State) (r : LogRecord) : (s.logged r).ends = s.ends := rfl
@[simp] theorem State.logged_resolving (s : State) (r : LogRecord) : (s.logged r).resolving = s.resolving := rfl
@[simp] theorem State.logged_queues (s : State) (r : LogRecord) : (s.logged r).queues = s.queues := rfl
@[simp] theorem State.logged_submitted (s : State) (r : LogRecord) : (s.logged r).submitted = s.submitted := rfl
@[simp] theorem State.logged_stages (s : State) (r : LogRecord) : (s.logged r).stages = s.stages := rfl
@[simp] theorem State.logged_devSeq (s : State) (r : LogRecord) : (s.logged r).devSeq = s.devSeq := rfl
@[simp] theorem State.logged_rotation (s : State) (r : LogRecord) : (s.logged r).rotation = s.rotation := rfl
@[simp] theorem State.logged_turns (s : State) (r : LogRecord) : (s.logged r).turns = s.turns := rfl
@[simp] theorem State.logged_freed (s : State) (r : LogRecord) : (s.logged r).freed = s.freed := rfl
@[simp] theorem State.logged_coaches (s : State) (r : LogRecord) : (s.logged r).coaches = s.coaches := rfl
@[simp] theorem State.logged_lineOps (s : State) (r : LogRecord) : (s.logged r).lineOps = s.lineOps := rfl
@[simp] theorem State.logged_lineStart (s : State) (r : LogRecord) : (s.logged r).lineStart = s.lineStart := rfl
@[simp] theorem State.logged_lineShift (s : State) (r : LogRecord) : (s.logged r).lineShift = s.lineShift := rfl
@[simp] theorem State.logged_catches (s : State) (r : LogRecord) : (s.logged r).catches = s.catches := rfl
@[simp] theorem State.logged_hostMask (s : State) (r : LogRecord) : (s.logged r).hostMask = s.hostMask := rfl
@[simp] theorem State.logged_windows (s : State) (r : LogRecord) : (s.logged r).windows = s.windows := rfl
@[simp] theorem State.logged_fabric (s : State) (r : LogRecord) : (s.logged r).fabric = s.fabric := rfl
@[simp] theorem State.logged_ports (s : State) (r : LogRecord) : (s.logged r).ports = s.ports := rfl
@[simp] theorem State.logged_backing (s : State) (r : LogRecord) : (s.logged r).backing = s.backing := rfl
@[simp] theorem State.logged_boot (s : State) (r : LogRecord) : (s.logged r).boot = s.boot := rfl
@[simp] theorem State.logged_measurement (s : State) (r : LogRecord) : (s.logged r).measurement = s.measurement := rfl
@[simp] theorem State.logged_svn (s : State) (r : LogRecord) : (s.logged r).svn = s.svn := rfl
@[simp] theorem State.logged_fusedSvn (s : State) (r : LogRecord) : (s.logged r).fusedSvn = s.fusedSvn := rfl
@[simp] theorem State.logged_imageVersions (s : State) (r : LogRecord) : (s.logged r).imageVersions = s.imageVersions := rfl
@[simp] theorem State.logged_negotiated (s : State) (r : LogRecord) : (s.logged r).negotiated = s.negotiated := rfl
@[simp] theorem State.logged_mailClock (s : State) (r : LogRecord) : (s.logged r).mailClock = s.mailClock := rfl
@[simp] theorem State.logged_mailPast (s : State) (r : LogRecord) : (s.logged r).mailPast = s.mailPast := rfl
@[simp] theorem State.logged_parked (s : State) (r : LogRecord) : (s.logged r).parked = s.parked := rfl
@[simp] theorem State.logged_mailOp (s : State) (r : LogRecord) : (s.logged r).mailOp = s.mailOp := rfl
@[simp] theorem State.logged_inbound (s : State) (r : LogRecord) : (s.logged r).inbound = s.inbound := rfl
@[simp] theorem State.logged_outbound (s : State) (r : LogRecord) : (s.logged r).outbound = s.outbound := rfl
@[simp] theorem State.logged_fabricOut (s : State) (r : LogRecord) : (s.logged r).fabricOut = s.fabricOut := rfl
@[simp] theorem State.logged_fabricAsks (s : State) (r : LogRecord) : (s.logged r).fabricAsks = s.fabricAsks := rfl
@[simp] theorem State.logged_upsets (s : State) (r : LogRecord) : (s.logged r).upsets = s.upsets := rfl
@[simp] theorem State.logged_written (s : State) (r : LogRecord) : (s.logged r).written = s.written := rfl
@[simp] theorem State.logged_ordered (s : State) (r : LogRecord) : (s.logged r).ordered = s.ordered := rfl
@[simp] theorem State.logged_agenda (s : State) (r : LogRecord) : (s.logged r).agenda = s.agenda := rfl
@[simp] theorem State.logged_issue (s : State) (r : LogRecord) : (s.logged r).issue = s.issue := rfl
@[simp] theorem State.logged_turn (s : State) (r : LogRecord) : (s.logged r).turn = s.turn := rfl
@[simp] theorem State.logged_fresh (s : State) (r : LogRecord) : (s.logged r).fresh = s.fresh := rfl
@[simp] theorem State.logged_free (s : State) (r : LogRecord) : (s.logged r).free = s.free := rfl
@[simp] theorem State.logged_lastIssued (s : State) (r : LogRecord) : (s.logged r).lastIssued = s.lastIssued := rfl

/-! ### The fields written -/

@[simp] theorem State.write_mem (s : State) (k : Nat) (bs : List Byte) : (s.write k bs).mem = Memory.setAll s.mem k bs := rfl
@[simp] theorem State.wipe_mem (s : State) (lo hi : Nat) : (s.wipe lo hi).mem = Memory.wipe s.mem lo hi := rfl

/-- A write keeps the canonical form of memory. -/
theorem State.write_wf {s : State} (h : Memory.wf s.mem = true) (k : Nat) (bs : List Byte) :
    Memory.wf (s.write k bs).mem = true := Memory.wf_setAll h k bs
/-- A wipe keeps it. -/
theorem State.wipe_wf {s : State} (h : Memory.wf s.mem = true) (lo hi : Nat) : Memory.wf (s.wipe lo hi).mem = true :=
  Memory.wf_wipe h lo hi

/-- The memory of the reset state is canonical. -/
theorem State.reset_mem_wf : Memory.wf State.reset.mem = true := rfl

/-- The warp found after it is put back is the one put back. -/
theorem State.warp?_putWarp {s : State} {v w : Warp} (h : s.warp? w.uid = some v) : (s.putWarp w).warp? w.uid = some w := by
  simp only [State.warp?, State.putWarp] at *
  generalize s.warps = l at *
  induction l with
  | nil => simp at h
  | cons x r ih =>
    by_cases hx : x.uid = w.uid
    · simp [hx]
    · have hb : (x.uid == w.uid) = false := by simp [hx]
      rw [List.find?_cons, hb] at h
      rw [List.map_cons, if_neg hx, List.find?_cons, hb]
      exact ih h

/-- Another warp is as before. -/
theorem State.warp?_putWarp_ne {s : State} {w : Warp} {u : Nat} (h : u ≠ w.uid) : (s.putWarp w).warp? u = s.warp? u := by
  simp only [State.warp?, State.putWarp]
  generalize s.warps = l
  induction l with
  | nil => rfl
  | cons x r ih =>
    by_cases hx : x.uid = w.uid
    · have h1 : (x.uid == u) = false := by simp [hx]; omega
      have h2 : (w.uid == u) = false := by simp; omega
      rw [List.map_cons, if_pos hx, List.find?_cons, List.find?_cons, h1, h2]
      exact ih
    · rw [List.map_cons, if_neg hx, List.find?_cons, List.find?_cons, ih]

/-- Two updates of the same warp are the later one. -/
theorem State.putWarp_putWarp {s : State} {v w : Warp} (h : v.uid = w.uid) : (s.putWarp v).putWarp w = s.putWarp w := by
  simp only [State.putWarp, List.map_map]
  congr 1
  apply List.map_congr_left
  intro x _
  simp only [Function.comp_apply]
  split <;> simp_all

end Sys2Proof.Machine
end

