-- ==== Sys2Proof/Laws/Issue.lean ====
section
/-! SUPPORT. Laws/Issue.lean: what `finish` and the register skeleton `alu` do, said once: an instruction that issues and goes
on leaves the state `after` its warp. -/

namespace Sys2Proof.Machine

/-! ### The split table under a step to the next slot -/

/-- What fusion reads of an entry. -/
def Entry.shape (x : Entry) : SplitState × Mask × Option PC × Option PC × List Group := (x.st, x.mask, x.j, x.jout, x.siding)

theorem shape_entry {w v : Warp} (h : w.entries.map Entry.shape = v.entries.map Entry.shape) (e : Nat) :
    (w.entry e).shape = (v.entry e).shape := by
  have := congrArg (fun l => l.getD e (Entry.shape {})) h
  simpa [Warp.entry, List.getD_eq_getElem?_getD, Option.getD_map] using this

/-- Two warps whose entries have the same shapes fuse alike. -/
theorem canFuse_shape {w v : Warp} (h : w.entries.map Entry.shape = v.entries.map Entry.shape) (e : Nat) :
    w.canFuse e = v.canFuse e := by
  have hs := fun n => shape_entry h n
  simp only [Entry.shape, Prod.mk.injEq] at hs
  have hst := fun n => (hs n).1
  have hmask := fun n => (hs n).2.1
  have hj := fun n => (hs n).2.2.1
  have hjo := fun n => (hs n).2.2.2.1
  have hsd := fun n => (hs n).2.2.2.2
  have hany : ∀ j : Option PC, (w.entries.any fun y => y.st != .free && y.j.isSome && y.jout == j)
      = v.entries.any fun y => y.st != .free && y.j.isSome && y.jout == j := by
    intro j
    have := congrArg (fun l => l.any fun (p : SplitState × Mask × Option PC × Option PC × List Group) =>
      p.1 != .free && p.2.2.1.isSome && p.2.2.2.1 == j) h
    simpa [List.any_map, Entry.shape, Function.comp_def] using this
  have hsib : w.siblings (w.entry e) = v.siblings (v.entry e) := by
    simp only [Warp.siblings, hst, hj, hjo]
  simp only [Warp.canFuse, hj, hst, hsib, Warp.hasNested, hjo, hany, Entry.allArrived, hmask, hsd]

/-- A warp in which nothing is due fuses to itself. -/
theorem fuse_settled {w : Warp} (h : ∀ e, e < 8 → w.canFuse e = false) (k : Nat) : Warp.fuse k w = w := by
  cases k with
  | zero => rfl
  | succ k =>
    have : (List.range 8).find? (fun e => w.canFuse e) = none := by
      rw [List.find?_eq_none]
      intro e he
      simp [h e (List.mem_range.mp he)]
    simp [Warp.fuse, this]

theorem readyGroups_nil {sd : List Group} (h : readyGroups sd = []) : ∀ g ∈ sd, g.arrived = true := by
  intro g hg
  have := List.filter_eq_nil_iff.mp h g hg
  simpa using this

/-- Lanes sent to one PC that is not the reconvergence point run there. -/
theorem send_one {x : Entry} {k : PC} {m : Mask} (hm : m ≠ 0) (hsd : readyGroups x.siding = []) (hj : x.j ≠ some k) :
    x.send [(k, m)] = { x with pc := k, mask := m, st := .run, wait := .none } := by
  have harr := readyGroups_nil hsd
  have hany : (x.siding.any fun g => !g.arrived && g.key == k && g.kind == .none) = false := by
    rw [List.any_eq_false]
    intro g hg
    simp [harr g hg]
  have hadd : addReady x.siding k m = x.siding ++ [{ key := k, lanes := m, arrived := false, kind := .none }] := by
    rw [addReady, if_neg hm]; simp [hany]
  have hready : readyGroups (x.siding ++ [({ key := k, lanes := m, arrived := false, kind := .none } : Group)])
      = [{ key := k, lanes := m, arrived := false, kind := .none }] := by
    simp only [readyGroups] at hsd
    simp [readyGroups, List.filter_append, hsd, List.filter]
  have hwithout : without (x.siding ++ [({ key := k, lanes := m, arrived := false, kind := .none } : Group)]) k = x.siding := by
    simp only [without, List.filter_append]
    have : x.siding.filter (fun g => g.arrived || g.key != k) = x.siding := by
      rw [List.filter_eq_self]
      intro g hg
      simp [harr g hg]
    rw [this]
    simp [List.filter]
  have hs : x.send [(k, m)] = Entry.settle (39 + 1) { x with mask := 0, siding := addReady x.siding k m } := rfl
  rw [hs, hadd, Entry.settle]
  have h0 : ∀ pc, addReady (x.siding ++ [({ key := k, lanes := m, arrived := false, kind := .none } : Group)]) pc 0
      = x.siding ++ [{ key := k, lanes := m, arrived := false, kind := .none }] := fun pc => by simp [addReady]
  simp only [h0, minKey, lanesAt, hready, hwithout, List.map, least, Option.map, BitVec.ofNat_toNat, BitVec.setWidth_eq,
    List.filter, beq_self_eq_true, List.foldl, if_neg hj]
  have : (0 : Mask) ||| m = m := BitVec.zero_or
  rw [this]

/-- The context's warp, mask and entry. -/
theorem ctx_some {s : State} {g : Nat × Bool} {c : Ctx} (h : s.ctx? g = some c) :
    ∃ i, s.issue = some i ∧ s.warp? i.warp = some c.w ∧ s.launch? c.w.launch = some c.l ∧ s.wg? c.w.wg = some c.g ∧
      c.e = i.entry ∧ c.run = (c.w.entry c.e).mask ∧ c.eff = effMask c.w c.run g ∧ c.pc = i.pc ∧ c.second = i.second := by
  unfold State.ctx? at h
  split at h
  · cases h
  · rename_i i hi
    split at h
    · cases h
    · rename_i w hw
      split at h
      · rename_i l g' hl hg
        cases h
        exact ⟨i, hi, hw, hl, hg, rfl, rfl, rfl, rfl, rfl⟩
      · cases h

theorem warp?_uid {s : State} {u : Nat} {w : Warp} (h : s.warp? u = some w) : w.uid = u := by
  have := List.find?_some h
  simpa using this

/-- A split's guard never makes a lane effective that does not run. -/
theorem eff_run {w : Warp} {run : Mask} {g : Nat × Bool} {i : Nat} (h : (effMask w run g).getLsbD i = true) :
    run.getLsbD i = true := by
  simp only [effMask, BitVec.getLsbD_and, Bool.and_eq_true] at h
  exact h.1

theorem leaving_congr {s t : State} {l : Launch} {w v : Warp} {parts : List (PC × Mask)} (hd : t.dies = s.dies)
    (h1 : v.die = w.die) (h2 : v.core = w.core) : t.leaving l v parts = s.leaving l w parts := by
  have : t.logicalCores l.dies = s.logicalCores l.dies := by
    simp [State.logicalCores, State.logicalOrder, State.clusterCores, State.die, hd]
  simp [State.leaving, State.pinnedOn, this, h1, h2]

/-- `finish`: an instruction that issues and goes on leaves the state after its warp, whatever it did to registers, predicates,
tickets and clocks. -/
theorem finish_issues {s t : State} {g : Nat × Bool} {c : Ctx} {w : Warp} (h : s.Issues g c)
    (hw : t.warps = s.warps) (hl : t.launches = s.launches) (hd : t.dies = s.dies)
    (h1 : w.uid = c.w.uid) (h2 : w.launch = c.w.launch) (h3 : w.die = c.w.die) (h4 : w.core = c.w.core)
    (h5 : w.living = c.w.living) (h6 : w.entries = c.w.entries) : t.finish c w = t.after c w := by
  obtain ⟨i, hi, hwarp, hlaunch, hwg, he, hrun, heff, hpc, hsec⟩ := ctx_some h.ctx
  have huid : c.w.uid = i.warp := warp?_uid hwarp
  have hts : t.warp? w.uid = some c.w := by
    simp only [State.warp?, hw, h1, huid]; exact hwarp
  have hent : w.entry c.e = c.w.entry c.e := by simp [Warp.entry, h6]
  have hsend : (w.entry c.e).send [(nextSlot c.pc, c.run)]
      = { c.w.entry c.e with pc := nextSlot c.pc, wait := .none } := by
    rw [hent, send_one h.lanes h.single h.notJ]
    simp only [hrun]
    rw [← h.running]
  have hfuse : Warp.fuse 8 (w.setEntry c.e { c.w.entry c.e with pc := nextSlot c.pc, wait := .none })
      = w.setEntry c.e { c.w.entry c.e with pc := nextSlot c.pc, wait := .none } := by
    apply fuse_settled
    intro e he8
    rw [← h.settled e he8]
    apply canFuse_shape
    simp only [Warp.setEntry, h6]
    have hlen : c.e < c.w.entries.length := h.inTable
    have hx : c.w.entry c.e = c.w.entries[c.e] := by simp [Warp.entry, List.getD_eq_getElem?_getD, hlen]
    apply List.ext_getElem
    · simp
    · intro n hn1 hn2
      simp only [List.getElem_map, List.getElem_set]
      split
      · rename_i hne; subst hne; rw [hx]; rfl
      · rfl
  have hadv : ({ t.putWarp w with issue := none } : State).advance w.uid c.e [(nextSlot c.pc, c.run)]
      = t.after c w := by
    have hp : ({ t.putWarp w with issue := none } : State).warp? w.uid = some w := State.warp?_putWarp hts
    have hl2 : ({ t.putWarp w with issue := none } : State).launch? w.launch = some c.l := by
      simp only [State.launch?, State.putWarp, hl, h2]; exact hlaunch
    have hleave : ({ t.putWarp w with issue := none } : State).leaving c.l w [(nextSlot c.pc, c.run)] = [] := by
      rw [leaving_congr (s := s) (w := c.w) (by simpa using hd) h3 h4]; exact h.stays
    simp only [State.advance, hp, hl2, hleave, List.isEmpty_nil, if_true, Warp.send, hsend, hfuse]
    have := State.putWarp_putWarp (s := t) (v := w)
      (w := w.setEntry c.e { c.w.entry c.e with pc := nextSlot c.pc, wait := .none }) rfl
    simp only [State.after, State.movedTo, ← this]
    rfl
  have hfind : (t.after c w).warp? w.uid = some (w.setEntry c.e { c.w.entry c.e with pc := nextSlot c.pc, wait := .none }) :=
    State.warp?_putWarp (w := w.setEntry c.e { c.w.entry c.e with pc := nextSlot c.pc, wait := .none }) hts
  have hget : ((w.setEntry c.e { c.w.entry c.e with pc := nextSlot c.pc, wait := .none }).entry c.e).st = .run := by
    have hlen : c.e < c.w.entries.length := h.inTable
    simp [Warp.entry, Warp.setEntry, h6, List.getD_eq_getElem?_getD, hlen]
    simpa [Warp.entry, List.getD_eq_getElem?_getD, hlen] using h.running
  have hlen2 : (t.after c w).warps.length = t.warps.length := by simp [State.after, State.movedTo, State.putWarp]
  have hliv : (w.setEntry c.e { c.w.entry c.e with pc := nextSlot c.pc, wait := .none }).living = c.w.living := h5
  simp only [State.finish, State.finishTo, h.alone, hadv, hfind, hget, hliv, hlen2]
  simp

/-- `alu`: a register instruction whose operands are no dead reads completes with what its body makes of its warp. -/
theorem alu_completes {s : State} {g : Nat × Bool} {c : Ctx} {reads marks writes : List Nat}
    {body : Ctx → Except (Nat × DWord) Warp} {w : Warp} (h : s.Issues g c) (hd : c.deadRead reads = none)
    (hb : body c = .ok w) (h1 : w.uid = c.w.uid) (h2 : w.launch = c.w.launch) (h3 : w.die = c.w.die) (h4 : w.core = c.w.core)
    (h5 : w.living = c.w.living) (h6 : w.entries = c.w.entries) :
    s.alu g reads marks writes body = .next (s.after c (w.kill c.full marks writes)) := by
  simp only [State.alu, h.ctx, hd, hb]
  congr 1
  apply finish_issues h rfl rfl rfl <;> (simp only [Warp.kill]; split <;> assumption)

end Sys2Proof.Machine
end

