-- ==== Sys2Proof/Laws/Registers.lean ====
section
/-! SUPPORT. Laws/Registers.lean: what writing a register, a result or a predicate does, said once (01 R31 to R36), and when a
result that counts as U or A has the values its lanes compute (01 R33). -/

namespace Sys2Proof.Machine

/-! ### One register -/

theorem Warp.reg_set {w : Warp} {n : Nat} {r : VReg} {bad : List (Nat × Nat)} (m : Nat) (h : n < w.regs.length) :
    ({ w with regs := w.regs.set n r, badRegs := bad } : Warp).reg m = if m = n then r else w.reg m := by
  simp only [Warp.reg, List.getD_eq_getElem?_getD, List.getElem?_set]
  by_cases hmn : n = m
  · subst hmn; simp [h]
  · have : m ≠ n := fun h => hmn h.symm
    simp [hmn, this]

@[simp] theorem getD_lanes (f : Nat → Word) {i : Nat} (h : i < 32) : ((List.range 32).map f).getD i 0 = f i := by
  simp [List.getD_eq_getElem?_getD, h]

/-- A register written under an effective mask: the effective lanes hold the new value; under a partial mask the others are
as before. -/
theorem setReg_lane {w : Warp} {n i : Nat} {eff : Mask} {full : Bool} {v : VReg} (hn : n < w.regs.length) (hi : i < 32) :
    (eff.getLsbD i = true → (w.setReg n eff full v).lane n i = v.lane i) ∧
    (full = false → eff.getLsbD i = false → (w.setReg n eff full v).lane n i = w.lane n i) := by
  have hz : eff.getLsbD i = true → eff ≠ 0 := by rintro h rfl; simp at h
  constructor
  · intro h
    simp only [Warp.setReg, if_neg (hz h), Warp.lane, Warp.reg_set n hn, if_true]
    split
    · rfl
    · simp only [VReg.lane, getD_lanes _ hi, h, if_true]
  · intro hf h
    by_cases he : eff = 0
    · simp [Warp.setReg, he]
    · simp only [Warp.setReg, if_neg he, Warp.lane, Warp.reg_set n hn, if_true, hf]
      simp only [Bool.false_eq_true, if_false, VReg.lane, getD_lanes _ hi, h]

theorem setReg_reg {w : Warp} {n m : Nat} {eff : Mask} {full : Bool} {v : VReg} (hm : m ≠ n) :
    (w.setReg n eff full v).reg m = w.reg m := by
  simp only [Warp.setReg]
  split
  · rfl
  · simp only [Warp.reg, List.getD_eq_getElem?_getD, List.getElem?_set]
    rw [if_neg fun h => hm h.symm]

theorem setReg_only (w : Warp) (n : Nat) (eff : Mask) (full : Bool) (v : VReg) :
    w.setReg n eff full v = { w with regs := (w.setReg n eff full v).regs, badRegs := (w.setReg n eff full v).badRegs } := by
  simp only [Warp.setReg]; split <;> rfl

@[simp] theorem setReg_length (w : Warp) (n : Nat) (eff : Mask) (full : Bool) (v : VReg) :
    (w.setReg n eff full v).regs.length = w.regs.length := by
  simp only [Warp.setReg]; split <;> simp

/-! ### Only the registers -/

/-- `v` is `w` but for its registers. -/
def Warp.regsOnly (w v : Warp) : Prop := v = { w with regs := v.regs, badRegs := v.badRegs } ∧ v.regs.length = w.regs.length

theorem Warp.regsOnly_refl (w : Warp) : w.regsOnly w := ⟨rfl, rfl⟩

theorem Warp.regsOnly_trans {u v w : Warp} (h1 : u.regsOnly v) (h2 : v.regsOnly w) : u.regsOnly w := by
  obtain ⟨h1, l1⟩ := h1
  obtain ⟨h2, l2⟩ := h2
  refine ⟨?_, l2.trans l1⟩
  rw [h2, h1]

theorem setReg_regsOnly (w : Warp) (n : Nat) (eff : Mask) (full : Bool) (v : VReg) : w.regsOnly (w.setReg n eff full v) :=
  ⟨setReg_only w n eff full v, setReg_length w n eff full v⟩

theorem setLanes_regsOnly (w : Warp) (n : Nat) (eff : Mask) (f : Nat → Word) : w.regsOnly (w.setLanes n eff f) := by
  simp only [Warp.setLanes]; split
  · exact w.regsOnly_refl
  · exact setReg_regsOnly ..

theorem kill_regsOnly (w : Warp) (full : Bool) (marked written : List Nat) : w.regsOnly (w.kill full marked written) := by
  simp only [Warp.kill]; split
  · exact ⟨rfl, by simp⟩
  · exact w.regsOnly_refl

theorem writeResult_regsOnly (w : Warp) (dst : Nat) (wide : Bool) (eff : Mask) (full uni : Bool) (aff : Option (Word × Word))
    (f : Nat → DWord) : w.regsOnly (w.writeResult dst wide eff full uni aff f) := by
  simp only [Warp.writeResult]
  split
  · exact w.regsOnly_refl
  · have h1 : ∀ x : Warp, w.regsOnly x → w.regsOnly
        (if wide = true then if (full && uni) = true then x.setReg (dst + 1) eff true (.u (hi32 (f ((lowLane eff).getD 0))))
          else x.setLanes (dst + 1) eff fun i => hi32 (f i) else x) := by
      intro x hx
      repeat' split
      · exact Warp.regsOnly_trans hx (setReg_regsOnly ..)
      · exact Warp.regsOnly_trans hx (setLanes_regsOnly ..)
      · exact hx
    apply h1
    repeat' split
    · exact setReg_regsOnly ..
    · exact setReg_regsOnly ..
    · exact setLanes_regsOnly ..

/-- What the registers leave alone of a warp. -/
theorem Warp.regsOnly_same {w v : Warp} (h : w.regsOnly v) :
    v.uid = w.uid ∧ v.launch = w.launch ∧ v.die = w.die ∧ v.core = w.core ∧ v.living = w.living ∧ v.entries = w.entries
      ∧ v.preds = w.preds ∧ v.wg = w.wg := by
  rw [h.1]; simp

/-! ### A result -/

theorem setLanes_lane {w : Warp} {n i : Nat} {eff : Mask} {f : Nat → Word} (hn : n < w.regs.length) (hi : i < 32) :
    (w.setLanes n eff f).lane n i = if eff.getLsbD i then f i else w.lane n i := by
  by_cases h : eff.getLsbD i = true
  · have hz : eff ≠ 0 := by rintro rfl; simp at h
    rw [if_pos h, Warp.setLanes, if_neg hz, (setReg_lane hn hi).1 h]
    simp only [VReg.lane]
    exact getD_lanes f hi
  · simp only [Bool.not_eq_true] at h
    simp only [h, Bool.false_eq_true, if_false, Warp.setLanes]
    split
    · rfl
    · exact (setReg_lane hn hi).2 rfl h

theorem setLanes_reg {w : Warp} {n m : Nat} {eff : Mask} {f : Nat → Word} (hm : m ≠ n) :
    (w.setLanes n eff f).reg m = w.reg m := by
  simp only [Warp.setLanes]; split
  · rfl
  · exact setReg_reg hm

theorem lowLane_some {m : Mask} {i : Nat} (hi : i < 32) (h : m.getLsbD i = true) :
    ∃ k, lowLane m = some k ∧ k < 32 ∧ m.getLsbD k = true := by
  have : (lowLane m).isSome := by
    simp only [lowLane, List.find?_isSome]
    exact ⟨i, List.mem_range.mpr hi, h⟩
  obtain ⟨k, hk⟩ := Option.isSome_iff_exists.mp this
  refine ⟨k, hk, ?_, ?_⟩
  · exact List.mem_range.mp (List.mem_of_find?_eq_some hk)
  · simpa using List.find?_some hk

/-- The first register written by a result. -/
theorem writeResult_low {w : Warp} {dst i : Nat} {wide : Bool} {eff : Mask} {full uni : Bool} {aff : Option (Word × Word)}
    {f : Nat → DWord} (hn : dst < w.regs.length) (hi : i < 32) (he : eff.getLsbD i = true)
    (hu : full = true → uni = true → ∀ j k, j < 32 → k < 32 → eff.getLsbD j = true → eff.getLsbD k = true → f j = f k)
    (ha : full = true → uni = false → ∀ b s, aff = some (b, s) → ∀ j, j < 32 → eff.getLsbD j = true →
      lo32 (f j) = b + BitVec.ofNat 32 j * s) :
    (w.writeResult dst wide eff full uni aff f).lane dst i = lo32 (f i) := by
  have hz : eff ≠ 0 := by rintro rfl; simp at he
  obtain ⟨k, hk, hk32, hke⟩ := lowLane_some hi he
  have hne : dst ≠ dst + 1 := by omega
  have hrest : ∀ x : Warp, x.lane dst i = lo32 (f i) →
      (if wide = true then if (full && uni) = true then x.setReg (dst + 1) eff true (.u (hi32 (f k)))
        else x.setLanes (dst + 1) eff fun i => hi32 (f i) else x).lane dst i = lo32 (f i) := by
    intro x hx
    repeat' split
    · simp only [Warp.lane, setReg_reg hne]; exact hx
    · simp only [Warp.lane, setLanes_reg hne]; exact hx
    · exact hx
  simp only [Warp.writeResult, if_neg hz, hk, Option.getD_some]
  apply hrest
  split
  · rename_i hfu
    simp only [Bool.and_eq_true] at hfu
    rw [(setReg_lane hn hi).1 he]
    simp only [VReg.lane]
    rw [hu hfu.1 hfu.2 k i hk32 hi hke he]
  · split
    · rename_i _ b s hfu
      rw [(setReg_lane hn hi).1 he]
      simp only [VReg.lane]
      exact (ha rfl (by simpa using hfu) b s rfl i hi he).symm
    · rw [setLanes_lane hn hi, he]; rfl

/-- The second register of a pair written by a result. -/
theorem writeResult_high {w : Warp} {dst i : Nat} {eff : Mask} {full uni : Bool} {aff : Option (Word × Word)}
    {f : Nat → DWord} (hn : dst + 1 < w.regs.length) (hi : i < 32) (he : eff.getLsbD i = true)
    (hu : full = true → uni = true → ∀ j k, j < 32 → k < 32 → eff.getLsbD j = true → eff.getLsbD k = true → f j = f k) :
    (w.writeResult dst true eff full uni aff f).lane (dst + 1) i = hi32 (f i) := by
  have hz : eff ≠ 0 := by rintro rfl; simp at he
  obtain ⟨k, hk, hk32, hke⟩ := lowLane_some hi he
  simp only [Warp.writeResult, if_neg hz, hk, Option.getD_some, if_true]
  have hlen : ∀ x : Warp, w.regsOnly x → dst + 1 < x.regs.length := fun x hx => by rw [hx.2]; exact hn
  have h1 : ∀ x : Warp, w.regsOnly x →
      (if (full && uni) = true then x.setReg (dst + 1) eff true (.u (hi32 (f k)))
        else x.setLanes (dst + 1) eff fun i => hi32 (f i)).lane (dst + 1) i = hi32 (f i) := by
    intro x hx
    split
    · rename_i hfu
      simp only [Bool.and_eq_true] at hfu
      rw [(setReg_lane (hlen x hx) hi).1 he]
      simp only [VReg.lane]
      rw [hu hfu.1 hfu.2 k i hk32 hi hke he]
    · rw [setLanes_lane (hlen x hx) hi, he]; rfl
  apply h1
  repeat' split
  · exact setReg_regsOnly ..
  · exact setReg_regsOnly ..
  · exact setLanes_regsOnly ..

/-- A register that a result does not name is as before. -/
theorem writeResult_reg {w : Warp} {dst n : Nat} {wide : Bool} {eff : Mask} {full uni : Bool} {aff : Option (Word × Word)}
    {f : Nat → DWord} (h : n ∉ dstRegs dst wide) : (w.writeResult dst wide eff full uni aff f).reg n = w.reg n := by
  have h1 : n ≠ dst := by rintro rfl; apply h; simp only [dstRegs]; split <;> simp
  have h2 : wide = true → n ≠ dst + 1 := by rintro hw rfl; apply h; simp [dstRegs, hw]
  simp only [Warp.writeResult]
  split
  · rfl
  · repeat' split
    all_goals simp_all [setReg_reg, setLanes_reg]

/-- Under a partial mask the lanes that are not effective are as before. -/
theorem writeResult_kept {w : Warp} {dst n i : Nat} {wide : Bool} {eff : Mask} {uni : Bool} {aff : Option (Word × Word)}
    {f : Nat → DWord} (hn : ∀ m ∈ dstRegs dst wide, m < w.regs.length) (hm : n ∈ dstRegs dst wide) (hi : i < 32)
    (he : eff.getLsbD i = false) : (w.writeResult dst wide eff false uni aff f).lane n i = w.lane n i := by
  have hd : dst < w.regs.length := hn dst (by simp only [dstRegs]; split <;> simp)
  simp only [Warp.writeResult]
  split
  · rfl
  · simp only [Bool.false_and, Bool.false_eq_true, if_false]
    have hlen : (w.setLanes dst eff fun i => lo32 (f i)).regs.length = w.regs.length := (setLanes_regsOnly ..).2
    cases hw : wide with
    | false =>
      simp only [dstRegs, hw, Bool.false_eq_true, if_false, List.mem_singleton] at hm
      subst hm
      simp only [Bool.false_eq_true, if_false]
      rw [setLanes_lane hd hi, he]; rfl
    | true =>
      have hd1 : dst + 1 < w.regs.length := hn (dst + 1) (by simp [dstRegs, hw])
      simp only [dstRegs, hw, if_true, List.mem_cons, List.not_mem_nil, or_false] at hm
      simp only [if_true]
      rcases hm with rfl | rfl
      · rw [Warp.lane, setLanes_reg (by omega), ← Warp.lane, setLanes_lane hd hi, he]; rfl
      · rw [setLanes_lane (by rw [hlen]; exact hd1) hi, he]
        simp only [Bool.false_eq_true, if_false, Warp.lane]
        rw [setLanes_reg (by omega)]

/-- What last-use marks leave of a register. -/
theorem kill_reg (w : Warp) (full : Bool) (marked written : List Nat) (n : Nat) :
    (w.kill full marked written).reg n = if full = true ∧ n ∈ marked ∧ n ∉ written then .d else w.reg n := by
  simp only [Warp.kill]
  cases full with
  | false => simp
  | true =>
    simp only [if_true, Warp.reg, List.getD_eq_getElem?_getD, List.getElem?_map, List.getElem?_zipIdx]
    cases hg : w.regs[n]? with
    | none => simp
    | some r => by_cases h : n ∈ marked ∧ n ∉ written <;> simp_all

/-- The tag that a result gives its first register, and the second of a pair, under a full effective mask. -/
def resultTag (dst : Nat) (uni : Bool) (aff : Option (Word × Word)) (n : Nat) : Nat :=
  if uni then 0 else if n = dst ∧ aff.isSome then 1 else 2

@[simp] theorem VReg.code_u (v : Word) : (VReg.u v).code = 0 := rfl
@[simp] theorem VReg.code_a (b st : Word) : (VReg.a b st).code = 1 := rfl
@[simp] theorem VReg.code_g (vs : List Word) : (VReg.g vs).code = 2 := rfl
@[simp] theorem VReg.code_d : VReg.d.code = 3 := rfl

theorem setReg_code {w : Warp} {n : Nat} {eff : Mask} {full : Bool} {v : VReg} (hn : n < w.regs.length) (he : eff ≠ 0) :
    ((w.setReg n eff full v).reg n).code = if full then v.code else 2 := by
  simp only [Warp.setReg, if_neg he, Warp.reg_set n hn, if_true]
  cases full <;> rfl

theorem setLanes_code {w : Warp} {n : Nat} {eff : Mask} {f : Nat → Word} (hn : n < w.regs.length) (he : eff ≠ 0) :
    ((w.setLanes n eff f).reg n).code = 2 := by
  rw [Warp.setLanes, if_neg he, setReg_code hn he]; rfl

/-- The tags of a result (01 R33, R34). -/
theorem writeResult_code {w : Warp} {dst n : Nat} {wide : Bool} {eff : Mask} {full uni : Bool} {aff : Option (Word × Word)}
    {f : Nat → DWord} (hn : ∀ m ∈ dstRegs dst wide, m < w.regs.length) (hm : n ∈ dstRegs dst wide) (he : eff ≠ 0) :
    ((w.writeResult dst wide eff full uni aff f).reg n).code = if full then resultTag dst uni aff n else 2 := by
  have hd : dst < w.regs.length := hn dst (by simp only [dstRegs]; split <;> simp)
  cases wide with
  | false =>
    simp only [dstRegs, Bool.false_eq_true, if_false, List.mem_singleton] at hm
    subst hm
    cases full <;> cases uni <;> cases aff <;>
      simp only [Warp.writeResult, if_neg he] <;> simp [resultTag, setReg_code hd he, setLanes_code hd he]
  | true =>
    have hd1 : dst + 1 < w.regs.length := hn (dst + 1) (by simp [dstRegs])
    have h1 : dst ≠ dst + 1 := by omega
    simp only [dstRegs, if_true, List.mem_cons, List.not_mem_nil, or_false] at hm
    have l1 : ∀ (full : Bool) (v : VReg), dst + 1 < (w.setReg dst eff full v).regs.length := fun _ _ => by rw [setReg_length]; exact hd1
    have l2 : ∀ g, dst + 1 < (w.setLanes dst eff g).regs.length := fun g => by rw [(setLanes_regsOnly ..).2]; exact hd1
    rcases hm with rfl | rfl
    · cases full <;> cases uni <;> cases aff <;>
        simp only [Warp.writeResult, if_neg he] <;> simp [resultTag, setReg_reg h1, setLanes_reg h1, setReg_code hd he, setLanes_code hd he]
    · cases full <;> cases uni <;> cases aff <;>
        simp only [Warp.writeResult, if_neg he] <;> simp [resultTag, setReg_code (l1 _ _) he, setLanes_code (l2 _) he, setLanes_code (l1 _ _) he]

/-- The whole of a result, with the last-use marks that go with it. -/
theorem writeResult_wrote {c : Ctx} {dst : Nat} {wide uni : Bool} {aff : Option (Word × Word)} {marks : List Nat}
    {f : Nat → DWord} (hn : c.holds dst wide)
    (hu : c.full = true → uni = true → ∀ j k, j < 32 → k < 32 → c.eff.getLsbD j = true → c.eff.getLsbD k = true → f j = f k)
    (ha : c.full = true → uni = false → ∀ b s, aff = some (b, s) → ∀ j, j < 32 → c.eff.getLsbD j = true →
      lo32 (f j) = b + BitVec.ofNat 32 j * s) :
    c.Wrote ((c.w.writeResult dst wide c.eff c.full uni aff f).kill c.full marks (dstRegs dst wide)) (resultOf dst wide f)
      marks (resultTag dst uni aff) := by
  have hd : dst < c.w.regs.length := hn dst (by simp only [dstRegs]; split <;> simp)
  have hmem : ∀ n, n ∈ (resultOf dst wide f).map (·.1) ↔ n ∈ dstRegs dst wide := by
    intro n; cases wide <;> simp [resultOf, dstRegs]
  have hreg : ∀ n ∈ dstRegs dst wide,
      ((c.w.writeResult dst wide c.eff c.full uni aff f).kill c.full marks (dstRegs dst wide)).reg n
        = (c.w.writeResult dst wide c.eff c.full uni aff f).reg n := by
    intro n h; rw [kill_reg, if_neg]; simp [h]
  refine ⟨?_, ?_, ?_, ?_, ?_, ?_⟩
  · exact (Warp.regsOnly_trans (writeResult_regsOnly ..) (kill_regsOnly ..)).1
  · intro p hp i hi he
    simp only [resultOf, List.mem_cons] at hp
    rcases hp with rfl | hp
    · simp only [Warp.lane]
      rw [hreg dst (by simp only [dstRegs]; split <;> simp)]
      exact writeResult_low hd hi he hu ha
    · cases wide with
      | false => simp at hp
      | true =>
        simp only [if_true, List.mem_cons, List.not_mem_nil, or_false] at hp
        subst hp
        simp only [Warp.lane]
        rw [hreg (dst + 1) (by simp [dstRegs])]
        exact writeResult_high (hn (dst + 1) (by simp [dstRegs])) hi he hu
  · intro p hp i hi hl he
    have hpd : p.1 ∈ dstRegs dst wide := (hmem p.1).mp (List.mem_map_of_mem hp)
    have hfull : c.full = false := by
      cases hf : c.full with
      | false => rfl
      | true =>
        simp only [Ctx.full, beq_iff_eq] at hf
        rw [hf, hl] at he; cases he
    simp only [Warp.lane]
    rw [hreg p.1 hpd]
    have := writeResult_kept (uni := uni) (aff := aff) (f := f) hn hpd hi he
    rw [hfull]; exact this
  · intro he p hp
    have hpd : p.1 ∈ dstRegs dst wide := (hmem p.1).mp (List.mem_map_of_mem hp)
    rw [hreg p.1 hpd]
    exact writeResult_code hn hpd he
  · intro he p hp
    have hpd : p.1 ∈ dstRegs dst wide := (hmem p.1).mp (List.mem_map_of_mem hp)
    rw [hreg p.1 hpd]
    simp only [Warp.writeResult, if_pos he]
  · intro n hnn
    have hnd : n ∉ dstRegs dst wide := fun h => hnn ((hmem n).mpr h)
    rw [kill_reg, writeResult_reg hnd]
    simp [hnd]

/-! ### Counting as U or A -/

theorem living_run {c : Ctx} {i : Nat} (hf : c.full = true) (hr : ∀ i, c.eff.getLsbD i = true → c.run.getLsbD i = true)
    (h : c.w.living.getLsbD i = true) : c.run.getLsbD i = true := by
  simp only [Ctx.full, beq_iff_eq] at hf
  exact hr i (hf ▸ h)

/-- A U or D register has one value. -/
theorem countsU_lane {r : VReg} (h : r.countsU = true) (i j : Nat) : r.lane i = r.lane j := by
  cases r with
  | u v => rfl
  | d => rfl
  | a b s => exact Bool.noConfusion h
  | g l => exact Bool.noConfusion h

theorem count_u {r : VReg} (h : r.count = .u) : r.countsU = true := by
  cases r with
  | u v => rfl
  | d => rfl
  | a b s => cases h
  | g l => cases h

/-- A register that counts as U through a route gives one value to every effective lane of a full mask (01 R33). -/
theorem countReg_u {c : Ctx} {rt : Route} {fill : Bool} {n : Nat} (hf : c.full = true)
    (h : countReg c rt fill n = .u) {g : Word → DWord} :
    ∃ v, ∀ i, i < 32 → c.eff.getLsbD i = true →
      (match rt with
        | .none => g (c.w.lane n i)
        | rt => if c.run.getLsbD (routeLane c.w rt i) = true then g (c.w.lane n (routeLane c.w rt i))
            else if fill = true then g (c.w.lane n i) else 0) = v := by
  have hliv : ∀ i, c.eff.getLsbD i = true → c.w.living.getLsbD i = true := by
    intro i hi; simp only [Ctx.full, beq_iff_eq] at hf; rwa [← hf]
  have key : ∀ (r : Route), (if c.run != c.w.living then Count.g
      else if (c.w.reg n).countsU && (fill || (lanesOf c.w.living).all fun i => c.run.getLsbD (routeLane c.w r i)) then .u
      else .g) = .u → ∃ v, ∀ i, i < 32 → c.eff.getLsbD i = true →
        (if c.run.getLsbD (routeLane c.w r i) = true then g (c.w.lane n (routeLane c.w r i))
            else if fill = true then g (c.w.lane n i) else 0) = v := by
    intro r hr
    refine ⟨g (c.w.lane n 0), fun i hi he => ?_⟩
    split at hr
    · cases hr
    · split at hr
      · rename_i hcond
        simp only [Bool.and_eq_true, Bool.or_eq_true, List.all_eq_true] at hcond
        obtain ⟨hu, hav⟩ := hcond
        have hone : ∀ k, c.w.lane n k = c.w.lane n 0 := fun k => countsU_lane hu k 0
        split
        · rw [hone]
        · rename_i hno
          rcases hav with hfill | hall
          · rw [if_pos hfill, hone]
          · exact absurd (hall i (by simp [lanesOf, hi, hliv i he])) hno
      · cases hr
  cases rt with
  | none =>
    refine ⟨g (c.w.lane n 0), fun i hi _ => ?_⟩
    simp only [countReg] at h
    simp only [Warp.lane]
    rw [countsU_lane (count_u h) i 0]
  | bc k =>
    simp only [countReg] at h
    split at h
    · cases h
    · by_cases hk : c.run.getLsbD k = true
      · exact ⟨g (c.w.lane n k), fun i _ _ => by simp [routeLane, hk]⟩
      · simp only [Bool.not_eq_true] at hk
        simp only [hk, Bool.false_eq_true, if_false] at h
        by_cases hfill : fill = true
        · simp only [hfill, if_true] at h
          exact ⟨g (c.w.lane n 0), fun i _ _ => by
            simp only [routeLane, hk, Bool.false_eq_true, if_false, hfill, if_true, Warp.lane]
            rw [countsU_lane (count_u h) i 0]⟩
        · exact ⟨0, fun i _ _ => by simp [routeLane, hk, hfill]⟩
  | rot k => exact key (.rot k) h
  | bfly k => exact key (.bfly k) h
  | ix k => exact key (.ix k) h
  | reserved => exact key .reserved h

end Sys2Proof.Machine
end

