-- ==== Sys2Proof/Laws/Operands.lean ====
section
/-! SUPPORT. Laws/Operands.lean: an operand that counts as U has one value, one that counts as A has an affine one (01 R33); so
the register skeletons of the families complete with the values they compute. -/

namespace Sys2Proof.Machine

theorem pair64_or (x y : Word) : pair64 x y = pair64 x 0 ||| pair64 0 y := by
  simp only [pair64]
  apply BitVec.eq_of_getLsbD_eq
  intro k hk
  simp only [BitVec.getLsbD_append, BitVec.getLsbD_or]
  split <;> simp

theorem pair_if (p q : Bool) (x y z w : Word) :
    (if p = true then pair64 x y else if q = true then pair64 z w else 0)
      = (if p = true then pair64 x 0 else if q = true then pair64 z 0 else 0)
        ||| (if p = true then pair64 0 y else if q = true then pair64 0 w else 0) := by
  cases p with
  | true => exact pair64_or x y
  | false => cases q with
    | true => exact pair64_or z w
    | false => simp

/-- An operand that counts as U has one value over the effective lanes of a full mask. -/
theorem src_uniform {c : Ctx} {r : Src} (hf : c.full = true) (h : r.count c = .u) :
    ∃ v, ∀ i, i < 32 → c.eff.getLsbD i = true → r.val c i = v := by
  obtain ⟨n, wide, rt, fill⟩ := r
  cases wide with
  | false =>
    simp only [Src.count, Bool.false_eq_true, if_false] at h
    obtain ⟨v, hv⟩ := countReg_u hf h (g := fun x => x.setWidth 64)
    refine ⟨v, fun i hi he => ?_⟩
    have := hv i hi he
    cases rt <;> simpa [Src.val, Src.own, routed] using this
  | true =>
    simp only [Src.count, if_true] at h
    split at h
    · rename_i hc
      simp only [Bool.and_eq_true, beq_iff_eq] at hc
      have lo := countReg_u hf hc.1 (g := fun x => pair64 x 0)
      have hi := countReg_u hf hc.2 (g := fun x => pair64 0 x)
      obtain ⟨a, ha⟩ := lo
      obtain ⟨b, hb⟩ := hi
      refine ⟨a ||| b, fun i hi he => ?_⟩
      have h1 := ha i hi he
      have h2 := hb i hi he
      rw [← h1, ← h2]
      cases rt with
      | none => exact pair64_or ..
      | rot k => exact pair_if ..
      | bc k => exact pair_if ..
      | bfly k => exact pair_if ..
      | ix k => exact pair_if ..
      | reserved => exact pair_if ..
    · cases h

theorem opd_uniform {c : Ctx} {o : Opd} (hf : c.full = true) (h : o.count c = .u) {i j : Nat} (hi : i < 32) (hj : j < 32)
    (ei : c.eff.getLsbD i = true) (ej : c.eff.getLsbD j = true) : o.val c i = o.val c j := by
  cases o with
  | imm v => rfl
  | src r =>
    obtain ⟨v, hv⟩ := src_uniform hf h
    simp only [Opd.val]
    rw [hv i hi ei, hv j hj ej]

theorem allU_uniform {c : Ctx} {os : List Opd} {o : Opd} (hf : c.full = true) (h : allU c os = true) (ho : o ∈ os) {i j : Nat}
    (hi : i < 32) (hj : j < 32) (ei : c.eff.getLsbD i = true) (ej : c.eff.getLsbD j = true) : o.val c i = o.val c j := by
  simp only [allU, List.all_eq_true, beq_iff_eq] at h
  exact opd_uniform hf (h o ho) hi hj ei ej

/-- A register that counts as A has its affine value in every lane. -/
theorem count_a {r : VReg} {b s : Word} (h : r.count = .a b s) (i : Nat) : r.lane i = b + BitVec.ofNat 32 i * s := by
  cases r <;> simp [VReg.count] at h
  obtain ⟨rfl, rfl⟩ := h
  rfl

/-- An operand that counts as A has its affine value in every effective lane. -/
theorem src_affine {c : Ctx} {r : Src} {b s : Word} (h : r.count c = .a b s) (i : Nat) :
    lo32 (r.val c i) = b + BitVec.ofNat 32 i * s := by
  obtain ⟨n, wide, rt, fill⟩ := r
  have hlo : ∀ x : Word, lo32 (x.setWidth 64) = x := by
    intro x; simp only [lo32]; apply BitVec.eq_of_getLsbD_eq; intro k hk; simp [hk]; omega
  cases wide with
  | true => simp only [Src.count, if_true] at h; split at h <;> cases h
  | false =>
    simp only [Src.count, Bool.false_eq_true, if_false] at h
    cases rt with
    | none =>
      simp only [countReg] at h
      simp only [Src.val, Src.own, Bool.false_eq_true, if_false, hlo, Warp.lane]
      exact count_a h i
    | bc k =>
      simp only [countReg] at h
      split at h
      · cases h
      · split at h
        · cases h
        · split at h
          · rename_i hk hfill
            simp only [Src.val, routed, routeLane, Src.own, hk, hfill, if_true, Bool.false_eq_true, if_false, hlo, Warp.lane]
            exact count_a h i
          · cases h
    | rot k => simp only [countReg] at h; split at h; · cases h
               split at h <;> cases h
    | bfly k => simp only [countReg] at h; split at h; · cases h
                split at h <;> cases h
    | ix k => simp only [countReg] at h; split at h; · cases h
              split at h <;> cases h
    | reserved => simp only [countReg] at h; split at h; · cases h
                  split at h <;> cases h

theorem opd_affine {c : Ctx} {o : Opd} {b s : Word} (h : o.count c = .a b s) (i : Nat) :
    lo32 (o.val c i) = b + BitVec.ofNat 32 i * s := by
  cases o with
  | imm v => cases h
  | src r => exact src_affine h i

/-- What `affine` gives of an operand that counts as A, and of one that counts as U. -/
theorem opd_affine_a {c : Ctx} {o : Opd} {b s : Word} (h : o.count c = .a b s) : o.affine c = some (b, s) := by
  cases o with
  | imm v => cases h
  | src r => simp only [Opd.count] at h; simp only [Opd.affine, Src.affine, h]

theorem opd_affine_u {c : Ctx} {o : Opd} (h : o.count c = .u) : o.affine c = some (lo32 (o.val c c.low), 0) := by
  cases o with
  | imm v => rfl
  | src r => simp only [Opd.count] at h; simp only [Opd.affine, Src.affine, h, Opd.val]

theorem low_eff {c : Ctx} {i : Nat} (hi : i < 32) (he : c.eff.getLsbD i = true) : c.low < 32 ∧ c.eff.getLsbD c.low = true := by
  obtain ⟨k, hk, h32, hke⟩ := lowLane_some hi he
  simp only [Ctx.low, hk, Option.getD_some]
  exact ⟨h32, hke⟩

/-- The affine rule of R33 for sums, differences and products gives the values of the operation. -/
theorem affineOf_value {c : Ctx} {a b : Opd} {op : Nat} {x p : Word} (hf : c.full = true)
    (h : affineOf op c a b = some (x, p)) {i : Nat} (hi : i < 32) (he : c.eff.getLsbD i = true) :
    x + BitVec.ofNat 32 i * p =
      if op = 0 then lo32 (a.val c i) + lo32 (b.val c i) else if op = 1 then lo32 (a.val c i) - lo32 (b.val c i)
      else lo32 (a.val c i) * lo32 (b.val c i) := by
  obtain ⟨hl, hle⟩ := low_eff hi he
  unfold affineOf at h
  split at h
  · rename_i ha hb haa hbb
    rw [opd_affine_a ha] at haa
    rw [opd_affine_u hb] at hbb
    cases haa; cases hbb
    have e2 : lo32 (b.val c i) = lo32 (b.val c c.low) := congrArg lo32 (opd_uniform hf hb hi hl he hle)
    rw [opd_affine ha i, e2]
    generalize lo32 (b.val c c.low) = y at *
    generalize BitVec.ofNat 32 i = n
    split at h
    · rename_i h0
      cases h
      rw [if_pos h0, BitVec.add_assoc, BitVec.add_comm y, ← BitVec.add_assoc]
    · split at h
      · rename_i h0 h1
        cases h
        rw [if_neg h0, if_pos h1, BitVec.sub_eq_add_neg, BitVec.sub_eq_add_neg, BitVec.add_assoc, BitVec.add_comm (-y),
          ← BitVec.add_assoc]
      · rename_i h0 h1
        cases h
        rw [if_neg h0, if_neg h1, BitVec.add_mul, BitVec.mul_assoc]
  · rename_i ha hb haa hbb
    rw [opd_affine_a hb] at hbb
    rw [opd_affine_u ha] at haa
    cases haa; cases hbb
    have e2 : lo32 (a.val c i) = lo32 (a.val c c.low) := congrArg lo32 (opd_uniform hf ha hi hl he hle)
    rw [opd_affine hb i, e2]
    generalize lo32 (a.val c c.low) = y at *
    generalize BitVec.ofNat 32 i = n
    split at h
    · rename_i h0
      cases h
      rw [if_pos h0, BitVec.add_assoc]
    · split at h
      · cases h
      · rename_i h0 h1
        cases h
        rw [if_neg h0, if_neg h1, BitVec.mul_add, BitVec.mul_comm y (n * _), BitVec.mul_assoc, BitVec.mul_comm y, BitVec.mul_comm y]
  · rename_i ha hb haa hbb
    rw [opd_affine_a ha] at haa
    rw [opd_affine_a hb] at hbb
    cases haa; cases hbb
    split at h
    · rename_i hc
      simp only [Bool.and_eq_true, beq_iff_eq, decide_eq_true_eq] at hc
      obtain ⟨rfl, rfl⟩ := hc
      cases h
      rw [opd_affine ha, opd_affine hb]
      generalize BitVec.ofNat 32 i = n
      simp only [Nat.one_ne_zero, if_false, if_true]
      rw [show n * (0 : Word) = 0 from BitVec.mul_zero]
      apply BitVec.eq_of_toNat_eq
      have hz : BitVec.toNat (0 : Word) = 0 := rfl
      simp only [BitVec.toNat_sub, BitVec.toNat_add, hz]
      omega
    · cases h
  · cases h

end Sys2Proof.Machine
end

