-- ==== Sys2Proof/Laws/Arith.lean ====
section
/-! SUPPORT. Laws/Arith.lean: the register skeletons of the families complete with the values they compute (01 R33, R34; 04
R108, R109, R116, R117; 05 R131). -/

namespace Sys2Proof.Machine

/-- A register instruction whose body writes one result gives it: the result must be the same in every lane where it counts as
U, and affine where it counts as A. -/
theorem gives_alu {s : State} {c : Ctx} {g : Nat × Bool} {i : Instr} {dst : Nat} {wide : Bool} {srcs : List Opd}
    {reads marks : List Nat} {tag : Nat → Nat} {val : Nat → DWord} {body : Ctx → Except (Nat × DWord) Warp} {uni : Bool}
    {aff : Option (Word × Word)} {f : Nat → DWord}
    (hexec : exec i s = s.alu g reads marks (dstRegs dst wide) body)
    (hreads : reads = srcs.flatMap (·.regs))
    (hbody : body c = .ok (c.w.writeResult dst wide c.eff c.full uni aff f))
    (hval : ∀ k, k < 32 → c.eff.getLsbD k = true → lo32 (f k) = lo32 (val k) ∧ (wide = true → hi32 (f k) = hi32 (val k)))
    (hu : c.full = true → uni = true → ∀ j k, j < 32 → k < 32 → c.eff.getLsbD j = true → c.eff.getLsbD k = true → f j = f k)
    (ha : c.full = true → uni = false → ∀ b st, aff = some (b, st) → ∀ j, j < 32 → c.eff.getLsbD j = true →
      lo32 (f j) = b + BitVec.ofNat 32 j * st)
    (ht : c.full = true → ∀ n ∈ dstRegs dst wide, tag n = resultTag dst uni aff n) :
    Gives s c g i dst wide srcs marks tag val := by
  intro hi hn hd
  have hsame := Warp.regsOnly_same (writeResult_regsOnly c.w dst wide c.eff c.full uni aff f)
  refine ⟨(c.w.writeResult dst wide c.eff c.full uni aff f).kill c.full marks (dstRegs dst wide), ?_, ?_⟩
  · rw [hexec]
    exact alu_completes hi (hreads ▸ hd) hbody hsame.1 hsame.2.1 hsame.2.2.1 hsame.2.2.2.1 hsame.2.2.2.2.1 hsame.2.2.2.2.2.1
  · have hw := writeResult_wrote (marks := marks) hn hu ha
    have hq : ∀ p ∈ resultOf dst wide val, p.1 ∈ dstRegs dst wide ∧ ∃ q ∈ resultOf dst wide f, q.1 = p.1 := by
      intro p hp
      cases wide with
      | false =>
        simp only [resultOf, Bool.false_eq_true, if_false, List.mem_cons, List.not_mem_nil, or_false] at hp
        exact ⟨by rw [hp]; simp [dstRegs], _, by simp only [resultOf]; exact List.mem_cons_self .., by rw [hp]⟩
      | true =>
        simp only [resultOf, if_true, List.mem_cons, List.not_mem_nil, or_false] at hp
        rcases hp with rfl | rfl
        · exact ⟨by simp [dstRegs], (dst, fun i => lo32 (f i)), by simp [resultOf], rfl⟩
        · exact ⟨by simp [dstRegs], (dst + 1, fun i => hi32 (f i)), by simp [resultOf], rfl⟩
    refine ⟨hw.only, ?_, ?_, ?_, ?_, ?_⟩
    · intro p hp k hk he
      cases wide with
      | false =>
        simp only [resultOf, Bool.false_eq_true, if_false, List.mem_cons, List.not_mem_nil, or_false] at hp
        subst hp
        have := hw.value (dst, fun i => lo32 (f i)) (by simp [resultOf]) k hk he
        simp only at this ⊢
        rw [this, (hval k hk he).1]
      | true =>
        simp only [resultOf, if_true, List.mem_cons, List.not_mem_nil, or_false] at hp
        rcases hp with rfl | rfl
        · have := hw.value (dst, fun i => lo32 (f i)) (by simp [resultOf]) k hk he
          simp only at this ⊢
          rw [this, (hval k hk he).1]
        · have := hw.value (dst + 1, fun i => hi32 (f i)) (by simp [resultOf]) k hk he
          simp only at this ⊢
          rw [this, (hval k hk he).2 rfl]
    · intro p hp k hk hl he
      obtain ⟨-, q, hqm, hqp⟩ := hq p hp
      rw [← hqp]
      exact hw.kept q hqm k hk hl he
    · intro he p hp
      obtain ⟨hpd, q, hqm, hqp⟩ := hq p hp
      have h := hw.tagged he q hqm
      rw [hqp] at h
      rw [h]
      split
      · rename_i hf; rw [ht hf p.1 hpd]
      · rfl
    · intro he p hp
      obtain ⟨-, q, hqm, hqp⟩ := hq p hp
      rw [← hqp]
      exact hw.none he q hqm
    · intro n hnn
      apply hw.rest
      cases wide <;> simpa [resultOf] using hnn

/-- The same where the value is the one written and only the operands decide U. -/
theorem gives_uniform {s : State} {c : Ctx} {g : Nat × Bool} {i : Instr} {dst : Nat} {wide : Bool} {srcs : List Opd}
    {reads marks : List Nat} {val : Nat → DWord} {body : Ctx → Except (Nat × DWord) Warp}
    (hexec : exec i s = s.alu g reads marks (dstRegs dst wide) body)
    (hreads : reads = srcs.flatMap (·.regs))
    (hbody : body c = .ok (c.w.writeResult dst wide c.eff c.full (allU c srcs) none val))
    (hdep : ∀ j k, (∀ o ∈ srcs, o.val c j = o.val c k) → val j = val k) :
    Gives s c g i dst wide srcs marks (fun _ => c.tagU srcs) val := by
  refine gives_alu hexec hreads hbody (fun _ _ _ => ⟨rfl, fun _ => rfl⟩) ?_ ?_ ?_
  · intro hf hu j k hj hk ej ek
    exact hdep j k fun o ho => allU_uniform hf hu ho hj hk ej ek
  · intro _ _ b st h; cases h
  · intro _ n _
    simp [Ctx.tagU, resultTag, allU]

/-- Where nothing counts as U and the result is G. -/
theorem gives_general {s : State} {c : Ctx} {g : Nat × Bool} {i : Instr} {dst : Nat} {wide : Bool} {srcs : List Opd}
    {reads marks : List Nat} {val : Nat → DWord} {body : Ctx → Except (Nat × DWord) Warp}
    (hexec : exec i s = s.alu g reads marks (dstRegs dst wide) body)
    (hreads : reads = srcs.flatMap (·.regs))
    (hbody : body c = .ok (c.w.writeResult dst wide c.eff c.full false none val)) :
    Gives s c g i dst wide srcs marks (fun _ => 2) val := by
  refine gives_alu hexec hreads hbody (fun _ _ _ => ⟨rfl, fun _ => rfl⟩) ?_ ?_ ?_
  · intro _ h; cases h
  · intro _ _ b st h; cases h
  · intro _ n _
    simp [resultTag]

/-! ### Predicates -/

theorem pred_modAt {l : List Mask} {n m : Nat} {f : Mask → Mask} :
    (modAt l n f).getD m 0 = if m = n ∧ m < l.length then f (l.getD m 0) else l.getD m 0 := by
  simp only [modAt, List.getD_eq_getElem?_getD, List.getElem?_map, List.getElem?_zipIdx]
  by_cases hm : m < l.length
  · by_cases hmn : m = n <;> simp [hm, hmn]
    subst hmn; simp [hm]
  · simp [hm]

/-- A predicate written under an effective mask. -/
theorem setPred_wrote {c : Ctx} {pd : Nat} {marks : List Nat} {v : Mask} {val : Nat → Bool} (hpd : pd < 8)
    (hlen : c.w.preds.length = 7) (hv : ∀ i, i < 32 → c.eff.getLsbD i = true → v.getLsbD i = val i) :
    c.WrotePred ((c.w.setPred pd c.eff v).kill c.full marks []) pd val marks := by
  have hp : ∀ x : Warp, (x.kill c.full marks []).preds = x.preds := by intro x; simp only [Warp.kill]; split <;> rfl
  have hr : ∀ n, ((c.w.setPred pd c.eff v).reg n) = c.w.reg n := by intro n; simp only [Warp.setPred]; split <;> rfl
  have hset : pd ≠ 0 → (c.w.setPred pd c.eff v).preds
      = modAt c.w.preds (pd - 1) fun old => (old &&& ~~~c.eff) ||| (v &&& c.eff) := by
    intro h; simp [Warp.setPred, h]
  refine ⟨?_, ?_, ?_, ?_⟩
  · simp only [Warp.kill, Warp.setPred]; repeat' split
    all_goals rfl
  · intro i hi he h0
    simp only [Warp.pred, if_neg h0, hp, hset h0, pred_modAt]
    have hlt : pd - 1 < c.w.preds.length := by omega
    rw [if_pos (by simpa using hlt)]
    simp only [BitVec.getLsbD_or, BitVec.getLsbD_and, BitVec.getLsbD_not, he, hv i hi he]
    simp
  · intro n i hn hi hne
    by_cases hn0 : n = 0
    · simp [Warp.pred, hn0]
    · simp only [Warp.pred, if_neg hn0, hp]
      by_cases h0 : pd = 0
      · simp [Warp.setPred, h0]
      · rw [hset h0, pred_modAt]
        split
        · rename_i h
          have : n = pd := by omega
          have he := hne this
          simp only [BitVec.getLsbD_or, BitVec.getLsbD_and, BitVec.getLsbD_not, he, hi]
          simp
        · rfl
  · intro n
    rw [kill_reg, hr]
    simp

/-- An instruction that writes a predicate gives it. -/
theorem givesPred_alu {s : State} {c : Ctx} {g : Nat × Bool} {i : Instr} {pd : Nat} {srcs : List Opd} {reads marks : List Nat}
    {val : Nat → Bool} {body : Ctx → Except (Nat × DWord) Warp} {v : Mask}
    (hexec : exec i s = s.alu g reads marks [] body) (hreads : reads = srcs.flatMap (·.regs))
    (hbody : body c = .ok (c.w.setPred pd c.eff v))
    (hv : ∀ i, i < 32 → c.eff.getLsbD i = true → v.getLsbD i = val i) : GivesPred s c g i pd srcs marks val := by
  intro hi hpd hlen hd
  refine ⟨(c.w.setPred pd c.eff v).kill c.full marks [], ?_, setPred_wrote hpd hlen hv⟩
  rw [hexec]
  refine alu_completes hi (hreads ▸ hd) hbody ?_ ?_ ?_ ?_ ?_ ?_ <;> (simp only [Warp.setPred]; split <;> rfl)

/-- The set of the lanes for which a property holds. -/
theorem maskOf_bit {p : Nat → Bool} {i : Nat} (hi : i < 32) : (maskOf p).getLsbD i = p i := by
  have key : ∀ n, (List.range n).foldl (fun a i => if p i then a + 2 ^ i else a) 0 < 2 ^ n ∧
      ∀ k, ((List.range n).foldl (fun a i => if p i then a + 2 ^ i else a) 0).testBit k = (decide (k < n) && p k) := by
    intro n
    induction n with
    | zero => simp
    | succ n ih =>
      obtain ⟨hlt, hbit⟩ := ih
      simp only [List.range_succ, List.foldl_append, List.foldl_cons, List.foldl_nil]
      generalize hA : (List.range n).foldl (fun a i => if p i then a + 2 ^ i else a) 0 = A at *
      by_cases hp : p n = true
      · have hor : A + 2 ^ n = 2 ^ n ||| A := by
          have := Nat.two_pow_add_eq_or_of_lt hlt 1
          rw [Nat.mul_one] at this
          rw [Nat.add_comm]; exact this
        simp only [hp, if_true]
        refine ⟨by rw [Nat.pow_succ]; omega, fun k => ?_⟩
        rw [hor, Nat.testBit_or, Nat.testBit_two_pow, hbit]
        by_cases hk : n = k
        · subst hk; simp [hp]
        · by_cases h2 : k < n
          · simp [hk, h2, Nat.lt_succ_of_lt h2]
          · have : ¬ k < n + 1 := by omega
            simp [hk, h2, this]
      · simp only [hp, Bool.false_eq_true, if_false]
        refine ⟨by rw [Nat.pow_succ]; omega, fun k => ?_⟩
        rw [hbit]
        by_cases hk : k = n
        · subst hk; simp [hp]
        · by_cases h2 : k < n
          · simp [h2, Nat.lt_succ_of_lt h2]
          · have : ¬ k < n + 1 := by omega
            simp [h2, this]
  have h := (key 32).2 i
  simp only [hi, decide_true, Bool.true_and] at h
  simp only [maskOf, BitVec.getLsbD_ofNat, hi, decide_true, Bool.true_and]
  exact h

end Sys2Proof.Machine
end

