-- ==== Sys2Proof/Laws/PerInstr.lean ====
section
/-! SUPPORT. Laws/PerInstr.lean: family OpcodeBits: an instruction of the word carries its opcode in the word's low ten bits (02 R50),
and a step that is no instruction of the word has no word. -/

namespace Sys2Proof.Laws.OpcodeBits
open Sys2Proof

/-- The word of an instruction, where it has one, ends in the ten bits of its opcode. -/
def Statement (i : Instr) : Prop :=
  match i.opcode with
  | some op => op < 1024 ∧ ∃ w, encode i = some w ∧ w.toNat % 1024 = op
  | none => encode i = none

theorem of_some {i : Instr} {op : Nat} (h : i.opcode = some op) (hop : op < 1024) : Statement i := by
  simp only [Statement, h]
  refine ⟨hop, _, by simp [encode, h]; rfl, ?_⟩
  have e : ∀ a : BitVec 86, (a ++ BitVec.ofNat 10 op : Slot96).toNat % 1024 = op := by
    intro a
    have := BitVec.toNat_append a (BitVec.ofNat 10 op)
    rw [this, ← Nat.shiftLeft_add_eq_or_of_lt (BitVec.isLt _), Nat.shiftLeft_eq, BitVec.toNat_ofNat]
    omega
  exact e _

theorem of_none {i : Instr} (h : i.opcode = none) : Statement i := by simp [Statement, encode, h]

theorem nop f : Statement (.nop f) := of_some (op := 0x000) rfl (by decide)
theorem bra f : Statement (.bra f) := of_some (op := 0x001) rfl (by decide)
theorem brx f : Statement (.brx f) := of_some (op := 0x002) rfl (by decide)
theorem call f : Statement (.call f) := of_some (op := 0x003) rfl (by decide)
theorem ret f : Statement (.ret f) := of_some (op := 0x004) rfl (by decide)
theorem exit_ f : Statement (.exit_ f) := of_some (op := 0x005) rfl (by decide)
theorem yield f : Statement (.yield f) := of_some (op := 0x006) rfl (by decide)
theorem sleep f : Statement (.sleep f) := of_some (op := 0x007) rfl (by decide)
theorem trap f : Statement (.trap f) := of_some (op := 0x008) rfl (by decide)
theorem poll f : Statement (.poll f) := of_some (op := 0x040) rfl (by decide)
theorem fold f : Statement (.fold f) := of_some (op := 0x041) rfl (by decide)
theorem peer f : Statement (.peer f) := of_some (op := 0x042) rfl (by decide)
theorem pcomb f : Statement (.pcomb f) := of_some (op := 0x043) rfl (by decide)
theorem iadd f : Statement (.iadd f) := of_some (op := 0x080) rfl (by decide)
theorem iaddI f : Statement (.iaddI f) := of_some (op := 0x0A0) rfl (by decide)
theorem isub f : Statement (.isub f) := of_some (op := 0x081) rfl (by decide)
theorem isubI f : Statement (.isubI f) := of_some (op := 0x0A1) rfl (by decide)
theorem imul f : Statement (.imul f) := of_some (op := 0x082) rfl (by decide)
theorem imulI f : Statement (.imulI f) := of_some (op := 0x0A2) rfl (by decide)
theorem imulh f : Statement (.imulh f) := of_some (op := 0x083) rfl (by decide)
theorem imulhI f : Statement (.imulhI f) := of_some (op := 0x0A3) rfl (by decide)
theorem imad f : Statement (.imad f) := of_some (op := 0x084) rfl (by decide)
theorem imadw f : Statement (.imadw f) := of_some (op := 0x085) rfl (by decide)
theorem idiv f : Statement (.idiv f) := of_some (op := 0x086) rfl (by decide)
theorem idivI f : Statement (.idivI f) := of_some (op := 0x0A6) rfl (by decide)
theorem irem f : Statement (.irem f) := of_some (op := 0x087) rfl (by decide)
theorem iremI f : Statement (.iremI f) := of_some (op := 0x0A7) rfl (by decide)
theorem imin f : Statement (.imin f) := of_some (op := 0x088) rfl (by decide)
theorem iminI f : Statement (.iminI f) := of_some (op := 0x0A8) rfl (by decide)
theorem imax f : Statement (.imax f) := of_some (op := 0x089) rfl (by decide)
theorem imaxI f : Statement (.imaxI f) := of_some (op := 0x0A9) rfl (by decide)
theorem iabs f : Statement (.iabs f) := of_some (op := 0x08A) rfl (by decide)
theorem ineg f : Statement (.ineg f) := of_some (op := 0x08B) rfl (by decide)
theorem icmp f : Statement (.icmp f) := of_some (op := 0x08C) rfl (by decide)
theorem icmpI f : Statement (.icmpI f) := of_some (op := 0x0AC) rfl (by decide)
theorem sel f : Statement (.sel f) := of_some (op := 0x08D) rfl (by decide)
theorem selI f : Statement (.selI f) := of_some (op := 0x0AD) rfl (by decide)
theorem mov f : Statement (.mov f) := of_some (op := 0x08E) rfl (by decide)
theorem movi f : Statement (.movi f) := of_some (op := 0x0AE) rfl (by decide)
theorem lea f : Statement (.lea f) := of_some (op := 0x0AF) rfl (by decide)
theorem and_ f : Statement (.and_ f) := of_some (op := 0x0C0) rfl (by decide)
theorem andI f : Statement (.andI f) := of_some (op := 0x0E0) rfl (by decide)
theorem or_ f : Statement (.or_ f) := of_some (op := 0x0C1) rfl (by decide)
theorem orI f : Statement (.orI f) := of_some (op := 0x0E1) rfl (by decide)
theorem xor_ f : Statement (.xor_ f) := of_some (op := 0x0C2) rfl (by decide)
theorem xorI f : Statement (.xorI f) := of_some (op := 0x0E2) rfl (by decide)
theorem andn f : Statement (.andn f) := of_some (op := 0x0C3) rfl (by decide)
theorem andnI f : Statement (.andnI f) := of_some (op := 0x0E3) rfl (by decide)
theorem orn f : Statement (.orn f) := of_some (op := 0x0C4) rfl (by decide)
theorem ornI f : Statement (.ornI f) := of_some (op := 0x0E4) rfl (by decide)
theorem shl f : Statement (.shl f) := of_some (op := 0x0C5) rfl (by decide)
theorem shlI f : Statement (.shlI f) := of_some (op := 0x0E5) rfl (by decide)
theorem shr f : Statement (.shr f) := of_some (op := 0x0C6) rfl (by decide)
theorem shrI f : Statement (.shrI f) := of_some (op := 0x0E6) rfl (by decide)
theorem sar f : Statement (.sar f) := of_some (op := 0x0C7) rfl (by decide)
theorem sarI f : Statement (.sarI f) := of_some (op := 0x0E7) rfl (by decide)
theorem rol f : Statement (.rol f) := of_some (op := 0x0C8) rfl (by decide)
theorem rolI f : Statement (.rolI f) := of_some (op := 0x0E8) rfl (by decide)
theorem ror f : Statement (.ror f) := of_some (op := 0x0C9) rfl (by decide)
theorem rorI f : Statement (.rorI f) := of_some (op := 0x0E9) rfl (by decide)
theorem popc f : Statement (.popc f) := of_some (op := 0x0CA) rfl (by decide)
theorem clz f : Statement (.clz f) := of_some (op := 0x0CB) rfl (by decide)
theorem ctz f : Statement (.ctz f) := of_some (op := 0x0CC) rfl (by decide)
theorem brev f : Statement (.brev f) := of_some (op := 0x0CD) rfl (by decide)
theorem bfe f : Statement (.bfe f) := of_some (op := 0x0CE) rfl (by decide)
theorem bfeI f : Statement (.bfeI f) := of_some (op := 0x0EE) rfl (by decide)
theorem bfi f : Statement (.bfi f) := of_some (op := 0x0CF) rfl (by decide)
theorem bfiI f : Statement (.bfiI f) := of_some (op := 0x0EF) rfl (by decide)
theorem prmb f : Statement (.prmb f) := of_some (op := 0x0D0) rfl (by decide)
theorem prmbI f : Statement (.prmbI f) := of_some (op := 0x0F0) rfl (by decide)
theorem fadd f : Statement (.fadd f) := of_some (op := 0x100) rfl (by decide)
theorem faddI f : Statement (.faddI f) := of_some (op := 0x120) rfl (by decide)
theorem fsub f : Statement (.fsub f) := of_some (op := 0x101) rfl (by decide)
theorem fsubI f : Statement (.fsubI f) := of_some (op := 0x121) rfl (by decide)
theorem fmul f : Statement (.fmul f) := of_some (op := 0x102) rfl (by decide)
theorem fmulI f : Statement (.fmulI f) := of_some (op := 0x122) rfl (by decide)
theorem ffma f : Statement (.ffma f) := of_some (op := 0x103) rfl (by decide)
theorem fmin f : Statement (.fmin f) := of_some (op := 0x104) rfl (by decide)
theorem fminI f : Statement (.fminI f) := of_some (op := 0x124) rfl (by decide)
theorem fmax f : Statement (.fmax f) := of_some (op := 0x105) rfl (by decide)
theorem fmaxI f : Statement (.fmaxI f) := of_some (op := 0x125) rfl (by decide)
theorem fminn f : Statement (.fminn f) := of_some (op := 0x106) rfl (by decide)
theorem fminnI f : Statement (.fminnI f) := of_some (op := 0x126) rfl (by decide)
theorem fmaxn f : Statement (.fmaxn f) := of_some (op := 0x107) rfl (by decide)
theorem fmaxnI f : Statement (.fmaxnI f) := of_some (op := 0x127) rfl (by decide)
theorem fabs f : Statement (.fabs f) := of_some (op := 0x108) rfl (by decide)
theorem fneg f : Statement (.fneg f) := of_some (op := 0x109) rfl (by decide)
theorem fcmp f : Statement (.fcmp f) := of_some (op := 0x10A) rfl (by decide)
theorem fcmpI f : Statement (.fcmpI f) := of_some (op := 0x12A) rfl (by decide)
theorem fclass f : Statement (.fclass f) := of_some (op := 0x10B) rfl (by decide)
theorem fcvt f : Statement (.fcvt f) := of_some (op := 0x140) rfl (by decide)
theorem icvt f : Statement (.icvt f) := of_some (op := 0x141) rfl (by decide)
theorem fcvti f : Statement (.fcvti f) := of_some (op := 0x142) rfl (by decide)
theorem frcp f : Statement (.frcp f) := of_some (op := 0x143) rfl (by decide)
theorem frsq f : Statement (.frsq f) := of_some (op := 0x144) rfl (by decide)
theorem fsqrt f : Statement (.fsqrt f) := of_some (op := 0x145) rfl (by decide)
theorem fdiv f : Statement (.fdiv f) := of_some (op := 0x146) rfl (by decide)
theorem fex2 f : Statement (.fex2 f) := of_some (op := 0x147) rfl (by decide)
theorem flg2 f : Statement (.flg2 f) := of_some (op := 0x148) rfl (by decide)
theorem fsin f : Statement (.fsin f) := of_some (op := 0x149) rfl (by decide)
theorem fcos f : Statement (.fcos f) := of_some (op := 0x14A) rfl (by decide)
theorem ftanh f : Statement (.ftanh f) := of_some (op := 0x14B) rfl (by decide)
theorem quant f : Statement (.quant f) := of_some (op := 0x180) rfl (by decide)
theorem deq f : Statement (.deq f) := of_some (op := 0x181) rfl (by decide)
theorem plsplit f : Statement (.plsplit f) := of_some (op := 0x182) rfl (by decide)
theorem pljoin f : Statement (.pljoin f) := of_some (op := 0x183) rfl (by decide)
theorem mma f : Statement (.mma f) := of_some (op := 0x1C0) rfl (by decide)
theorem mloop f : Statement (.mloop f) := of_some (op := 0x1C1) rfl (by decide)
theorem mldf f : Statement (.mldf f) := of_some (op := 0x1C2) rfl (by decide)
theorem mstf f : Statement (.mstf f) := of_some (op := 0x1C3) rfl (by decide)
theorem mfmt f : Statement (.mfmt f) := of_some (op := 0x1C4) rfl (by decide)
theorem ld f : Statement (.ld f) := of_some (op := 0x200) rfl (by decide)
theorem st f : Statement (.st f) := of_some (op := 0x201) rfl (by decide)
theorem prefetch f : Statement (.prefetch f) := of_some (op := 0x202) rfl (by decide)
theorem cctl f : Statement (.cctl f) := of_some (op := 0x203) rfl (by decide)
theorem atom f : Statement (.atom f) := of_some (op := 0x240) rfl (by decide)
theorem atomf f : Statement (.atomf f) := of_some (op := 0x241) rfl (by decide)
theorem red f : Statement (.red f) := of_some (op := 0x242) rfl (by decide)
theorem fence f : Statement (.fence f) := of_some (op := 0x243) rfl (by decide)
theorem waitval f : Statement (.waitval f) := of_some (op := 0x244) rfl (by decide)
theorem cpy f : Statement (.cpy f) := of_some (op := 0x280) rfl (by decide)
theorem cpy2d f : Statement (.cpy2d f) := of_some (op := 0x281) rfl (by decide)
theorem publish f : Statement (.publish f) := of_some (op := 0x282) rfl (by decide)
theorem abinit f : Statement (.abinit f) := of_some (op := 0x283) rfl (by decide)
theorem abexp f : Statement (.abexp f) := of_some (op := 0x284) rfl (by decide)
theorem abarv f : Statement (.abarv f) := of_some (op := 0x285) rfl (by decide)
theorem abwait f : Statement (.abwait f) := of_some (op := 0x286) rfl (by decide)
theorem abtest f : Statement (.abtest f) := of_some (op := 0x287) rfl (by decide)
theorem tkwait f : Statement (.tkwait f) := of_some (op := 0x288) rfl (by decide)
theorem tktest f : Statement (.tktest f) := of_some (op := 0x289) rfl (by decide)
theorem tkcancel f : Statement (.tkcancel f) := of_some (op := 0x28A) rfl (by decide)
theorem tkget f : Statement (.tkget f) := of_some (op := 0x28B) rfl (by decide)
theorem tkset f : Statement (.tkset f) := of_some (op := 0x28C) rfl (by decide)
theorem board f : Statement (.board f) := of_some (op := 0x2C0) rfl (by decide)
theorem alight f : Statement (.alight f) := of_some (op := 0x2C1) rfl (by decide)
theorem catchTile f : Statement (.catchTile f) := of_some (op := 0x2C2) rfl (by decide)
theorem replace f : Statement (.replace f) := of_some (op := 0x2C3) rfl (by decide)
theorem lineq f : Statement (.lineq f) := of_some (op := 0x2C4) rfl (by decide)
theorem bar f : Statement (.bar f) := of_some (op := 0x300) rfl (by decide)
theorem barc f : Statement (.barc f) := of_some (op := 0x301) rfl (by decide)
theorem bard f : Statement (.bard f) := of_some (op := 0x302) rfl (by decide)
theorem pbar f : Statement (.pbar f) := of_some (op := 0x303) rfl (by decide)
theorem launch f : Statement (.launch f) := of_some (op := 0x304) rfl (by decide)
theorem trigger f : Statement (.trigger f) := of_some (op := 0x305) rfl (by decide)
theorem waitdep f : Statement (.waitdep f) := of_some (op := 0x306) rfl (by decide)
theorem step_ f : Statement (.step_ f) := of_some (op := 0x307) rfl (by decide)
theorem segq f : Statement (.segq f) := of_some (op := 0x308) rfl (by decide)
theorem ldAsof f : Statement (.ldAsof f) := of_some (op := 0x340) rfl (by decide)
theorem stStamp f : Statement (.stStamp f) := of_some (op := 0x341) rfl (by decide)
theorem stamp f : Statement (.stamp f) := of_some (op := 0x342) rfl (by decide)
theorem hnow f : Statement (.hnow f) := of_some (op := 0x343) rfl (by decide)
theorem hfloor f : Statement (.hfloor f) := of_some (op := 0x344) rfl (by decide)
theorem htrim f : Statement (.htrim f) := of_some (op := 0x345) rfl (by decide)
theorem sread f : Statement (.sread f) := of_some (op := 0x380) rfl (by decide)
theorem swrite f : Statement (.swrite f) := of_some (op := 0x381) rfl (by decide)
theorem tret f : Statement (.tret f) := of_some (op := 0x382) rfl (by decide)
theorem bkpt f : Statement (.bkpt f) := of_some (op := 0x383) rfl (by decide)
theorem evThreadRecordShip die core tid : Statement (.evThreadRecordShip die core tid) := of_none rfl
theorem evWarpFormation die core : Statement (.evWarpFormation die core) := of_none rfl
theorem evMatrixSliceStart die core sched : Statement (.evMatrixSliceStart die core sched) := of_none rfl
theorem evMloopStep wid : Statement (.evMloopStep wid) := of_none rfl
theorem evSchedulerIssue die core sched : Statement (.evSchedulerIssue die core sched) := of_none rfl
theorem evGlWritePerformed acc lane : Statement (.evGlWritePerformed acc lane) := of_none rfl
theorem evAccessReply acc : Statement (.evAccessReply acc) := of_none rfl
theorem evAsofReply acc : Statement (.evAsofReply acc) := of_none rfl
theorem evWaitvalWake wid entry : Statement (.evWaitvalWake wid entry) := of_none rfl
theorem evWaitvalLimit wid entry : Statement (.evWaitvalLimit wid entry) := of_none rfl
theorem evWaitvalReread wid entry lane : Statement (.evWaitvalReread wid entry lane) := of_none rfl
theorem evSleepExpiry wid entry : Statement (.evSleepExpiry wid entry) := of_none rfl
theorem evCopyEngineStart op : Statement (.evCopyEngineStart op) := of_none rfl
theorem evCopySectorDelivery op sector : Statement (.evCopySectorDelivery op sector) := of_none rfl
theorem evCopyEnd op : Statement (.evCopyEnd op) := of_none rfl
theorem evPublishSwap wid entry : Statement (.evPublishSwap wid entry) := of_none rfl
theorem evTicketResolve wid reg : Statement (.evTicketResolve wid reg) := of_none rfl
theorem evAbwaitWake wid entry : Statement (.evAbwaitWake wid entry) := of_none rfl
theorem evPbarRelease launch inst : Statement (.evPbarRelease launch inst) := of_none rfl
theorem evWaitdepRelease wid entry : Statement (.evWaitdepRelease wid entry) := of_none rfl
theorem evSlotAdvance : Statement (.evSlotAdvance) := of_none rfl
theorem evStationRequest op : Statement (.evStationRequest op) := of_none rfl
theorem evStationSourceRead op : Statement (.evStationSourceRead op) := of_none rfl
theorem evBoardPayloadWrite op : Statement (.evBoardPayloadWrite op) := of_none rfl
theorem evReplaceSwap op : Statement (.evReplaceSwap op) := of_none rfl
theorem evCatchDelivery op : Statement (.evCatchDelivery op) := of_none rfl
theorem evAlightRemoval op : Statement (.evAlightRemoval op) := of_none rfl
theorem evReboard slot : Statement (.evReboard slot) := of_none rfl
theorem evStationBridge die : Statement (.evStationBridge die) := of_none rfl
theorem evRegionCoachRemoval node : Statement (.evRegionCoachRemoval node) := of_none rfl
theorem evQueuePacketTake node queue : Statement (.evQueuePacketTake node queue) := of_none rfl
theorem evDeviceLaunchRead seq : Statement (.evDeviceLaunchRead seq) := of_none rfl
theorem evDeal launch : Statement (.evDeal launch) := of_none rfl
theorem evLaunchCompletion launch : Statement (.evLaunchCompletion launch) := of_none rfl
theorem evStepBoundary launch : Statement (.evStepBoundary launch) := of_none rfl
theorem evPreemptionHint launch lower : Statement (.evPreemptionHint launch lower) := of_none rfl
theorem evPreemptionRequest launches : Statement (.evPreemptionRequest launches) := of_none rfl
theorem evSaveComplete wg : Statement (.evSaveComplete wg) := of_none rfl
theorem evRestore wg die core : Statement (.evRestore wg die core) := of_none rfl
theorem evTranslationWalk die asid va kind : Statement (.evTranslationWalk die asid va kind) := of_none rfl
theorem evFaultServiceComplete asid va served : Statement (.evFaultServiceComplete asid va served) := of_none rfl
theorem evFirmwareDecision wid entry key resume : Statement (.evFirmwareDecision wid entry key resume) := of_none rfl
theorem evInvalidation scope : Statement (.evInvalidation scope) := of_none rfl
theorem evRegionUpdate node : Statement (.evRegionUpdate node) := of_none rfl
theorem evRegionAllocation node die units : Statement (.evRegionAllocation node die units) := of_none rfl
theorem evHistoryOwner asid va node : Statement (.evHistoryOwner asid va node) := of_none rfl
theorem evRootRegisterWrite asid value : Statement (.evRootRegisterWrite asid value) := of_none rfl
theorem evSampleRingWrite die value : Statement (.evSampleRingWrite die value) := of_none rfl
theorem evFabricWindowWrite window value : Statement (.evFabricWindowWrite window value) := of_none rfl
theorem evSvnRaise value : Statement (.evSvnRaise value) := of_none rfl
theorem evDieStateWrite die state : Statement (.evDieStateWrite die state) := of_none rfl
theorem evLoseCommand die : Statement (.evLoseCommand die) := of_none rfl
theorem evRegisterWrite reg value : Statement (.evRegisterWrite reg value) := of_none rfl
theorem evDieFatalError die why : Statement (.evDieFatalError die why) := of_none rfl
theorem evDieLost die pathServes : Statement (.evDieLost die pathServes) := of_none rfl
theorem evMempathFail die : Statement (.evMempathFail die) := of_none rfl
theorem evPageMove asid va dest : Statement (.evPageMove asid va dest) := of_none rfl
theorem evDieOffline die : Statement (.evDieOffline die) := of_none rfl
theorem evStationTick : Statement (.evStationTick) := of_none rfl
theorem evFrontierGather : Statement (.evFrontierGather) := of_none rfl
theorem evFrontierArrival die core : Statement (.evFrontierArrival die core) := of_none rfl
theorem evFloorInEffect index : Statement (.evFloorInEffect index) := of_none rfl
theorem evSubnetPowerUp die subnet : Statement (.evSubnetPowerUp die subnet) := of_none rfl
theorem evSubnetPowerDown die subnet : Statement (.evSubnetPowerDown die subnet) := of_none rfl
theorem evSample die core sched : Statement (.evSample die core sched) := of_none rfl
theorem evSampleDrain die cluster : Statement (.evSampleDrain die cluster) := of_none rfl
theorem evClusterPowerGate die cluster : Statement (.evClusterPowerGate die cluster) := of_none rfl
theorem evThermalEmergencyGate die cluster : Statement (.evThermalEmergencyGate die cluster) := of_none rfl
theorem evClusterUngate die cluster : Statement (.evClusterUngate die cluster) := of_none rfl
theorem evWrite p : Statement (.evWrite p) := of_none rfl
theorem evRead p : Statement (.evRead p) := of_none rfl
theorem evSubmit p : Statement (.evSubmit p) := of_none rfl
theorem evReadc p : Statement (.evReadc p) := of_none rfl
theorem evReadcMatch tag : Statement (.evReadcMatch tag) := of_none rfl
theorem evReadcTimeout tag : Statement (.evReadcTimeout tag) := of_none rfl
theorem evGrant p : Statement (.evGrant p) := of_none rfl
theorem evNegotiate p : Statement (.evNegotiate p) := of_none rfl
theorem evBoot p : Statement (.evBoot p) := of_none rfl
theorem evBootVerify : Statement (.evBootVerify) := of_none rfl
theorem evAttest p : Statement (.evAttest p) := of_none rfl
theorem evWindowAccessReply acc lane data : Statement (.evWindowAccessReply acc lane data) := of_none rfl
theorem evWindowTimeout acc lane : Statement (.evWindowTimeout acc lane) := of_none rfl
theorem evFabricPortDown port : Statement (.evFabricPortDown port) := of_none rfl
theorem evFrontDieReset : Statement (.evFrontDieReset) := of_none rfl
theorem evFabricRemoteRequest r : Statement (.evFabricRemoteRequest r) := of_none rfl
theorem evOperatingPointChange millivolts : Statement (.evOperatingPointChange millivolts) := of_none rfl
theorem evFirmwareAlight slot : Statement (.evFirmwareAlight slot) := of_none rfl

end Sys2Proof.Laws.OpcodeBits
end

