-- ==== Sys2Proof/Tests/Slice0.lean ====
section
/-! SUPPORT. Tests/Slice0.lean: the model's own tests: an ill-formed term for each check of the encoding, words of the spec decoded, one
step on a small state per test, and for each statement with hypotheses a concrete state that meets them. -/

namespace Sys2Proof.Tests

set_option Elab.async false
open Sys2Proof
open Sys2Proof.Machine

/-! ### WellFormed: each check refuses an ill-formed term at the bit of 02 R447 -/

/-- Every instruction of the list is refused, at the bit beside it. -/
def refused (l : List (Instr × Nat)) : Bool := l.all fun p => !p.1.wellFormed && encodingFault p.1 == some p.2

/-- Format V: an odd pair, a predicate or a plane group out of place, a field not used, a last-use bit without a register, TYPE, RND, SAT,
OPS, a reserved route mode, a fill bit without a route (02 R51 to R55). -/
theorem test_illformed_v : refused
    [(.iadd { dst := 3, sa := 2, sb := 4, ty := 4 }, 14), (.icmp { dst := 8, ty := 3 }, 17), (.quant { dst := 4, ty := 13, ops := 0xB }, 14),
     (.iabs { sb := 1, ty := 3 }, 38), (.fabs { sc := 4, ty := 11 }, 56), (.iabs { lu := 2, ty := 3 }, 71), (.bar { lu := 1 }, 70),
     (.bar { lu := 4 }, 72), (.fadd { ty := 3 }, 73), (.fadd { ty := 11, rnd := 5 }, 77), (.iadd { ty := 3, rnd := 2 }, 78),
     (.fadd { ty := 11, sat := true }, 80), (.iadd { ty := 3, ops := 8 }, 87), (.iadd { ty := 3, rta := 0xA0 }, 30),
     (.iadd { ty := 3, fill := 1 }, 81), (.iadd { ty := 3, rtb := 0xC0 }, 46), (.imad { ty := 3, rtc := 0xE0 }, 62),
     (.iadd { ty := 3, rtc := 0x20 }, 67), (.imad { ty := 3, fill := 4 }, 83), (.poll { dst := 16, ops := 0x800 }, 18)] = true := by
  decide +kernel

/-- Format V: what single instructions add to these checks. -/
theorem test_illformed_v_own : refused
    [(.fold { ty := 3, ops := 0x806 }, 84), (.fold { ty := 3, sat := true, ops := 0x801 }, 80), (.icmp { ty := 3, ops := 6 }, 84),
     (.fcmp { ty := 11, ops := 0xE }, 84), (.fcvt { ty := 11, ops := 3 }, 84), (.fcvt { ty := 11, ops := 0xB }, 73),
     (.fcvt { ty := 9, ops := 0x3B }, 88), (.fcvt { ty := 11, ops := 0x19 }, 73), (.fcvt { ty := 11, ops := 0x4C }, 84),
     (.icvt { ty := 11, ops := 0xB }, 84), (.fcvti { ty := 3, ops := 3 }, 84), (.quant { ty := 13, ops := 3 }, 84),
     (.quant { ty := 13, ops := 0x3B }, 88), (.quant { ty := 13, ops := 0x5B }, 88), (.deq { ty := 11, ops := 0xC }, 84),
     (.deq { ty := 11, ops := 0xD }, 91), (.deq { ty := 11, ops := 0xBD }, 88), (.deq { ty := 11, ops := 0xDD }, 88),
     (.plsplit { ty := 13, ops := 2 }, 84), (.pljoin { ty := 1, ops := 0x8C }, 84), (.pljoin { ty := 1, ops := 0xD }, 91),
     (.tret { pred := 2 }, 11), (.tret { pneg := true }, 13),
     (.nop { ty := 6 }, 74)] = true := by
  decide +kernel

/-- Formats I and B: unused bits of an immediate by type, a field that must be zero, the special registers (02 R56 to R61; 06 R161). -/
theorem test_illformed_i_b : refused
    [(.iaddI { dst := 1, sa := 2, ty := 4 }, 14), (.iaddI { ty := 3, ops := 0x10 }, 42), (.movi { ty := 3, lu := true }, 54),
     (.fcmpI { ty := 3 }, 55), (.faddI { ty := 11, rnd := 6 }, 59), (.andI { ty := 3, rnd := 4 }, 61), (.andI { ty := 3, sat := true }, 62),
     (.movi { ty := 1, imm := 0x80 }, 72), (.movi { ty := 5, imm := 0x300 }, 72), (.movi { ty := 9, imm := 0x10000 }, 80),
     (.movi { ty := 3, rta := 1 }, 30), (.iaddI { ty := 3, fill := true }, 63), (.icmpI { ty := 3, ops := 7 }, 38),
     (.bfeI { ty := 3, imm := 0x20000 }, 81), (.sleep { imm := 0x1000000 }, 88), (.sread { imm := 0x1011 }, 38),
     (.sread { imm := 0x1000 }, 76), (.sread { imm := 0x00F }, 64), (.sread { imm := 0x010, dst := 2, ty := 8 }, 38),
     (.swrite { imm := 0x001 }, 64), (.sread { imm := 0x019, dst := 2 }, 55), (.bra { lnk := 2 }, 15), (.call { lnk := 1 }, 14),
     (.bra { lulnk := true }, 28), (.bra { rsv := 2 }, 30), (.ret { tslot := 1 }, 22), (.brx { toff := 0x100 }, 72)] = true := by
  decide +kernel

/-- Format M: registers by width, marks, and the codes each instruction accepts (02 R59, R60; 08 R218, R223 to R228). -/
theorem test_illformed_m : refused
    [(.ld { dat := 1, width := 3, space := 3 }, 14), (.ld { dat := 2, width := 4 }, 14), (.ld { adr := 1, space := 3 }, 22),
     (.ld { ludat := true }, 30), (.fence { luadr := true, ord := 1, scope := 1 }, 31), (.ld { space := 5 }, 32), (.ld { scope := 7 }, 35),
     (.ld { ord := 2, scope := 1 }, 38), (.ld { width := 5 }, 40), (.st { sx := true }, 43), (.ld { hint := 4 }, 44), (.ld { lux := true }, 47),
     (.ld { aux := 2 }, 49), (.ld { space := 3, home := 3 }, 56), (.ld { home := 8 }, 59), (.ld { atop := 2 }, 61),
     (.fence { ord := 1, scope := 1, offs := 4 }, 66), (.ld { ord := 1 }, 35), (.ld { sx := true, width := 2 }, 43),
     (.atom { atop := 1, width := 2, sx := true }, 43), (.ld { space := 4, scope := 1, ord := 1 }, 35), (.waitval { width := 1 }, 40),
     (.hfloor { dat := 1, space := 3, width := 3 }, 14), (.atom { atop := 9, width := 2 }, 60)] = true := by
  decide +kernel

/-- Format X: tickets, quads, groups of eight, marks, OPS, and what single instructions add (02 R63; 07 R181, R182; 09; 18). -/
theorem test_illformed_x : refused
    [(.launch { dst := 16 }, 18), (.launch { xa := 1 }, 22), (.lineq { dst := 2 }, 14), (.mma { dst := 4, ops := 0x1006E }, 14),
     (.tkwait { xb := 1 }, 30), (.tkwait { xc := 2 }, 39), (.tkwait { xd := 4 }, 48), (.tkwait { xe := 8 }, 57), (.tkwait { cnt := 1 }, 62),
     (.tkwait { lu := 1 }, 70), (.tkwait { lu := 16 }, 74), (.tkwait { ops := 4 }, 77), (.mma { ops := 0x100003 }, 75),
     (.mma { dst := 32, xa := 64, xb := 80, xc := 32, xd := 96, ops := 0x100003 }, 75),
     (.mma { dst := 32, xa := 64, xb := 80, xc := 32, xd := 96, ops := 0x100002 }, 75),
     (.mma { dst := 32, xa := 64, xb := 80, xc := 40, xd := 96, ops := 0x100000 }, 14),
     (.mloop { dst := 32, xa := 64, xb := 80, xc := 100, xd := 96, ops := 0x100000 }, 62),
     (.mldf { dst := 32, xa := 1, ops := 0x100060 }, 80), (.mldf { dst := 32, xa := 33, ops := 0x100000 }, 14),
     (.mfmt { cnt := 129 }, 62), (.mfmt { ops := 0x10 }, 79), (.mfmt { ops := 0xC }, 77), (.cpy { ops := 0x100000 }, 93),
     (.cpy { ops := 0x4000 }, 87), (.cpy { xd := 4, ops := 0x800 }, 86), (.cpy { ops := 0x600 }, 84), (.publish {}, 75),
     (.abinit { ops := 0x180000 }, 94), (.catchTile { ops := 0x180000 }, 94), (.segq { xa := 1, ops := 1 }, 22)] = true := by
  decide +kernel

/-! ### Words of the spec decode to what they stand for, one or more of each class -/

/-- Each word, as the spec writes its bits, decodes to the instruction beside it. -/
def decodesTo (l : List (Nat × Instr)) : Bool := l.all fun p => decodeTableWord 96 p.1 == some p.2

/-- Classes 0x0 to 0x7: a guarded and a backward bra (04 R101), poll.mask (10 Table 10-2), icmp (04 Table 4-8), mov with a broadcast
(21), and.n32 v3, v1, v2 from Tables 2-2 and 2-11, fadd (02 Table 2-12), fcvti.i32.f32 v3, v1 with RUP from Tables 2-2 to 2-4, quant
(05 Table 5-10), mma (07 Table 7-6). -/
theorem test_words_low : decodesTo
    [(0x000000010000000106C00401, .bra { pred := 1, tslot := 3, jslot := 3, joff := 1, toff := 1 }),
     (0x000000030000000102000801, .bra { pred := 2, jslot := 1, joff := 1, toff := 3 }),
     (0xFFFFFFFF0000000000C00001, .bra { tslot := 3, toff := 0xFFFFFFFF }),
     (0x80200000000000000104C040, .poll { dst := 19, sa := 4, ops := 0x802 }),
     (0x0000000003C00000000040AC, .icmpI { dst := 1, lu := true, ty := 7 }),
     (0x00000000000000104C10408E, .mov { dst := 65, sa := 48, rta := 0x41 }),
     (0x00000E00000000800040C0C0, .and_ { dst := 3, sa := 1, sb := 2, ty := 7 }),
     (0x00001600001A020002020100, .fadd { dst := 8, sa := 8, sb := 8, rtb := 0x68, ty := 11 }),
     (0x00B04600000000000040C142, .fcvti { dst := 3, sa := 1, ty := 3, rnd := 2, ops := 0xB }),
     (0x01B01A400000000001040180, .quant { dst := 16, sa := 4, lu := 1, ty := 13, ops := 0x1B }),
     (0x800372C000181008041001C0, .mma { dst := 64, xa := 16, xb := 32, xc := 64, xd := 96, lu := 0xB, ops := 0x10006E })] = true := by
  decide +kernel

/-- Classes 0x8 to 0xE: ld (08 Table 8-7), atom.add.gl.n32 v6, [v2] from Tables 2-7 and 2-8, cpy (09 Table 9-2), catch (18 R383), barc
(11 R269), bard (13 R301), pbar (14 R338), launch (14 R335), segq (11 R288), ld.asof (16 Table 16-6), st.stamp and htrim (17), stamp and
hnow (16 R372), sread (06 R162). -/
theorem test_words_high : decodesTo
    [(0x000000100000026B00818200, .ld { dat := 6, adr := 2, space := 3, scope := 5, ord := 1, width := 2, offs := 16 }),
     (0x000000001000020300818240, .atom { dat := 6, adr := 2, space := 3, width := 2, atop := 1 }),
     (0x0C0000000006874107000680, .cpy { pred := 1, xa := 28, xb := 4, xc := 29, xd := 26, ops := 0x18000 }),
     (0x000000000000068247001EC2, .catchTile { pred := 7, xa := 28, xb := 9, xc := 26 }),
     (0x000000000000000000014301, .barc { dst := 5 }), (0x001000000000000000018302, .bard { dst := 6, ops := 1 }),
     (0x002000000000000000010303, .pbar { dst := 4, ops := 2 }), (0x00000000000000000200C304, .launch { dst := 3, xa := 8 }),
     (0x000000000000000002410308, .segq { dst := 4, xa := 9 }),
     (0x0000000A0008010300818340, .ldAsof { dat := 6, adr := 2, space := 3, width := 1, aux := 8, offs := 10 }),
     (0x00000000000C04AB00820341, .stStamp { dat := 8, adr := 2, space := 3, scope := 5, ord := 2, width := 4, aux := 12 }),
     (0x000000000000000000010342, .stamp { dst := 4 }), (0x000000000000000000010343, .hnow { dst := 4 }),
     (0x000000000000000004048345, .htrim { dst := 18, xa := 16 }), (0x0000001A0400000000008380, .sread { dst := 2, ty := 8, imm := 0x1A }),
     (0x000000100400004000408380, .sread { dst := 2, sa := 1, ty := 8, ops := 1, imm := 0x10 })] = true := by
  decide +kernel

/-! ### One instruction on one warp -/

/-- The state in which a warp of 32 lanes issues next, its words, its launch and region (log 15). -/
def base : State := State.reset.withFetchWord 96 0

/-- Its warp, launch and workgroup. -/
def warp0 : Warp := base.warps.headD (freshWarp 0 0 0 0 0 0 0 0 0 0 0 0)
def launch0 : Launch := base.launches.headD { id := 0, node := 0, source := 0, seq := 0 }
def wg0 : Workgroup := base.wgs.headD { uid := 0, launch := 0, index := 0, consist := 0, member := 0, die := 0, core := 0, logical := 0,
                                        nwarps := 0, threads := 0, nreg := 0, sharedBytes := 0 }

/-- The instruction at the issue stage. -/
def issue0 (i : Instr) : Issue := { warp := warp0.uid, entry := 0, pc := BitVec.ofNat 64 wordLine, instr := i, second := none }

/-- The instruction at the issue stage of `base`, its warp `w`. -/
def withWarp (w : Warp) (i : Instr) : State := { base with warps := [w], issue := some (issue0 i) }

/-- `warp0` with registers set, the same value in every lane. -/
def regs (l : List (Nat × Word)) : Warp := { warp0 with regs := l.foldl (fun r p => r.set p.1 (.u p.2)) warp0.regs }

/-- `warp0` with one register of 32 values. -/
def vector (n : Nat) (l : List Word) : Warp := { warp0 with regs := warp0.regs.set n (.g l) }

/-- The warp after one instruction. -/
def after (w : Warp) (i : Instr) : Warp :=
  match exec i (withWarp w i) with
  | .next t => (t.warp? warp0.uid).getD warp0
  | _ => warp0

/-- Register `n` of lane 0 after one instruction on registers `l`. -/
def gives (l : List (Nat × Word)) (i : Instr) (n : Nat) : Word := (after (regs l) i).lane n 0

/-- 03 R74's example: 100 + 50 as i8, saturated and not. -/
theorem test_iadd_sat : gives [(1, 100), (2, 50)] (.iadd { dst := 3, sa := 1, sb := 2, ty := 1, sat := true }) 3 = 0x7F ∧
    gives [(1, 100), (2, 50)] (.iadd { dst := 3, sa := 1, sb := 2, ty := 1 }) 3 = 0xFFFFFF96 := by decide +kernel
/-- The source may be the destination; the immediate is the second operand (04 R109). -/
theorem test_isubI : gives [(1, 3)] (.isubI { dst := 1, sa := 1, ty := 3, imm := 5 }) 1 = 0xFFFFFFFE := by decide +kernel
/-- High half of −1 × 2 (04 R109). -/
theorem test_imulh : gives [(1, 0xFFFFFFFF), (2, 2)] (.imulh { dst := 3, sa := 1, sb := 2, ty := 3 }) 3 = 0xFFFFFFFF ∧
    gives [(1, 0xFFFFFFFF), (2, 2)] (.imulh { dst := 3, sa := 1, sb := 2, ty := 7 }) 3 = 1 := by decide +kernel
/-- −2^31 / −1 with and without .sat (04 R109). -/
theorem test_idiv_corner : gives [(1, 0x80000000), (2, 0xFFFFFFFF)] (.idiv { dst := 3, sa := 1, sb := 2, ty := 3 }) 3 = 0x80000000 ∧
    gives [(1, 0x80000000), (2, 0xFFFFFFFF)] (.idiv { dst := 3, sa := 1, sb := 2, ty := 3, sat := true }) 3 = 0x7FFFFFFF := by
  decide +kernel
/-- irem takes the sign of the dividend (04 R109). -/
theorem test_irem : gives [(1, 0xFFFFFFF9), (2, 3)] (.irem { dst := 3, sa := 1, sb := 2, ty := 3 }) 3 = 0xFFFFFFFF := by decide +kernel
/-- imadw of 32-bit sources into a pair (04 R110). -/
theorem test_imadw : gives [(2, 0xFFFFFFFF), (3, 2), (4, 1)] (.imadw { dst := 6, sa := 2, sb := 3, sc := 4, ty := 7 }) 7 = 1 := by decide +kernel
/-- icmp.lt.i32 and .n32 of −1 and 0 (04 R112); the p0 write is discarded (01 R36). -/
theorem test_icmp : (after (regs [(1, 0xFFFFFFFF), (2, 0)]) (.icmp { dst := 1, sa := 1, sb := 2, ty := 3, ops := 2 })).pred 1 5 = true ∧
    (after (regs [(1, 0xFFFFFFFF), (2, 0)]) (.icmp { dst := 1, sa := 1, sb := 2, ty := 7, ops := 2 })).pred 1 5 = false := by decide +kernel
/-- A last-use mark under a full mask makes the source D (04 Table 4-8; 01 R35). -/
theorem test_last_use : (after (regs [(0, 7)]) (.icmpI { dst := 1, lu := true, ty := 7 })).reg 0 = .d := by decide +kernel
/-- lea adds its line's address and the displacement (04 R115). -/
theorem test_lea : gives [] (.lea { dst := 2, imm := 0xFFFFFFFF }) 2 = 0xFFFF ∧ gives [] (.lea { dst := 2, imm := 64 }) 2 = 0x10040 := by
  decide +kernel
/-- Shifts of the width and more (04 R117). -/
theorem test_shifts : gives [(1, 0x80000001), (2, 32)] (.shl { dst := 3, sa := 1, sb := 2, ty := 7 }) 3 = 0 ∧
    gives [(1, 0x80000001), (2, 40)] (.sar { dst := 3, sa := 1, sb := 2, ty := 7 }) 3 = 0xFFFFFFFF := by decide +kernel
/-- rol by 33 rotates by 1; ror by 0 (04 R117). -/
theorem test_rotates : gives [(1, 0x80000001), (2, 33)] (.rol { dst := 3, sa := 1, sb := 2, ty := 7 }) 3 = 3 ∧
    gives [(1, 0x80000001), (2, 0)] (.ror { dst := 3, sa := 1, sb := 2, ty := 7 }) 3 = 0x80000001 := by decide +kernel
/-- clz and ctz of 0 are the width; clz of a pair writes one register (04 R118). -/
theorem test_counts : gives [(2, 0)] (.clz { dst := 3, sa := 2, ty := 7 }) 3 = 32 ∧
    gives [(2, 1), (3, 0)] (.clz { dst := 5, sa := 2, ty := 8 }) 5 = 63 := by decide +kernel
/-- bfe of bits [7:4] sign-extended; bfi keeps the bits outside the field (04 R119). -/
theorem test_fields : gives [(1, 0xF5), (2, 0x0404)] (.bfe { dst := 3, sa := 1, sb := 2, ty := 3 }) 3 = 0xFFFFFFFF ∧
    gives [(1, 0x2), (2, 0x0404), (3, 0xFFFF)] (.bfi { dst := 3, sa := 1, sb := 2, ty := 7 }) 3 = 0xFF2F := by decide +kernel
/-- prmb: byte 3, a zero byte, and byte 0's sign in every bit (04 R120). -/
theorem test_prmb : gives [(1, 0x44332291), (2, 0x4833)] (.prmb { dst := 3, sa := 1, sb := 2 }) 3 = 0xFF004444 := by decide +kernel
/-- Table 0xE8 is the majority of the three predicates: here 0, 0 and p0 (04 R107). -/
theorem test_pcomb : (after warp0 (.pcomb { dst := 3, sa := 1, sb := 2, sc := 0, ops := 0xE8 })).pred 3 9 = false ∧
    (after warp0 (.pcomb { dst := 3, sa := 1, sb := 0, sc := 0, ops := 0xE8 })).pred 3 9 = true := by decide +kernel
/-- Table 5-1: −0 against +0, and a NaN against 1.0. -/
theorem test_fmin : gives [(1, 0x80000000), (2, 0)] (.fmin { dst := 3, sa := 2, sb := 1, ty := 11 }) 3 = 0x80000000 ∧
    gives [(1, 0x3F800000), (2, 0x7F800001)] (.fmin { dst := 3, sa := 1, sb := 2, ty := 11 }) 3 = 0x7FC00000 := by decide +kernel
theorem test_fmaxn : gives [(1, 0x3F800000), (2, 0x7F800001)] (.fmaxn { dst := 3, sa := 1, sb := 2, ty := 11 }) 3 = 0x3F800000 := by
  decide +kernel
/-- 1 + 2^−24 ties to even, and goes up under RUP; x − x is −0 under RDN (05 R126; 03 R78). -/
theorem test_fadd : gives [(1, 0x3F800000), (2, 0x33800000)] (.fadd { dst := 3, sa := 1, sb := 2, ty := 11 }) 3 = 0x3F800000 ∧
    gives [(1, 0x3F800000), (2, 0x33800000)] (.fadd { dst := 3, sa := 1, sb := 2, ty := 11, rnd := 2 }) 3 = 0x3F800001 := by decide +kernel
theorem test_fsub_zero : gives [(1, 0x3F800000)] (.fsub { dst := 3, sa := 1, sb := 1, ty := 11, rnd := 3 }) 3 = 0x80000000 := by
  decide +kernel
/-- fneg flips the sign of a NaN alone (05 R128). -/
theorem test_fneg : gives [(1, 0x7F800001)] (.fneg { dst := 3, sa := 1, ty := 11 }) 3 = 0xFF800001 := by decide +kernel
/-- fcmp.ltu of a NaN is 1, fcmp.lt 0 (05 Table 5-2). -/
theorem test_fcmp : (after (regs [(1, 0x7FC00000)]) (.fcmp { dst := 2, sa := 1, sb := 1, ty := 11, ops := 10 })).pred 2 0 = true ∧
    (after (regs [(1, 0x7FC00000)]) (.fcmp { dst := 2, sa := 1, sb := 1, ty := 11, ops := 2 })).pred 2 0 = false := by decide +kernel
/-- icvt.f32.n32 of 16,777,217 under RNE and RUP. -/
theorem test_icvt : gives [(1, 16777217)] (.icvt { dst := 3, sa := 1, ty := 11, ops := 7 }) 3 = 0x4B800000 ∧
    gives [(1, 16777217)] (.icvt { dst := 3, sa := 1, ty := 11, rnd := 2, ops := 7 }) 3 = 0x4B800001 := by decide +kernel
/-- fcvti.i32.f32 of −2.5 under RNE and RNA. -/
theorem test_fcvti : gives [(1, 0xC0200000)] (.fcvti { dst := 3, sa := 1, ty := 3, ops := 11 }) 3 = 0xFFFFFFFE ∧
    gives [(1, 0xC0200000)] (.fcvti { dst := 3, sa := 1, ty := 3, rnd := 4, ops := 11 }) 3 = 0xFFFFFFFD := by decide +kernel
/-- sqrt(2) and 1/3 in f32, correctly rounded (IEEE 754). -/
theorem test_fsqrt : gives [(1, 0x40000000)] (.fsqrt { dst := 3, sa := 1, ty := 11 }) 3 = 0x3FB504F3 := by decide +kernel
theorem test_fdiv : gives [(1, 0x3F800000), (2, 0x40400000)] (.fdiv { dst := 3, sa := 1, sb := 2, ty := 11 }) 3 = 0x3EAAAAAB := by decide +kernel
/-- The worked quant of Table 5-9: lanes 3.99, −0.75, 0.01, 1.0 and zeros. -/
def quantWarp : Warp := after (vector 4 ([0x407F5C29, 0xBF400000, 0x3C23D70A, 0x3F800000] ++ List.replicate 28 0))
  (.quant { dst := 16, sa := 4, lu := 1, ty := 13, ops := 0x1B })
theorem test_quant : (List.range 9).map (fun k => quantWarp.reg (16 + k)) =
    [.u 2, .u 3, .u 0xB, .u 1, .u 3, .u 1, .u 1, .u 1, .u 0x80] ∧ quantWarp.reg 4 = .d := by decide +kernel
/-- Its deq at 4 planes and pljoin at 8 planes: lane 1 gives −1.0 and −24. -/
theorem test_deq : (after quantWarp (.deq { dst := 30, sa := 16, sb := 24, ty := 11, ops := 0x1D + 0x180 })).lane 30 1 = 0xBF800000 ∧
    (after quantWarp (.pljoin { dst := 31, sa := 16, ty := 1, ops := 0xD + 0x380 })).lane 31 1 = 0xFFFFFFE8 := by decide +kernel
/-- A route by butterfly reads lane i XOR 8 (01 Table 1-8). -/
theorem test_route : (after (vector 8 ((List.range 32).map (BitVec.ofNat 32 ·))) (.mov { dst := 9, sa := 8, rta := 0x68 })).lane 9 3 = 11 := by decide +kernel
/-- A negated guard leaves the other lanes and makes the tag G (01 R34, R36). -/
def halfWarp : Warp := { regs [(1, 5), (3, 9)] with preds := warp0.preds.set 0 0xFFFF0000 }
theorem test_partial : (after halfWarp (.mov { pred := 1, pneg := true, dst := 3, sa := 1 })).lane 3 0 = 5 ∧
    (after halfWarp (.mov { pred := 1, pneg := true, dst := 3, sa := 1 })).lane 3 16 = 9 := by decide +kernel
/-- swrite of sr.ssp keeps bits [31:8] (06 Table 6-4). -/
theorem test_swrite_ssp : (after (regs [(1, 0x12345678)]) (.swrite { sa := 1, imm := 0x20 })).ssp = 0x12345600 := by decide +kernel

/-! ### Operations against the spec's worked examples -/

/-- Table 16-3: a slice at 1,003 writes at tick 1,000 with carried clock 990. -/
theorem test_write_stamp : (({ State.reset with tick := 1000, sliceClock := [(sliceOf 0, 1003)] } : State).performWrite 0 [1] 990).2 = 1004 := by
  decide +kernel
/-- 08 Table 8-5: a release by core 4 reaches an acquire by core 9 of its die at .die, not at .wg nor at .clu. -/
theorem test_message_passing : (let t0 (sc : Scope) : Party := { thread := 1, warp := 1, wg := 1, die := 0, core := 4, scope := sc }
    let t1 (sc : Scope) : Party := { thread := 2, warp := 2, wg := 2, die := 0, core := 9, scope := sc }
    [Scope.die, .wg, .clu].map fun sc => ({ who := t0 sc, stamp := 9 } : Sync).reaches (t1 sc)) = [true, false, false] := by decide
/-- A word that another thread has written, as its act number 5, with a scope that does not reach the reader. -/
def freshWord : State :=
  ((({ State.reset with tick := 1000 } : State).performWrite 0 [7, 0, 0, 0] 990).1).signed
    { who := some { thread := 9, warp := 9, wg := 9, die := 0, core := 9, scope := .wg }, number := 5, acked := true } 0 []
/-- 08 R212, 16 R355: a load at .die may return the older word where nothing orders the write before it; one at .dev may not, nor one
whose thread has come to lie after the write in happens-before. -/
theorem test_stale_load : (let p (sc : Scope) : Party := { thread := 1, warp := 1, wg := 1, die := 0, core := 4, scope := sc }
    (undo 0 (freshWord.read 0 4) (freshWord.mayMiss (p .die, []) 1000 0 4) = [0, 0, 0, 0]) ∧ freshWord.read 0 4 = [7, 0, 0, 0] ∧
    freshWord.mayMiss (p .dev, []) 1000 0 4 = [] ∧ freshWord.mayMiss (p .die, [(9, 6)]) 1000 0 4 = []) := by decide +kernel
/-- 14 R326: the id of queue 2's launch 5 of node 17. -/
theorem test_launch_id : launchId 17 2 5 = 0x0111000000000005 := by decide +kernel
/-- 09 R242: a 128-byte source of four kinds of sector is a chunk of 53 bytes with BODY 37. -/
theorem test_chunk : let c := encodeChunk (List.replicate 32 0 ++ List.replicate 64 0x7F ++ (List.range 32).map (BitVec.ofNat 8 ·))
    c.length = 53 ∧ c.take 4 = leBytes 4 128 ∧ (c.drop 8).take 4 = leBytes 4 37 ∧ (c.drop 16).take 4 = [0, 3, 0x7F, 2] := by decide +kernel
/-- Table 13-7: the walk of VA 0x0001_0100_C080_5678. -/
def walkState : State :=
  ((((({ State.reset with roots := [(1, 0x400001)] } : State).write 0x400008 (leBytes 8 0x410001)).write 0x410010 (leBytes 8 0x420001)).write
    0x420018 (leBytes 8 0x430001)).write 0x430020 (leBytes 8 0x000100024000000F))
theorem test_walk : walkState.walk 1 0x00010100C0805678 = .leaf 3 0x430020 0x000100024000000F ∧
    leafPa 0x000100024000000F 3 0x00010100C0805678 = 0x0001000240005678 := by decide +kernel
/-- 13 R300: a die whose only fused core is 5. -/
theorem test_logical_order : (({ State.reset with dies := [{ harvest := 0xFFFFFFFDF }] } : State).logicalOrder 0).take 13 =
    [0, 4, 8, 12, 16, 20, 24, 28, 32, 1, 6, 9, 13] := by decide +kernel
/-- 20 Table 20-5: the header of the SUBMIT with TAG 0x31 to region 17's queue 2, and the packet of those bytes. -/
theorem test_packet_bytes : let p : Packet := { op := 3, tag := 0x31, region := 17, arg1 := 2 }
    ((Packet.bytes p).take 8 = [3, 0, 0x31, 0, 0x11, 0, 0, 0]) ∧ ((Packet.bytes p).drop 24).take 8 = [2, 0, 0, 0, 1, 0, 0, 0] ∧ (Packet.bytes p).length = 256 ∧
      packetOf (Packet.bytes p) = p := by decide +kernel
/-- yield with a guard that is off in half the lanes and no other group takes them all to the next slot (04 R98). -/
theorem test_yield : ((after halfWarp (.yield { pred := 1 })).entry 0).pc = BitVec.ofNat 64 (wordLine + 1) ∧
    ((after halfWarp (.yield { pred := 1 })).entry 0).mask = 0xFFFFFFFF := by decide +kernel
/-- From reset with a word placed, a step runs it: iadd.n32 v3, v1, 7 of D registers gives 7, and the PC is the next slot. -/
theorem test_step : (match step (State.reset.withFetchWord 96 (((encode (.iaddI { dst := 3, sa := 1, ty := 7, imm := 7 })).getD 0).toNat)) with
    | .next t => (t.warps.map fun w => (w.lane 3 0, (w.entry 0).pc))
    | _ => []) = [(7, BitVec.ofNat 64 wordLine + 1)] := by decide +kernel

/-! ### States that meet the hypotheses of the statements -/

/-- The conditions of `IssuesTo`, computed. -/
def issuesB (s : State) (g : Nat × Bool) (c : Ctx) (pc : PC) : Bool :=
  s.ctx? g == some c && c.second.isNone && (c.w.entry c.e).st == .run && c.run != 0 && decide (c.e < c.w.entries.length)
    && (readyGroups (c.w.entry c.e).siding == []) && (c.w.entry c.e).j != some pc && (List.range 8).all (fun e => !c.w.canFuse e)
    && (s.leaving c.l c.w [(pc, c.run)] == [])

theorem issuesTo_of {s : State} {g : Nat × Bool} {c : Ctx} {pc : PC} (h : issuesB s g c pc = true) : s.IssuesTo g c pc := by
  simp only [issuesB, Bool.and_eq_true, beq_iff_eq, bne_iff_ne, ne_eq, decide_eq_true_eq, List.all_eq_true, List.mem_range,
    Bool.not_eq_true', Option.isNone_iff_eq_none] at h
  obtain ⟨⟨⟨⟨⟨⟨⟨⟨h1, h2⟩, h3⟩, h4⟩, h5⟩, h6⟩, h7⟩, h8⟩, h9⟩ := h
  exact ⟨h1, h2, h3, h4, h5, h6, h7, h8, h9⟩

/-- No split of any warp waits in a waitval, computed. -/
def noReadersB (s : State) : Bool := s.warps.all fun w => w.entries.all fun x => match x.wait with
  | .value _ => false
  | _ => true

theorem noReaders_of {s : State} (h : noReadersB s = true) : s.noReaders := by
  intro w hw x hx v hv
  simp only [noReadersB, List.all_eq_true] at h
  have := h w hw x hx
  rw [hv] at this
  exact absurd this (by simp)

/-- No split of any warp waits in an abwait for a flip, computed. -/
def noFlipsB (s : State) : Bool := s.warps.all fun w => w.entries.all fun x => match x.wait with
  | .phase .. => false
  | _ => true

theorem noFlips_of {s : State} (h : noFlipsB s = true) : s.noFlipWaits := by
  intro w hw x hx k a sp p e m y hv
  simp only [noFlipsB, List.all_eq_true] at h
  have := h w hw x hx
  rw [hv] at this
  exact absurd this (by simp)

theorem holds_of {c : Ctx} {dst : Nat} {wide : Bool} (h : (dstRegs dst wide).all (fun n => decide (n < c.w.regs.length)) = true) :
    c.holds dst wide := by
  simpa [Ctx.holds, List.all_eq_true] using h

/-- The context of an unguarded instruction of a warp. -/
def ctx0 (w : Warp) : Ctx :=
  { w := w, l := launch0, g := wg0, e := 0, pc := BitVec.ofNat 64 wordLine, run := (w.entry 0).mask, eff := (w.entry 0).mask, second := none }

/-- What a register instruction's statement asks: it issues, its result's registers exist, none of its operands is a dead read. -/
def Meets (w : Warp) (i : Instr) (dst : Nat) (wide : Bool) (srcs : List Nat) : Prop :=
  (withWarp w i).Issues (0, false) (ctx0 w) ∧ (ctx0 w).holds dst wide ∧ (ctx0 w).deadRead srcs = none

theorem meets_of {w : Warp} {i : Instr} {dst : Nat} {wide : Bool} {srcs : List Nat}
    (h : (issuesB (withWarp w i) (0, false) (ctx0 w) (nextSlot (ctx0 w).pc) &&
      (dstRegs dst wide).all (fun n => decide (n < (ctx0 w).w.regs.length)) && (ctx0 w).deadRead srcs == none) = true) :
    Meets w i dst wide srcs := by
  simp only [Bool.and_eq_true, beq_iff_eq] at h
  exact ⟨issuesTo_of h.1.1, holds_of h.1.2, h.2⟩

/-- The same for a predicate. -/
def MeetsPred (w : Warp) (i : Instr) (pd : Nat) (srcs : List Nat) : Prop :=
  (withWarp w i).Issues (0, false) (ctx0 w) ∧ pd < 8 ∧ w.preds.length = 7 ∧ (ctx0 w).deadRead srcs = none

theorem meetsPred_of {w : Warp} {i : Instr} {pd : Nat} {srcs : List Nat}
    (h : (issuesB (withWarp w i) (0, false) (ctx0 w) (nextSlot (ctx0 w).pc) && decide (pd < 8) && decide (w.preds.length = 7)
      && (ctx0 w).deadRead srcs == none) = true) : MeetsPred w i pd srcs := by
  simp only [Bool.and_eq_true, beq_iff_eq, decide_eq_true_eq] at h
  exact ⟨issuesTo_of h.1.1.1, h.1.1.2, h.1.2, h.2⟩

theorem meets_DecodeEncode : ∃ (i : Instr) (w : Slot96), i.wellFormed = true ∧ encode i = some w ∧ decode w = .ok i :=
  ⟨.fadd { dst := 8, sa := 8, sb := 8, rtb := 0x68, ty := 11 }, 0x00001600001A020002020100, by decide +kernel⟩

/-- `base` with iadd.n32 v3, v1, 7 as its word, and the line of its fetch. -/
def wordState : State := State.reset.withFetchWord 96 ((encode (.iaddI { dst := 3, sa := 1, ty := 7, imm := 7 })).getD 0).toNat
def fetched : State × Fetched := wordState.fetchLine warp0 (wordState.asidOf warp0) 0 (warp0.entry 0).pc
def line0 : Nat := match fetched.2 with
  | .line n => n
  | _ => 0

theorem meets_StepRunsTheInstruction_fetch : let pc := (warp0.entry 0).pc
    wordState.issue = none ∧ wordState.agenda = [] ∧ wordState.turn ≠ 0 ∧ wordState.nextScheduler = some 0 ∧
    wordState.choose 0 = some (warp0, 0) ∧
    wordState.launch? warp0.launch = some launch0 ∧ wordState.wg? warp0.wg = some wg0 ∧
    wordState.fetchLine warp0 (wordState.asidOf warp0) 0 pc = (fetched.1, .line line0) ∧
    bitsOf (lineWord line0) 9 7 = 0 ∧ (bitsOf (lineWord line0) 5 4).testBit (pc.toNat % 8) = false ∧
    overlapAt (bitsOf (lineWord line0) 5 4) (pc.toNat % 8) = none ∧
    decode (lineSlot line0 (pc.toNat % 8)) = .ok (.iaddI { dst := 3, sa := 1, ty := 7, imm := 7 }) ∧
    (uses (.iaddI { dst := 3, sa := 1, ty := 7, imm := 7 })).beyond warp0.nreg = none ∧ launch0.packet.travel = false := by decide +kernel

/-- A pair's second at the issue stage, an event in the agenda, and a first with its second. -/
theorem meets_StepRunsTheInstruction_second : (withWarp warp0 (.nop {})).issue = some (issue0 (.nop {})) ∧
    ((withWarp warp0 (.nop {})).ctx? (Instr.nop {}).guard).isSome = true ∧ (issue0 (.nop {})).marked = [] ∧
    ({ base with agenda := [.evStationTick] } : State).agenda = .evStationTick :: [] ∧ base.issue = none ∧
    ({ ctx0 warp0 with second := some (.nop {}) } : Ctx).second = some (.nop {}) := by decide +kernel

/-- A step answers a next state. -/
def goesOn (s : State) : Bool := match step s with
  | .next _ => true
  | _ => false
theorem goesOn_iff {s : State} (h : goesOn s = true) : ∃ t, step s = .next t := by
  unfold goesOn at h
  split at h
  · exact ⟨_, by assumption⟩
  · simp at h

theorem meets_StepKeepsMemory : wordState.memWf ∧ wordState.mem ≠ [] ∧ ∃ t, step wordState = .next t :=
  ⟨by unfold State.memWf; decide +kernel, by decide +kernel, goesOn_iff (by decide +kernel)⟩

/-- Firmware at version 3 with the fuse at 1, about to raise it to 2. -/
def svnState : State := { State.reset with boot := .firmware, svn := 3, fusedSvn := 1, agenda := [.evSvnRaise 2] }
theorem meets_SecurityCounter : (match step svnState with
    | .next t => t.fusedSvn
    | _ => 0) = 2 ∧ ∃ t, step svnState = .next t := ⟨by decide +kernel, goesOn_iff (by decide +kernel)⟩

/-- Registers 1, 2, 4, 6 and 7 hold values; the destinations at the end of the file are registers too. -/
def numbers : Warp := regs [(1, 7), (2, 0xFFFFFFFE), (4, 3), (5, 0), (6, 9), (7, 0)]

theorem meets_IntegerArithmetic :
    Meets numbers (.iadd { dst := 255, sa := 1, sb := 2, ty := 3 }) 255 false [1, 2] ∧
    Meets numbers (.imulI { dst := 254, sa := 4, ty := 4, imm := 9 }) 254 true [4, 5] ∧
    Meets numbers (.imad { dst := 0, sa := 1, sb := 2, sc := 4, ty := 3 }) 0 false [1, 2, 4] ∧
    Meets numbers (.imadw { dst := 254, sa := 1, sb := 2, sc := 6, ty := 3 }) 254 true [1, 2, 6, 7] ∧
    Meets numbers (.ineg { dst := 9, sa := 1, ty := 3 }) 9 false [1] :=
  ⟨meets_of (by decide +kernel), meets_of (by decide +kernel), meets_of (by decide +kernel), meets_of (by decide +kernel),
    meets_of (by decide +kernel)⟩

/-- No effective lane divides by zero; every one does, lane 31 too, by a register and by an immediate. -/
theorem meets_IntegerDivision : (let f : FormV := { dst := 9, sa := 1, sb := 2, ty := 3 }
      Meets numbers (.idiv f) 9 false [1, 2] ∧
      ∀ k, k < 32 → (ctx0 numbers).eff.getLsbD k = true → f.type.read ((f.b f.type.wide).val (ctx0 numbers) k) ≠ 0) ∧
    (let f : FormV := { dst := 9, sa := 1, sb := 5, ty := 3 }; let c := ctx0 numbers
      (withWarp numbers (.idiv f)).ctx? f.guard = some c ∧ c.deadRead ((f.a f.type.wide).regs ++ (f.b f.type.wide).regs) = none ∧
      c.eff.getLsbD 31 = true ∧ f.type.read ((f.b f.type.wide).val c 31) = 0) ∧
    (let g : FormI := { dst := 9, sa := 1, ty := 3, imm := 2 };
      Meets numbers (.iremI g) 9 false [1] ∧ g.type.read g.immVal ≠ 0) ∧
    (let g : FormI := { dst := 9, sa := 1, ty := 3 }; let c := ctx0 numbers
      (withWarp numbers (.idivI g)).ctx? g.guard = some c ∧ c.deadRead (g.a g.type.wide).regs = none ∧ c.eff ≠ 0 ∧
      g.type.read g.immVal = 0) :=
  ⟨⟨meets_of (by decide +kernel), by decide +kernel⟩, by decide +kernel, ⟨meets_of (by decide +kernel), by decide +kernel⟩,
    by decide +kernel⟩

theorem meets_ResultRule : Ty.isInt .i8 = true ∧ Ty.isInt .n64 = true := by decide

theorem meets_ComparesAndMoves :
    MeetsPred numbers (.icmp { dst := 7, sa := 1, sb := 2, ty := 3 }) 7 [1, 2] ∧ MeetsPred numbers (.icmpI { sa := 1, ty := 3 }) 0 [1] ∧
    MeetsPred numbers (.fcmp { dst := 1, sa := 1, sb := 2, ty := 11 }) 1 [1, 2] ∧ MeetsPred numbers (.fcmpI { dst := 1, sa := 1, ty := 11 }) 1 [1] ∧
    Meets numbers (.sel { dst := 3, sa := 1, sb := 2, ty := 3, ops := 2 }) 3 false [1, 2] ∧
    Meets numbers (.selI { dst := 3, sa := 1, ty := 3, ops := 2 }) 3 false [1] ∧
    Meets numbers (.mov { dst := 8, sa := 4, ty := 8 }) 8 true [4, 5] ∧ Meets numbers (.movi { dst := 3, ty := 3, imm := 1 }) 3 false [] ∧
    Meets numbers (.lea { dst := 8, sa := 1, ops := 1 }) 8 true [1] :=
  ⟨meetsPred_of (by decide +kernel), meetsPred_of (by decide +kernel), meetsPred_of (by decide +kernel), meetsPred_of (by decide +kernel),
    meets_of (by decide +kernel), meets_of (by decide +kernel), meets_of (by decide +kernel), meets_of (by decide +kernel),
    meets_of (by decide +kernel)⟩

theorem meets_Bitwise : Meets numbers (.xor_ { dst := 3, sa := 1, sb := 2, ty := 7 }) 3 false [1, 2] ∧
    Meets numbers (.ornI { dst := 8, sa := 4, ty := 8, imm := 5 }) 8 true [4, 5] := ⟨meets_of (by decide +kernel), meets_of (by decide +kernel)⟩
theorem meets_Shifts : Meets numbers (.sar { dst := 3, sa := 2, sb := 2, ty := 7 }) 3 false [2, 2] ∧
    Meets numbers (.rolI { dst := 8, sa := 4, ty := 8, imm := 64 }) 8 true [4, 5] := ⟨meets_of (by decide +kernel), meets_of (by decide +kernel)⟩
theorem meets_BitFields : Meets numbers (.clz { dst := 3, sa := 4, ty := 8 }) 3 false [4, 5] ∧
    Meets numbers (.bfi { dst := 1, sa := 2, sb := 4, ty := 7 }) 1 false [2, 4, 1] ∧
    Meets numbers (.bfiI { dst := 1, sa := 2, ty := 7, imm := 0x1F01 }) 1 false [2, 1] ∧
    Meets numbers (.prmbI { dst := 1, sa := 2, imm := 0x3210 }) 1 false [2] :=
  ⟨meets_of (by decide +kernel), meets_of (by decide +kernel), meets_of (by decide +kernel), meets_of (by decide +kernel)⟩

theorem meets_FloatArithmetic : Meets numbers (.fadd { dst := 3, sa := 1, sb := 2, ty := 11 }) 3 false [1, 2] ∧
    Meets numbers (.fmaxnI { dst := 3, sa := 1, ty := 11 }) 3 false [1] ∧
    Meets numbers (.ffma { dst := 8, sa := 4, sb := 6, sc := 4, ty := 12 }) 8 true [4, 5, 6, 7, 4, 5] ∧
    Meets numbers (.fclass { dst := 3, sa := 4, ty := 12 }) 3 false [4, 5] :=
  ⟨meets_of (by decide +kernel), meets_of (by decide +kernel), meets_of (by decide +kernel), meets_of (by decide +kernel)⟩

theorem meets_ConversionsAndFunctions : Meets numbers (.fcvt { dst := 3, sa := 1, ty := 9, ops := 0x1B }) 3 false [1, 3] ∧
    Meets numbers (.icvt { dst := 8, sa := 1, ty := 12, ops := 3 }) 8 true [1] ∧
    Meets numbers (.fcvti { dst := 3, sa := 1, ty := 3, ops := 11 }) 3 false [1] ∧
    Meets numbers (.fdiv { dst := 3, sa := 1, sb := 2, ty := 11 }) 3 false [1, 2] ∧
    Meets numbers (.ftanh { dst := 3, sa := 1, ty := 9 }) 3 false [1] :=
  ⟨meets_of (by decide +kernel), meets_of (by decide +kernel), meets_of (by decide +kernel), meets_of (by decide +kernel),
    meets_of (by decide +kernel)⟩

/-- quant at the last plane group, plsplit, deq and pljoin of the planes of Table 5-9, whose codes they give back. -/
theorem meets_BitPlanes : (withWarp quantWarp (.quant { dst := 240, sa := 4, ty := 13, ops := 0x1B })).Issues (0, false) (ctx0 quantWarp) ∧
    240 + 9 ≤ quantWarp.regs.length ∧ (ctx0 quantWarp).deadRead [4] = none ∧
    (withWarp quantWarp (.plsplit { dst := 248, sa := 4, ty := 13, ops := 1 })).Issues (0, false) (ctx0 quantWarp) ∧
    248 + 8 ≤ quantWarp.regs.length ∧ Meets quantWarp (.deq { dst := 30, sa := 16, sb := 24, ty := 11, ops := 0x19D }) 30 false [16, 17, 18, 19, 24] ∧
    Meets quantWarp (.pljoin { dst := 31, sa := 16, ty := 1, ops := 0x38D }) 31 false (planeRegs 16 8) ∧
    (let q : Nat → Int := fun j => [127, -24, 0, 32].getD j 0;
     -128 ≤ q 1 ∧ q 1 ≤ 127 ∧ ∀ k, k < 8 → quantWarp.lane (16 + k) 1 = planeWord (ctx0 quantWarp).eff q k) :=
  ⟨issuesTo_of (by decide +kernel), by decide +kernel, by decide +kernel, issuesTo_of (by decide +kernel), by decide +kernel,
    meets_of (by decide +kernel), meets_of (by decide +kernel), by decide +kernel⟩

theorem meets_PredicatesAndHints : MeetsPred warp0 (.pcomb { dst := 7, sa := 1, sb := 2, sc := 3, ops := 0xE8 }) 7 [] ∧
    (withWarp warp0 (.nop {})).Issues (0, false) (ctx0 warp0) ∧ (withWarp warp0 (.prefetch { space := 3 })).Issues (0, false) (ctx0 warp0) ∧
    (withWarp warp0 (.cctl { space := 3, hint := 1 })).Issues (0, false) (ctx0 warp0) :=
  ⟨meetsPred_of (by decide +kernel), issuesTo_of (by decide +kernel), issuesTo_of (by decide +kernel), issuesTo_of (by decide +kernel)⟩



/-- A state with one launch, one workgroup and one warp, the instruction at the issue stage; and its context. -/
def world (l : Launch) (g : Workgroup) (w : Warp) (i : Instr) : State :=
  { base with launches := [l], wgs := [g], warps := [w], issue := some (issue0 i) }
def ctxOf (l : Launch) (g : Workgroup) (w : Warp) : Ctx := { ctx0 w with l := l, g := g }

/-- bra, call, brx and ret to slot 3 of their own line. -/
def target0 : PC := BitVec.ofNat 64 (wordLine + 3)
def linkWarp : Warp := regs [(2, BitVec.ofNat 32 (wordLine + 3)), (3, 0)]
def checked (w : Warp) (i : Instr) (ps : List PC) : State := ((withWarp w i).checkTargets (ctx0 w) ps).1
theorem meets_Branches : (let f : FormB := { tslot := 3 }; let g : FormB := { lnk := 2 }; let c := ctx0 linkWarp
    (ctx0 warp0).eff = (ctx0 warp0).run ∧ targetOf (ctx0 warp0).pc f.toff f.tslot = target0 ∧
    issuesB (withWarp warp0 (.bra f)) f.guard (ctx0 warp0) target0 = true ∧
    (withWarp warp0 (.bra f)).checkTargets (ctx0 warp0) [target0] = (checked warp0 (.bra f) [target0], none) ∧
    issuesB (withWarp warp0 (.call f)) f.guard (ctx0 warp0) target0 = true ∧ (dstRegs 0 true).all (fun n => decide (n < 256)) = true ∧
    (withWarp warp0 (.call f)).checkTargets (ctx0 warp0) [target0, nextSlot (ctx0 warp0).pc] =
      (checked warp0 (.call f) [target0, nextSlot (ctx0 warp0).pc], none) ∧
    issuesB (withWarp linkWarp (.ret g)) g.guard c target0 = true ∧ (∀ i, i < 32 → c.w.pair 2 i = target0) ∧ c.deadRead [2, 3] = none ∧
    (withWarp linkWarp (.ret g)).checkTargets c [lineOf c.pc, target0] = (checked linkWarp (.ret g) [lineOf c.pc, target0], none)) := by
  decide +kernel

/-- A warp whose p1 holds in lanes 0 to 15, and what an instruction guarded by it works on. -/
def guardWarp : Warp := { warp0 with preds := warp0.preds.set 0 0xFFFF }
def guardCtx (w : Warp) : Ctx := { ctx0 w with eff := 0xFFFF }
theorem meets_Branches_guarded : (let f : FormB := { pred := 1, tslot := 3, jslot := 4 }; let c := guardCtx guardWarp
    let t := targetOf c.pc f.toff f.tslot; let j := targetOf c.pc f.joff f.jslot; let s := withWarp guardWarp (.bra f)
    let u := checked guardWarp (.bra f) [t, j]
    let w := c.w.branch c.e [(t, c.eff), (nextSlot c.pc, c.run &&& ~~~c.eff)] j u.cycle
    s.ctx? f.guard = some c ∧ FormB.guarded f = true ∧ c.l.packet.travel = false ∧ s.checkTargets c [t, j] = (u, none) ∧
    (w.entry c.e).st = .run ∧ u.warp? c.w.uid = some c.w ∧ w.uid = c.w.uid ∧ w.liveCount = 2) := by decide +kernel

/-- Lanes 0 to 15 to slot 1, the others to slot 2, both to come together at slot 4. -/
theorem meets_Branches_divergent : (0 : Nat) < warp0.entries.length ∧ warp0.entries.length = 8 ∧ (warp0.entry 0).st = .run ∧
    readyGroups (warp0.entry 0).siding = [] ∧ warp0.freeEntry = some 1 ∧ warp0.liveCount < 4 ∧ (warp0.entry 0).depth < 2 ∧
    (0xFFFF : Mask) ≠ 0 ∧ (0xFFFF0000 : Mask) ≠ 0 ∧ (0x10001 : PC).toNat < (0x10002 : PC).toNat ∧ (0x10004 : PC) ≠ 0x10001 ∧
    (0x10004 : PC) ≠ 0x10002 ∧ ∀ k, k < 8 → warp0.canFuse k = false := by decide +kernel

theorem meets_LanesLeaveAndPause : (withWarp warp0 (.exit_ {})).ctx? (0, false) = some (ctx0 warp0) ∧
    (withWarp warp0 (.step_ {})).ctx? (0, false) = some (ctx0 warp0) ∧ (ctx0 warp0).eff ≠ 0 ∧
    (let f : FormV := { pred := 1 }; (withWarp guardWarp (.exit_ f)).ctx? f.guard = some (guardCtx guardWarp) ∧ (guardCtx guardWarp).eff ≠ 0 ∧
      (withWarp guardWarp (.step_ f)).ctx? f.guard = some (guardCtx guardWarp) ∧ (guardCtx guardWarp).eff ≠ (guardCtx guardWarp).run) ∧
    (ctx0 warp0).l.packet.travel = false ∧ issuesB (withWarp warp0 (.yield {})) (0, false) (ctx0 warp0) (nextSlot (ctx0 warp0).pc) = true ∧
    (withWarp warp0 (.sleep { imm := 0xFFFFFF })).ctx? (0, false) = some (ctx0 warp0) ∧
    issuesB (withWarp warp0 (.sleep {})) (0, false) (ctx0 warp0) (nextSlot (ctx0 warp0).pc) = true := by decide +kernel

/-- A launch with a trap entry at slot 4 of the line. -/
def trapPacket : LaunchPacket := { launch0.packet with trapEntry := BitVec.ofNat 64 (wordLine + 4) }
def trapLaunch : Launch := { launch0 with packet := trapPacket }
def trapState : State := world trapLaunch wg0 warp0 (.trap { imm := 5 })
theorem meets_Traps : trapState.warp? warp0.uid = some warp0 ∧ trapState.launch? warp0.launch = some trapLaunch ∧
    trapClass 0x20 = .program ∧ trapLaunch.packet.trapEntry ≠ 0 ∧ (warp0.entry 0).mask &&& warp0.trap.lanes = 0 ∧ warp0.trap.busy = false ∧
    0 < warp0.entries.length ∧ (warp0.entry 0).mask ≠ 0 ∧ readyGroups (warp0.entry 0).siding = [] ∧
    (warp0.entry 0).j ≠ some trapLaunch.packet.trapEntry ∧
    trapState.checkTarget warp0 (trapState.asidOf warp0) 0 trapLaunch.packet.trapEntry =
      ((trapState.checkTarget warp0 (trapState.asidOf warp0) 0 trapLaunch.packet.trapEntry).1, .ok) ∧ (warp0.entry 0).st = .run ∧
    (∀ k, k < 8 → warp0.canFuse k = false) ∧ trapState.ctx? (0, false) = some (ctxOf trapLaunch wg0 warp0) ∧
    (ctxOf trapLaunch wg0 warp0).eff ≠ 0 ∧ trapState.leaving trapLaunch warp0 [(nextSlot (ctx0 warp0).pc, 0)] = [] ∧
    (let f : FormI := { pred := 1, imm := 5 }; let c := guardCtx guardWarp; let s := withWarp guardWarp (.trap f)
      s.ctx? f.guard = some c ∧ c.eff ≠ 0 ∧ c.eff ≠ c.run ∧
      s.leaving c.l c.w [(nextSlot c.pc, c.run &&& ~~~c.eff)] = []) := by decide +kernel

/-- A warp whose lanes are all in its trap, and one whose lanes are not. -/
def trappedWarp : Warp := { warp0 with trap := { busy := true, entry := 0, cause := 0x20, tpc := 0x10001, tval := 5, lanes := 0xFFFFFFFF } }
theorem meets_ReturnFromTrap : (let f : FormV := { ops := 1 }; let c := ctx0 trappedWarp
    issuesB (withWarp trappedWarp (.tret f)) f.guard c (nextSlot c.w.trap.tpc) = true ∧ c.eff = c.run ∧ c.eff &&& ~~~c.w.trap.lanes = 0 ∧
    (withWarp warp0 (.tret f)).ctx? f.guard = some (ctx0 warp0) ∧ (ctx0 warp0).eff &&& ~~~(ctx0 warp0).w.trap.lanes ≠ 0) ∧
    (let f : FormV := { pred := 1 }; let w : Warp := { trappedWarp with preds := guardWarp.preds }; let c := guardCtx w
      (withWarp w (.tret f)).ctx? f.guard = some c ∧ c.l.packet.travel = false ∧ c.eff &&& ~~~c.w.trap.lanes = 0 ∧ c.eff ≠ c.run) := by
  decide +kernel

/-- The mask of `.all` and the mask in a register; no matrix instruction runs. -/
theorem meets_Collectives_arrival : (let f : FormV := { dst := 1, sa := 2, ops := 0x800 }; let g : FormX := { dst := 32, xa := 64, xb := 80, xc := 32, xd := 96, ops := 0x10006E }
    let c := ctx0 warp0
    c.w.collectivesAt c.pc = [] ∧ c.l.packet.deadCheck = false ∧ (withWarp warp0 (.poll f)).ctx? f.guard = some c ∧ f.opsAt 95 95 = 1 ∧
    (withWarp warp0 (.mma g)).ctx? g.guard = some c ∧ c.w.mloop = none ∧ (withWarp warp0 (.mma g)).pendingAcquire c.w.uid c.run = false ∧
    g.allLanes = true ∧ FormV.members { dst := 1, sa := 2, sc := 1 } (ctx0 numbers) = 7 ∧ c.matrixDead g (FormX.mmaReads g) = none ∧
    c.matrixDead g (FormX.mloopReads g) = none ∧ c.matrixDead g (FormX.mldfReads g) = none ∧ c.matrixDead g (FormX.mstfReads g) = none ∧
    FormV.members { dst := 1, sa := 2, sc := 5 } (ctx0 numbers) = 0) := by decide +kernel

/-- Lanes 16 to 31 wait at a collective of all 32 lanes; the others arrive with the mask 7, or with that of all. -/
def pendingWarp : Warp :=
  let k : Collective := { m := 0xFFFFFFFF, all := false, eff := 0xFFFF0000, contrib := 0xFFFF0000, vals := [], i := .poll { dst := 1, sa := 2 }, since := 0 }
  let g : Group := { key := BitVec.ofNat 64 wordLine, lanes := 0xFFFF0000, arrived := true, kind := .collective k }
  numbers.setEntry 0 { (numbers.entry 0) with mask := 0xFFFF, siding := [g] }
theorem meets_Collectives_pending : (let f : FormV := { dst := 1, sa := 2, sc := 1 }; let c := ctx0 pendingWarp
    (withWarp pendingWarp (.poll f)).ctx? f.guard = some c ∧ c.l.packet.deadCheck = false ∧ FormV.members f c ≠ 0 ∧
    (f.opsAt 95 95 == 1) = false ∧ c.w.collectivesAt c.pc ≠ [] ∧ c.w.instanceMask (c.w.collectivesAt c.pc) ≠ FormV.members f c ∧
    c.w.instanceMask (c.w.collectivesAt c.pc) = 0xFFFFFFFF) := by decide +kernel

/-- Two arrivals, of lanes 0 to 15 and 16 to 31, at a poll, a fold and a peer. -/
def arrivals (i : Instr) : List (Nat × Group × Collective) :=
  [(0xFFFF : Mask), 0xFFFF0000].map fun m =>
    let k : Collective := { m := 0xFFFFFFFF, all := true, eff := m, contrib := m, vals := (List.range 32).map (BitVec.ofNat 64 ·), i := i, since := 0 }
    (0, { key := 0x10000, lanes := m, arrived := true, kind := .collective k }, k)
def first0 (i : Instr) : Nat × Group × Collective := (arrivals i).headD (0, { key := 0, lanes := 0, arrived := false, kind := .none },
  { m := 0, all := false, eff := 0, contrib := 0, vals := [], i := i, since := 0 })
theorem meets_Collectives_results : (∀ n, n < 4 → (let f : FormV := { dst := 7, ops := BitVec.ofNat 12 n };
      arrivals (.poll f) = first0 (.poll f) :: (arrivals (.poll f)).drop 1 ∧ (first0 (.poll f)).2.2.i = .poll f ∧ f.dst.toNat < 8 ∧
      f.dst.toNat ≠ 0 ∧ f.opsAt 85 84 = n)) ∧ warp0.preds.length = 7 ∧
    (let f : FormV := { dst := 255, ty := 3 }; f.dst.toNat < warp0.regs.length ∧
      (foldInt (f.opsAt 86 84) f.type f.sat ((lanesOf 0xFFFFFFFF).map fun i => f.type.read (contribOf (arrivals (.fold f)) i))).isSome = true) ∧
    (∀ n, n < 2 → (let f : FormV := { dst := 255, ty := 7, ops := BitVec.ofNat 12 n }; f.opsAt 84 84 = n ∧ (first0 (.peer f)).2.2.i = .peer f ∧
      ((arrivals (.peer f)).foldl (fun a x => a ||| x.2.2.contrib) (0 : Mask)).getLsbD 31 = true)) ∧
    (let gs := (arrivals (.peer {})).take 1; gs = first0 (.peer {}) :: [] ∧ warp0.living.getLsbD 31 = true ∧
      (gs.foldl (fun a x => a ||| x.2.2.contrib) (0 : Mask)).getLsbD 31 = false) := by decide +kernel


/-- A format block of two f16 operands in v96..v99, shared memory of 4 KiB, and the warp standing at a matrix instruction. -/
def blockWarp : Warp := after warp0 (.mfmt { dst := 96 })
def sharedWg : Workgroup := { wg0 with sharedBytes := 4096 }
def standing (w : Warp) (i : Instr) : Warp :=
  w.arrive 0 (BitVec.ofNat 64 wordLine) (w.entry 0).mask
    (.collective { m := 0xFFFFFFFF, all := true, eff := 0xFFFFFFFF, contrib := 0xFFFFFFFF, vals := [], i := i, since := 0 }) []
def sliceState (i : Instr) : State := { base with warps := [standing blockWarp i], wgs := [sharedWg] }
def mmaForm : FormX := { dst := 32, xa := 64, xb := 80, xc := 32, xd := 96, ops := 0x100000 }
/-- The hypotheses of the slice's start, as one condition on the state. -/
def sliceStarts (i : Instr) : Bool :=
  let s := sliceState i; let w := standing blockWarp i; let pc : PC := BitVec.ofNat 64 wordLine
  let m := (w.collectivesAt pc).foldl (fun a g => a ||| g.2.2.contrib) (0 : Mask)
  let lows := (w.collectivesAt pc).filterMap fun g => lowLane g.2.1.lanes
  Memory.wf s.mem && noReadersB s && (s.sliceQueue 0 0 0).head?.map (fun x => (x.1, x.2.1)) == some (w, pc) && m != 0 && (w.collectivesAt pc).length == 1 &&
  match s.warpCtx? w 0 pc m with
  | none => false
  | some c => !s.matrixStalls c i m && match s.runMatrix c i m lows with
    | .ok _ => true
    | _ => false
theorem meets_MatrixSteps_slice : sliceStarts (.mma mmaForm) = true ∧ sliceStarts (.mldf { dst := 32, xa := 1, ops := 0x100000 }) = true ∧
    sliceStarts (.mstf { xb := 32, xa := 1, ops := 0x100000 }) = true ∧
    sliceStarts (.mloop { dst := 32, xa := 64, xb := 80, xc := 100, xd := 96, cnt := 2, ops := 0x100000 }) = true := by decide +kernel

/-- An mma to which no lane contributes. -/
def idleMma : Warp := warp0.arrive 0 (BitVec.ofNat 64 wordLine) (warp0.entry 0).mask
  (.collective { m := 0xFFFFFFFF, all := true, eff := 0xFFFFFFFF, contrib := 0, vals := [], i := .mma mmaForm, since := 0 }) []
theorem meets_MatrixSteps_idle : (let s : State := { base with warps := [idleMma], wgs := [sharedWg] }; let pc : PC := BitVec.ofNat 64 wordLine
    Memory.wf s.mem = true ∧ s.warp? idleMma.uid = some idleMma ∧ (s.sliceQueue 0 0 0).head?.map (fun x => (x.1, x.2.1)) = some (idleMma, pc) ∧
    ((idleMma.collectivesAt pc).map fun g => g.2.2.contrib) = [0] ∧ s.warpCtx? idleMma 0 pc 0 ≠ none) := by decide +kernel

/-- An mloop of two steps before its second, and of one step before its first. -/
def loopForm : FormX := { dst := 32, xa := 64, xb := 80, xc := 100, xd := 96, cnt := 2, ops := 0x100000 }
def loopRecord : MloopState where
  pc := BitVec.ofNat 64 wordLine
  i := .mloop loopForm
  lanes := 0xFFFFFFFF
  block := blockWarp.format 96 0
  ainc := 0
  binc := 0
  next := 1
  total := 2
def loopWarp : Warp := { blockWarp with mloop := some loopRecord }
def loopState : State := { base with warps := [loopWarp], wgs := [sharedWg] }
def loopCtx : Ctx := ctxOf launch0 sharedWg loopWarp
theorem meets_MatrixSteps_loop : loopState.warp? loopWarp.uid = some loopWarp ∧ loopWarp.mloop = some loopRecord ∧
    loopRecord.i = .mloop loopForm ∧ loopState.warpCtx? loopWarp 0 loopRecord.pc loopRecord.lanes = some loopCtx ∧ loopCtx.l.halted = false ∧
    (match loopState.stepPlans loopCtx loopForm loopRecord.block loopRecord 1 with
      | .ok _ => true
      | .error _ => false) = true ∧ loopRecord.next + 1 = loopRecord.total := by decide +kernel

theorem meets_FormatBlock : (withWarp numbers (.mfmt { dst := 252, xa := 1, xb := 2, xc := 4, xd := 5 })).Issues (0, false) (ctx0 numbers) ∧
    252 + 4 ≤ numbers.regs.length ∧ (ctx0 numbers).deadRead [1, 2, 4, 5] = none :=
  ⟨issuesTo_of (by decide +kernel), by decide +kernel, by decide +kernel⟩
theorem meets_MatrixGroups : [FVal.num false 1 0, .num true 3 5, .nan].Perm [.nan, .num true 3 5, .num false 1 0] := by decide

/-- The barrier instructions, in a launch that is not resident and in one that is. -/
def residentPacket : LaunchPacket := { launch0.packet with flags := 1 }
def residentLaunch : Launch := { launch0 with packet := residentPacket }
theorem meets_Barriers_arrival : (withWarp warp0 (.bar { ops := 7 })).pendingFor warp0.uid (ctx0 warp0).eff = false ∧
    (withWarp warp0 (.bar { ops := 7 })).ctx? (0, false) = some (ctx0 warp0) ∧ (ctx0 warp0).eff ≠ 0 ∧
    (world residentLaunch wg0 warp0 (.pbar { dst := 7, ops := 7 })).ctx? (0, false) = some (ctxOf residentLaunch wg0 warp0) ∧
    residentLaunch.packet.resident = true ∧
    issuesB (withWarp warp0 (.pbar { dst := 7 })) (0, false) (ctx0 warp0) (nextSlot (ctx0 warp0).pc) = true ∧
    (ctx0 warp0).l.packet.resident = false ∧ (ctx0 warp0).w.preds.length = 7 := by decide +kernel

/-- A warp that stands at bar 7; one that does not; and a package barrier that is complete. -/
def barWarp : Warp := warp0.arrive 0 (BitVec.ofNat 64 wordLine) 0xFFFFFFFF (.bar 7) []
def readyLaunch : Launch := { residentLaunch with pbarReady := [7] }
theorem meets_Barriers_release : barWarp ∈ ({ base with warps := [barWarp] } : State).warps ∧ barWarp.waitsAt (isBar 7) = true ∧
    warp0 ∈ base.warps ∧ warp0.waitsAt (isBar 7) = false ∧
    ({ base with launches := [readyLaunch] } : State).launch? launch0.id = some readyLaunch ∧ readyLaunch.halted = false ∧
    readyLaunch.saved = [] ∧ 7 ∈ readyLaunch.pbarReady := by decide +kernel


/-- The keys a memory plan gives, and the global access it plans. -/
def keysOf : MemPlan → List (Nat × List Nat)
  | .near ks => ks
  | _ => []
def plansNear : MemPlan → Bool
  | .near _ => true
  | _ => false
theorem plansNear_of {p : MemPlan} (h : plansNear p = true) : p = .near (keysOf p) := by
  cases p <;> simp_all [plansNear, keysOf]
def plansFar (c : Ctx) : MemPlan → Bool
  | .far _ d _ => d == c
  | _ => false
theorem plansFar_of {p : MemPlan} {c : Ctx} (h : plansFar c p = true) : ∃ t lanes, p = .far t c lanes := by
  cases p <;> simp_all [plansFar]

/-- Lane i of v1 holds 4 i, an address in shared memory; v2 and v3 hold a datum. -/
def addressed : Warp := { warp0 with regs := ((warp0.regs.set 1 (.a 0 4)).set 2 (.u 0xA1B2C3D4)).set 3 (.u 5) }
def sharedState (i : Instr) : State := world launch0 sharedWg addressed i
def sharedCtx : Ctx := ctxOf launch0 sharedWg addressed
def loadForm : FormM := { dat := 4, adr := 1, space := 0, width := 2, offs := 3968 }
/-- A load and a store of the last words of shared memory. -/
theorem meets_Loads : issuesB (sharedState (.ld loadForm)) (0, false) sharedCtx (nextSlot sharedCtx.pc) = true ∧ sharedCtx.eff ≠ 0 ∧
    plansNear ((sharedState (.ld loadForm)).memPlan sharedCtx (FormM.ldAsk loadForm)) = true ∧
    (sharedState (.ld loadForm)).poisonedLane (keysOf ((sharedState (.ld loadForm)).memPlan sharedCtx (FormM.ldAsk loadForm))) = none ∧
    4 + max 1 (4 / 4) ≤ sharedCtx.w.regs.length := by decide +kernel
theorem meets_Stores : let f : FormM := { loadForm with dat := 2 }
    issuesB (sharedState (.st f)) f.guard sharedCtx (nextSlot sharedCtx.pc) = true ∧ sharedCtx.eff ≠ 0 ∧
    Memory.wf (sharedState (.st f)).mem = true ∧ noReadersB (sharedState (.st f)) = true ∧
    plansNear ((sharedState (.st f)).memPlan sharedCtx (FormM.stAsk f)) = true := by
  decide +kernel

/-- One lane runs, at address 4,092 of shared memory. -/
def oneLane : Warp := { addressed with regs := addressed.regs.set 1 (.u 4092), living := 1, entries := warp0.entries.set 0 { warp0.entry 0 with mask := 1 } }
def oneCtx : Ctx := ctxOf launch0 sharedWg oneLane
def oneState (i : Instr) : State := world launch0 sharedWg oneLane i
def atomForm (op : BitVec 4) : FormM := { dat := 2, adr := 1, space := 0, width := 2, atop := op, aux := if op = 8 then 3 else 0 }
def atomPlan (op : BitVec 4) : MemPlan := (oneState (.atom (atomForm op))).memPlan oneCtx (FormM.atomAsk (atomForm op) (FormM.cmpRegs (atomForm op)))
/-- An atomic of the last word of shared memory: an addition, a maximum and a compare; its reduction. -/
theorem meets_Atomics : (∀ op ∈ [(1 : BitVec 4), 7, 8], issuesB (oneState (.atom (atomForm op))) (0, false) oneCtx (nextSlot oneCtx.pc) = true ∧
    plansNear (atomPlan op) = true ∧ (keysOf (atomPlan op)).map (·.1) = [0] ∧
    (oneState (.atom (atomForm op))).poisonedLane (keysOf (atomPlan op)) = none) ∧ oneCtx.eff ≠ 0 ∧
    plansNear ((oneState (.red (atomForm 1))).memPlan oneCtx (FormM.atomAsk (atomForm 1) [])) = true ∧ 2 + max 1 (4 / 4) ≤ oneCtx.w.regs.length ∧
    Memory.wf (oneState (.red (atomForm 1))).mem = true ∧ noReadersB (oneState (.red (atomForm 1))) = true := by decide +kernel

/-- v6 and v7 hold the address of a mapped page, of which lane 0 reads, writes and adds. -/
def globalWarp : Warp := { oneLane with regs := (oneLane.regs.set 6 (.u 0x20000)).set 7 (.u 0) }
def globalCtx : Ctx := ctxOf launch0 sharedWg globalWarp
def globalState (i : Instr) : State := world launch0 sharedWg globalWarp i
def globalForm : FormM := { dat := 2, adr := 6, space := 3, scope := 5, width := 2, atop := 1, aux := 10 }
theorem meets_GlobalAccesses : issuesB (globalState (.ld globalForm)) (0, false) globalCtx (nextSlot globalCtx.pc) = true ∧ globalCtx.eff ≠ 0 ∧
    (∀ q ∈ [FormM.ldAsk globalForm, FormM.stAsk globalForm, FormM.atomAsk globalForm [], FormM.atomAsk globalForm (FormM.cmpRegs globalForm)],
      plansFar globalCtx ((globalState (.ld globalForm)).memPlan globalCtx q) = true) ∧
    (let f : FormM := { globalForm with atop := 8 }
     plansFar globalCtx ((globalState (.atom f)).memPlan globalCtx (FormM.atomAsk f (FormM.cmpRegs f))) = true) := by
  decide +kernel
/-- The same of a die store: its last word, in a launch that has an allocation. -/
def dieWarp : Warp := { oneLane with regs := oneLane.regs.set 1 (.u 65532) }
def dieCtx : Ctx := ctxOf launch0 sharedWg dieWarp
def dieState0 (i : Instr) : State :=
  { world launch0 sharedWg dieWarp i with allocs := [{ die := 0, launch := some launch0.id, node := 0, base := 0, size := 65536 }] }
theorem meets_GlobalAccesses_ds : let f : FormM := { dat := 2, adr := 1, space := 2, scope := 5, width := 2 }
    issuesB (dieState0 (.ld f)) (0, false) dieCtx (nextSlot dieCtx.pc) = true ∧ f.spc = .ds ∧
    plansFar dieCtx ((dieState0 (.ld f)).memPlan dieCtx (FormM.ldAsk f)) = true := by decide +kernel

/-- An access of `globalWarp` in flight: one lane at 0x20000, an addition of 5. -/
def lane0 : LaneAcc := { lane := 0, va := 0x20000, pa := 0x20000, pte := 0x19F, data := 5 }
def access0 (op : AccOp) (x : LaneAcc) : Access :=
  { id := 77, warp := warp0.uid, launch := launch0.id, wg := wg0.uid, node := 0, asid := 0, die := 0, core := 0, pc := 0x10000, op := op,
    n := 4, sx := false, ord := .rlx, scope := .die, clock := 0, eff := 1, full := false, uniform := false, dst := 4, dst2 := 0, lanes := [x] }
def flying (op : AccOp) (x : LaneAcc) : State := { base with warps := [globalWarp], accesses := [access0 op x] }
/-- A fence of each order waits behind a load, a release behind a store too, which an acquire passes. -/
def fenceForm (o : BitVec 2) : FormM := { ord := o, scope := 6 }
def fenceState (op : AccOp) (f : FormM) : State := { flying op lane0 with warps := [warp0], issue := some (issue0 (.fence f)) }
theorem meets_Fences : (ctx0 warp0).eff ≠ 0 ∧ (∀ o ∈ [(1 : BitVec 2), 2, 3],
      (fenceState .load (fenceForm o)).ctx? (0, false) = some (ctx0 warp0) ∧
      (fenceState .load (fenceForm o)).fenceWaits (ctx0 warp0) (fenceForm o) = true ∧
      issuesB (withWarp warp0 (.fence (fenceForm o))) (0, false) (ctx0 warp0) (nextSlot (ctx0 warp0).pc) = true ∧
      (withWarp warp0 (.fence (fenceForm o))).fenceWaits (ctx0 warp0) (fenceForm o) = false) ∧
    (fenceState .store (fenceForm 2)).fenceWaits (ctx0 warp0) (fenceForm 2) = true ∧
    (fenceState .store (fenceForm 1)).fenceWaits (ctx0 warp0) (fenceForm 1) = false ∧
    issuesB (fenceState .store (fenceForm 1)) (0, false) (ctx0 warp0) (nextSlot (ctx0 warp0).pc) = true := by decide +kernel

/-- A waitval that issues; one whose lane is satisfied, one whose lane is not and whose limit has come; a sleep that ends. -/
def waitForm : FormM := { dat := 4, adr := 1, space := 0, width := 2, aux := 2 }
def waitLane (b : Bool) : ValueLane := { lane := 0, addr := 0x20000, expected := 1, last := 0, satisfied := b }
def waitOn (b : Bool) : ValueWait :=
  { dat := 255, gl := false, scope := .die, acq := false, cmp := 0, limit := some 0, eff := 1, lanes := [waitLane b], marks := [] }
def blockedAt (x : Wait) : Warp := { oneLane with entries := oneLane.entries.set 0 { oneLane.entry 0 with st := .block, wait := x } }
def blocked (x : Wait) : State := { base with warps := [blockedAt x], wgs := [sharedWg] }
theorem meets_ValueWaits : (oneState (.waitval waitForm)).ctx? (0, false) = some oneCtx ∧ oneCtx.eff ≠ 0 ∧ oneCtx.e < oneCtx.w.entries.length ∧
    (let s := oneState (.waitval waitForm); let p := s.memPlan oneCtx (FormM.valAsk waitForm)
     let lanes := (keysOf p).map fun k => (k.1, effAddr oneCtx false waitForm.adr.toNat waitForm.offs k.1, k.2.headD 0, 0)
     plansNear p = true ∧ s.firstBadWord oneCtx lanes = none ∧
     (s.touchLanes oneCtx (FormM.valAsk waitForm) lanes).firstBadWord oneCtx lanes = none ∧ ∀ l ∈ lanes, inWindow l.2.2.1 = false) ∧
    (let f : FormM := { waitForm with space := 3, adr := 6 }; let s := globalState (.waitval f)
     s.ctx? (0, false) = some globalCtx ∧ (match s.memPlan globalCtx (FormM.valAsk f) with
     | .far t c lanes => c == globalCtx && t.firstBadWord globalCtx lanes == none &&
         (t.touchLanes globalCtx (FormM.valAsk f) lanes).firstBadWord globalCtx lanes == none &&
         lanes.all fun l => !inWindow l.2.2.1
     | _ => false) = true) ∧
    (blocked (.value (waitOn true))).valueWait? warp0.uid 0 = some (blockedAt (.value (waitOn true)), waitOn true) ∧
    (waitOn true).lanes.all (·.satisfied) = true ∧ (waitOn true).dat < (blockedAt (.value (waitOn true))).regs.length ∧
    (blocked (.value (waitOn false))).valueWait? warp0.uid 0 = some (blockedAt (.value (waitOn false)), waitOn false) ∧
    (waitOn false).lanes.find? (fun x => x.lane == 0 && !x.satisfied) = some (waitLane false) ∧ inWindow 0x20000 = false ∧
    ((blocked (.value (waitOn false))).unperformed warp0.uid 0x20000 4) = false ∧ (waitOn false).closing = false ∧ (waitOn false).far = [] ∧
    (waitOn false).limit = some 0 ∧ 0 ≤ (blocked (.value (waitOn false))).cycle ∧
    (blocked (.value (waitOn false))).wordPending warp0.uid 0 = false ∧
    (((blocked (.value (waitOn false))).rereadEntry warp0.uid 0 fun _ => true).valueWait? warp0.uid 0).isSome = true ∧
    ((blocked (.sleep 0)).warp? warp0.uid = some (blockedAt (.sleep 0)) ∧ ((blockedAt (.sleep 0)).entry 0).st = .block ∧
      ((blockedAt (.sleep 0)).entry 0).wait = .sleep 0) := by
  decide +kernel
/-- The same with the word in a host window: its reads are accesses of their own. -/
def farLane : ValueLane := { waitLane false with addr := homeKey 8 0 }
def waitFar : ValueWait := { waitOn false with lanes := [farLane] }
theorem meets_ValueWaits_window : let s := blocked (.value waitFar)
    s.valueWait? warp0.uid 0 = some (blockedAt (.value waitFar), waitFar) ∧
    waitFar.lanes.find? (fun x => x.lane == 0 && !x.satisfied) = some farLane ∧ inWindow farLane.addr = true ∧
    s.wordPending warp0.uid 0 = false ∧ waitFar.far ≠ [] ∧ waitFar.closing = false ∧
    (waitFar.lanes.all fun y => y.satisfied || !s.unperformed warp0.uid y.addr 4) = true := by decide +kernel

theorem meets_AccessesPerformed_lane : (let s := flying (.red 1) lane0; let a := access0 (.red 1) lane0
    Memory.wf s.mem = true ∧ s.access? 77 = some a ∧ a.lanes.find? (fun y => y.lane == 0) = some lane0 ∧ a.op.reads = false ∧
    lane0.done = false ∧ inWindow lane0.pa = false ∧ s.heldBack a lane0 = false ∧ s.gone lane0.pa = false ∧ noReadersB s = true ∧
    (∀ y ∈ a.lanes, y.bad = none ∧ s.poisonAt y.pa a.n = none) ∧
    a.op.result a.n a.sx (s.readNat lane0.pa a.n) lane0.data lane0.cmp = some 5) := by decide +kernel
/-- An addition whose sector is poisoned. -/
theorem meets_AccessesPerformed_poison : (let s : State := { flying (.atom 1) lane0 with poisoned := [0x20000 / 32] }; let a := access0 (.atom 1) lane0
    s.access? 77 = some a ∧ a.op.fetches = true ∧ a.op.reads = false ∧ a.lanes.any (·.done) = false ∧
    (a.lanes.findSome? fun y => s.poisonAt y.pa a.n).isSome = true ∧ s.heldBack a lane0 = false) := by decide +kernel
theorem meets_AccessesPerformed_reply : (let x : LaneAcc := { lane0 with done := true }; let s := flying (.red 1) x; let a := access0 (.red 1) x
      s.access? 77 = some a ∧ s.warp? a.warp = some globalWarp ∧ a.op.reads = false ∧ a.op.engine = false ∧ ∀ y ∈ a.lanes, y.done = true ∧ y.bad = none) ∧
    (let s := flying .load lane0; let a := access0 .load lane0
     s.access? 77 = some a ∧ s.warp? a.warp = some globalWarp ∧ a.op = .load ∧ a.lanes = [lane0] ∧ inWindow lane0.pa = false ∧
     s.heldBack a lane0 = false ∧ pteC lane0.pte = false ∧ s.gone lane0.pa = false ∧ s.poisonAt lane0.pa a.n = none ∧
     a.dst < globalWarp.regs.length ∧ a.eff.getLsbD lane0.lane = true ∧ lane0.lane < 32 ∧ lane0.bad = none ∧ a.full = false ∧ a.n ≤ 4) := by
  decide +kernel


theorem meets_AccessesPerformed_missable : (let p : Party := { thread := 1, warp := 1, wg := 1, die := 0, core := 4, scope := .die }
    ∃ y, y ∈ freshWord.mayMiss (p, []) 1000 0 4 ∧ y.stamp = 1001) := ⟨_, List.mem_cons_self, by decide +kernel⟩

theorem meets_SpecialRegisters : (let f : FormI := { dst := 254, ty := 8, imm := 0x01A }; Meets numbers (.sread f) 254 true [] ∧ f.ops.toNat % 2 ≠ 1) ∧
    (let f : FormI := { dst := 8, sa := 1, ty := 8, ops := 1, imm := 0x010 }; Meets numbers (.sread f) 8 true [1] ∧ f.ops.toNat % 2 = 1) ∧
    (withWarp numbers (.swrite { sa := 6, imm := 0x020 })).Issues (0, false) (ctx0 numbers) ∧
    (((withWarp numbers (.swrite { sa := 6, imm := 0x030 })).region? launch0.node).map (·.priv) = some true ∧
      ((ctx0 numbers).w.lane 6 (ctx0 numbers).low).toNat / 2 % 16 ≤ 10 ∧ 10 < ((ctx0 numbers).w.lane 2 (ctx0 numbers).low).toNat / 2 % 16 ∧
      (ctx0 numbers).deadRead [2] = none ∧ (ctx0 numbers).deadRead [6] = none ∧
      issuesB (withWarp numbers (.swrite { sa := 2, imm := 0x030 })) (0, false) (ctx0 numbers) (nextSlot (ctx0 numbers).pc) = true) ∧
    (let s : State := { withWarp numbers (.swrite { sa := 6, imm := 0x030 }) with regions := [{ wordRegion with priv := false }] };
     s.ctx? (0, false) = some (ctx0 numbers) ∧ (s.region? launch0.node).map (·.priv) ≠ some true) ∧
    (withWarp numbers (.stamp { dst := 254 })).pendingFor warp0.uid (ctx0 numbers).eff = false ∧ Meets numbers (.stamp { dst := 254 }) 254 true [] ∧
    Meets numbers (.hnow { dst := 254 }) 254 true [] :=
  ⟨⟨meets_of (by decide +kernel), by decide⟩, ⟨meets_of (by decide +kernel), by decide⟩, issuesTo_of (by decide +kernel), by decide +kernel,
    by decide +kernel, by decide +kernel, meets_of (by decide +kernel), meets_of (by decide +kernel)⟩

/-- Every page of the base's leaf keeps history for region 0; v10 and v11 hold the stamp 3. -/
def historyWarp : Warp := { globalWarp with regs := ((globalWarp.regs.set 6 (.g (List.replicate 32 0x20000))).set 10 (.u 3)).set 11 (.u 0) }
def historyCtx : Ctx := ctxOf launch0 sharedWg historyWarp
def historyBase : State := State.write { base with
  histPages := [{ page := 0, count := 2 ^ 18, asid := 0, va := 0, owner := some 0, base := 1, live := true }], tick := 9 } 0x3000 (leBytes 8 0x1BF)
def historyState (i : Instr) : State := { historyBase with wgs := [sharedWg], warps := [historyWarp], issue := some (issue0 i) }
/-- What a global plan gives, each lane keeping history. -/
def keepsHistory (c : Ctx) : MemPlan → Bool
  | .far t d lanes => d == c && lanes.length == 1 && lanes.all fun l => !t.noHistory l.2.2.2 l.2.2.1
  | _ => false
theorem keepsHistory_of {p : MemPlan} {c : Ctx} (h : keepsHistory c p = true) :
    ∃ t lanes, p = .far t c lanes ∧ ∀ l ∈ lanes, t.noHistory l.2.2.2 l.2.2.1 = false := by
  cases p with
  | far t d lanes =>
    simp only [keepsHistory, Bool.and_eq_true, beq_iff_eq, List.all_eq_true, Bool.not_eq_true'] at h
    exact ⟨t, lanes, by rw [h.1.1], h.2⟩
  | stop _ => simp [keepsHistory] at h
  | near _ => simp [keepsHistory] at h
theorem meets_Floors_hfloor : issuesB (historyState (.hfloor { dat := 4, adr := 6, space := 3, width := 3 })) (0, false) historyCtx
      (nextSlot historyCtx.pc) = true ∧ historyCtx.eff ≠ 0 ∧ 4 + 2 ≤ historyCtx.w.regs.length ∧
    keepsHistory historyCtx ((historyState (.hfloor { dat := 4, adr := 6, space := 3, width := 3 })).memPlan historyCtx
      (FormM.floorAsk { dat := 4, adr := 6, space := 3, width := 3 })) = true := by decide +kernel

/-- htrim to a floor in effect, and to one that is not yet. -/
def trimForm : FormX := { dst := 254, xa := 10 }
def trimState (f : Nat) : State :=
  ({ historyState (.htrim trimForm) with regionFloor := [(0, f)], floorsInEffect := [(0, 2)] } : State).modCore 0 0 fun c => { c with frontier := 8 }
theorem meets_Floors_htrim : historyCtx.eff ≠ 0 ∧ historyCtx.deadRead [10, 11] = none ∧
    issuesB ((trimState 2).modCore 0 0 fun c => { c with frontier := 1 }) (0, false) historyCtx (nextSlot historyCtx.pc) = true ∧
    max ((trimState 2).regionFloorOf 0) (min 3 1) ≤ (trimState 2).floorInEffect 0 ∧ 254 + 2 ≤ historyCtx.w.regs.length ∧
    (trimState 2).ctx? (0, false) = some historyCtx ∧
    (trimState 2).floorInEffect 0 < max ((trimState 2).regionFloorOf 0) (min (historyCtx.w.pair 10 historyCtx.low).toNat 8) := by decide +kernel

/-- A region's floor and a stack's on their way. -/
def pendingState : State :=
  { base with pendingFloors := [{ region := some 0, stack := 0, value := 5 }, { region := none, stack := 3, value := 7 }] }
theorem meets_Floors_inEffect : pendingState.pendingFloors[0]? = some { region := some 0, stack := 0, value := 5 } ∧
    pendingState.pendingFloors[1]? = some { region := none, stack := 3, value := 7 } ∧
    (pendingState.warps.all fun w => w.entries.all fun x => x.wait == .none) = true := by decide +kernel

/-- ld.asof of one lane at stamp 3, the clocks standing at `tick` and the floor at `floor`; and its result, which waits for its reply. -/
def asofForm : FormM := { dat := 4, adr := 6, space := 3, width := 2, aux := 10 }
def asofState (tick floor : Nat) : State := { historyState (.ldAsof asofForm) with tick := tick, floorsInEffect := [(0, floor)] }
/-- What the statement asks of its lanes: kept history, and then a clock to wait for, a stamp too low, or an answer. -/
def asofPlan (s : State) (ok : State → AsofLane → Bool) : Bool := match s.memPlan historyCtx (FormM.asofAsk asofForm) with
  | .far t d lanes =>
    let ls := t.asofLanes historyCtx 10 lanes
    d == historyCtx && ls.length == 1 && ls.all fun l => !t.noHistory l.leaf l.pa && ok t l
  | _ => false
def answers (t : State) (l : AsofLane) : Bool := !t.early l && decide (t.leastAsof 0 l ≤ l.at_) && match t.readAsof l.leaf l.pa 4 l.at_ with
  | .ok _ => true
  | .error _ => false
def asofAccess : Access := { access0 .asof { lane0 with pte := 0x1BF, asof := 3, done := true, old := 7 } with full := false }
theorem meets_AsofLoads : historyCtx.eff ≠ 0 ∧ (∀ tf ∈ [(2, 0), (9, 5), (9, 1)],
      issuesB (asofState tf.1 tf.2) (0, false) historyCtx (nextSlot historyCtx.pc) = true) ∧
    asofPlan (asofState 2 0) (fun t l => t.early l) = true ∧
    asofPlan (asofState 9 5) (fun t l => !t.early l && decide (l.at_ < t.leastAsof 0 l)) = true ∧
    asofPlan (asofState 9 1) answers = true ∧
    (let s : State := { historyBase with wgs := [sharedWg], accesses := [asofAccess], warps := [historyWarp] };
     s.access? asofAccess.id = some asofAccess ∧ asofAccess.op = .asof ∧ s.warp? asofAccess.warp = some historyWarp ∧
     asofAccess.eff.getLsbD 0 = true ∧ (asofAccess.lanes.find? fun z => z.lane == 0).isSome = true ∧ asofAccess.uniform = false ∧
     asofAccess.dst + max 1 (asofAccess.n / 4) ≤ historyWarp.regs.length) := by decide +kernel

theorem meets_StableFrontier : ({ base with tick := 128 } : State).tick % 64 = 0 ∧ base.counted 7 = true := by decide +kernel

/-- An entry of the TLB that an access of another page in flight does not use; and a page with history. -/
theorem meets_InvalidationsAndOwners : (let s : State := { flying .load lane0 with tlb := [{ die := 0, asid := 1, vpage := 5, level := 4, pte := 0x5001, pteAt := 0x4028 }] };
      (s.accesses.all fun a => a.lanes.all fun x => x.done || !invalHits (.asid 1) a.asid x.va.toNat 1
        (match s.tlbFind a.die a.asid x.va with
          | some t => pteG t.pte
          | none => false)) = true) ∧
    historyBase.walk 0 0x20000 = .leaf 2 0x3000 0x1BF ∧ pteH 0x1BF = true ∧ homeOf (pteAddr 0x1BF) < 8 := by decide +kernel


/-! ### Copies, arrival barriers, tickets -/

/-- v20 and v21 hold a copy's destination and source in shared memory, v22 its count, v23 its barrier, v24 and v25 strides, v26 a
phase, v27 two rows of 32 bytes; ticket 2 is PENDING, ticket 3 names a copy that has ended DONE. -/
def copyWarp : Warp :=
  { regs [(20, 512), (21, 1024), (22, 64), (23, 0), (24, 96), (25, 64), (26, 1), (27, 0x20020)] with tickets := (warp0.tickets.set 2 (ticketVal 1 0 1 0 0 5)).set 3 (ticketVal 0 0 1 0 0 4) }
def copyCtx : Ctx := ctxOf launch0 sharedWg copyWarp
def copyState (i : Instr) : State := world launch0 sharedWg copyWarp i
def copyForm : FormX := { dst := 2, xa := 20, xb := 21, xc := 22, xd := 23, xe := 24 }
/-- The same with no barrier aligned, with every range entry taken, and with a count of 0. -/
def fullWarp : Warp := { copyWarp with ranges := (List.range 8).map fun n => { op := n, space := .sh, write := true, first := 0, last := 0 } }
def fullCtx : Ctx := ctxOf launch0 sharedWg fullWarp
theorem meets_CopyIssue : ∀ two, let f : FormX := { copyForm with xc := if two then 27 else 22 }; let i : Instr := if two then .cpy2d f else .cpy f
    let s := copyState i; let bad : FormX := { f with xd := 26 }; let none0 : FormX := { f with xc := 23 }; let t := world launch0 sharedWg fullWarp i
    issuesB s f.guard copyCtx (nextSlot copyCtx.pc) = true ∧ copyCtx.eff ≠ 0 ∧ s.copyFault copyCtx f two = none ∧
    s.copyWaits copyCtx f two = none ∧ (s.copyArgs copyCtx f two).count ≠ 0 ∧
    (s.copyArgs copyCtx none0 two).count = 0 ∧ s.copyFault copyCtx none0 two = none ∧ s.copyWaits copyCtx none0 two = none ∧
    (s.copyFault copyCtx bad two).map (·.1) = some 8 ∧
    t.ctx? f.guard = some fullCtx ∧ t.copyFault fullCtx f two = none ∧ t.copyWaits fullCtx f two ≠ none := by decide +kernel

/-- An engine's access goes on. -/
def isOk {α : Type} : EngineOut α → Bool
  | .ok _ _ => true
  | _ => false
/-- A copy of 64 bytes of shared memory with a barrier, not started. -/
def copy0 : Copy :=
  { id := 9, die := 0, unit := 0, seq := 5, warp := warp0.uid, wg := wg0.uid, launch := launch0.id, node := 0, asid := 0, lanes := 0xFFFFFFFF,
    reg := some 2, dspace := .sh, sspace := .sh, dst := .key (sharedKey wg0.uid 512), src := .key (sharedKey wg0.uid 1024),
    srcEnd := sharedKey wg0.uid 4096, count := 64, mode := .plain, shd := false, barrier := some (sharedKey wg0.uid 0) }
def copying (p : Copy) : State := { base with wgs := [sharedWg], warps := [copyWarp], copies := [p] }
theorem meets_CopyEngine_start : (copying copy0).copy? copy0.id = some copy0 ∧ copy0.started = false ∧ copy0.ending = 0 ∧ copy0.cancel = false ∧
    copy0.stall = none ∧ (copying copy0).acknowledged copy0.warp copy0.id copy0.lanes = true ∧ (copying copy0).engineTakes copy0 = true ∧
    copy0.mode.staged = false ∧ copy0.shd = false := by decide +kernel
def started0 : Copy := { copy0 with started := true, pending := copy0.sectors }
def sector0 : Nat := sharedKey wg0.uid 512 / 32
theorem meets_CopyEngine_delivery : Memory.wf (copying started0).mem = true ∧ noReadersB (copying started0) = true ∧
    (copying started0).copy? started0.id = some started0 ∧ ((copying started0).engineTurn 0 0).map (·.2.2) = some started0.id ∧
    sector0 ∈ started0.pending ∧ (copying started0).poisonAt (started0.src.start) started0.count = none ∧
    sharedKey wg0.uid 0 + 16 ≤ sector0 * 32 ∧ started0.mode = .plain ∧ 0 < started0.count ∧
    (match (copying started0).sectorData started0 sector0 with
    | .ok t bs => isOk (t.writeSector started0 bs)
    | _ => false) = true := by decide +kernel
theorem meets_CopyEnd : (copying { copy0 with cancel := true }).copy? copy0.id = some { copy0 with cancel := true } ∧
    (let p := { copy0 with started := true, mode := .q .f32, scale := 0x20008 }; (copying p).copy? p.id = some p ∧
      isOk ((copying p).foldScale p) = true) ∧
    (let p := { copy0 with ending := 2, reason := 6 }; (copying p).copy? p.id = some p ∧ p.pending = [] ∧ p.ending ≠ 0) ∧
    (let p := { copy0 with started := true }; (copying p).copy? p.id = some p ∧ p.pending = [] ∧ p.started = true ∧ p.ending = 0 ∧ p.stall = none ∧
      ∀ a ∈ (copying p).accesses, a.op ≠ .copyWrite p.id) := by decide +kernel

/-- publish of ticket 3, its shadow of one page held; ticket 2 is not DONE. -/
def shadowPage0 : ShadowPage := { va := 0x20000, size := 4096, old := 0x20000, new := 0x50000, clen := 0 }
def shadow0 : Shadow := { copy := 8, die := 0, unit := 0, seq := 4, warp := warp0.uid, wg := wg0.uid, node := 0, asid := 0, reg := some 3, pages := [shadowPage0] }
def publishForm (t : BitVec 21) : FormX := { dst := 6, ops := t }
def shadowed (s : State) : State := { s with shadows := [shadow0], ends := [{ kind := 1, die := 0, unit := 0, seq := 4, state := 0, reason := 0 }] }
def publishing (t : BitVec 21) : State := shadowed (copyState (.publish (publishForm t)))
def waitingPublish : State := shadowed (blocked (.publish 6 [3] 1))
/-- Another warp's load of the page the shadow replaces. -/
def busyAccess : Access := { access0 .load lane0 with warp := 99 }
theorem meets_Publish : ((publishing 4).ctx? (0, false) = some copyCtx ∧ copyCtx.w.anyPending (FormX.tickets (publishForm 4)) = true) ∧
    issuesB (publishing 8) (0, false) copyCtx (nextSlot copyCtx.pc) = true ∧ copyCtx.eff ≠ 0 ∧ 6 + 2 ≤ copyCtx.w.regs.length ∧
    (copyCtx.w.anyPending (FormX.tickets (publishForm 8)) || (publishing 8).pendingFor copyCtx.w.uid copyCtx.eff) = false ∧
    ({ publishing 8 with shadows := [] } : State).publishable copyCtx.w (FormX.tickets (publishForm 8)) = none ∧
    (publishing 8).publishable copyCtx.w (FormX.tickets (publishForm 8)) = some [shadow0] ∧ (publishing 8).swapBusy [shadow0] = false ∧
    (let s : State := { publishing 8 with accesses := [busyAccess] }; s.swapBusy [shadow0] = true ∧ s.ctx? (0, false) = some copyCtx ∧
      (copyCtx.w.anyPending (FormX.tickets (publishForm 8)) || s.pendingFor copyCtx.w.uid copyCtx.eff) = false ∧
      s.publishable copyCtx.w (FormX.tickets (publishForm 8)) = some [shadow0]) ∧
    (publishing 8).walk shadow0.asid shadowPage0.va = .leaf 2 0x3000 0x19F ∧ Memory.wf (publishing 8).mem = true ∧ noReadersB (publishing 8) = true := by
  decide +kernel
def publishWarp : Warp := { blockedAt (.publish 6 [3] 1) with tickets := copyWarp.tickets }
theorem meets_Publish_event : let s : State := { waitingPublish with warps := [publishWarp] }; s.warp? warp0.uid = some publishWarp ∧ (publishWarp.entry 0).st = .block ∧
    (publishWarp.entry 0).wait = .publish 6 [3] 1 ∧ (publishWarp.anyPending [3] || s.pendingFor warp0.uid 1) = false ∧
    ({ s with shadows := [] } : State).publishable publishWarp [3] = none ∧ s.publishable publishWarp [3] = some [shadow0] ∧ s.swapBusy [shadow0] = false := by
  decide +kernel

/-- Barrier instructions on the barrier at 0 of shared memory; v26 holds 1 and v23 holds 0. -/
def barrierForm (x : BitVec 8) : FormX := { dst := 3, xa := 23, xb := x }
def barrierKey : Nat := sharedKey wg0.uid 0
/-- Nothing stops a barrier instruction: neither a check, nor a wait, nor poison. -/
def abGoes (s : State) (f : FormX) (q : AbAsk) : Bool :=
  s.abFault copyCtx f q.reads == none && s.abWaits copyCtx f q.releases == none && s.poisonAt (s.abKey copyCtx f) 16 == none
def overrunState (i : Instr) : State := (copyState i).write (barrierKey + 12) [2]
theorem meets_ArrivalBarriers : (∀ x ∈ [(26 : BitVec 8), 23], let f := barrierForm x; let s := copyState (.abwait f)
    Memory.wf s.mem = true ∧ noReadersB s = true ∧ issuesB s (0, false) copyCtx (nextSlot copyCtx.pc) = true ∧
    ([FormX.abinitAsk f, FormX.abexpAsk f, FormX.abarvAsk f, FormX.abwaitAsk f].all (abGoes s f)) = true ∧ s.abKey copyCtx f = barrierKey ∧
    (s.abar barrierKey).overrun = false ∧
    (let t := overrunState (.abwait f); (t.abar barrierKey).overrun = true ∧ t.ctx? (0, false) = some copyCtx ∧
      [FormX.abexpAsk f, FormX.abarvAsk f, FormX.abwaitAsk f].all (abGoes t f) = true)) ∧
    copyCtx.eff ≠ 0 ∧ copyCtx.w.preds.length = 7 ∧
    ((copyState (.abwait (barrierForm 26))).abar barrierKey).phase ≠ (copyCtx.w.lane 26 copyCtx.low).getLsbD 0 ∧
    ((copyState (.abwait (barrierForm 23))).abar barrierKey).phase = (copyCtx.w.lane 23 copyCtx.low).getLsbD 0 := by decide +kernel
theorem meets_ArrivalBarriers_exp : let f : FormX := { barrierForm 26 with ops := 0x40000 }
    f.opsAt 93 93 = 1 ∧ abGoes (copyState (.abarv f)) f (FormX.abarvAsk f) = true := by decide +kernel

def phaseWait : Wait := .phase barrierKey 0 0 false 1 [] none
/-- A barrier whose phase has flipped, and one that has overrun. -/
def barrierState (w : Byte) : State := (blocked phaseWait).write (barrierKey + 12) [w]
theorem meets_ArrivalBarriers_wake : (barrierState 1).warp? warp0.uid = some (blockedAt phaseWait) ∧ ((blockedAt phaseWait).entry 0).st = .block ∧
    ((barrierState 1).abar barrierKey).overrun = false ∧ ((barrierState 1).abar barrierKey).phase ≠ false ∧
    (barrierState 2).warp? warp0.uid = some (blockedAt phaseWait) ∧ ((barrierState 2).abar barrierKey).overrun = true := by decide +kernel

/-- tkwait of the PENDING ticket 2 and of ticket 3; tkset of v20 and v21, a value that is not PENDING; of v26 and v27, a PENDING value
of copy engine 0. -/
def ticketForm (t : BitVec 8) : FormX := { dst := t }
theorem meets_Tickets : (copyState (.tkwait (ticketForm 2))).ctx? (0, false) = some copyCtx ∧ copyCtx.eff ≠ 0 ∧ tkState (copyCtx.w.ticket 2) = 1 ∧
    issuesB (copyState (.tkwait (ticketForm 3))) (0, false) copyCtx (nextSlot copyCtx.pc) = true ∧ tkState (copyCtx.w.ticket 3) ≠ 1 ∧
    issuesB (copyState (.tkcancel (ticketForm 2))) (0, false) copyCtx (nextSlot copyCtx.pc) = true ∧
    (copyState (.tkcancel (ticketForm 2))).copies = [] ∧ ({ copyState (.tkcancel (ticketForm 2)) with copies := [copy0] } : State).ctx? (0, false) = some copyCtx ∧
    copy0.named (copyCtx.w.ticket 2) = true ∧
    (dstRegs 6 true).all (fun n => decide (n < copyCtx.w.regs.length)) = true ∧ copyCtx.deadRead [20, 21] = none := by decide +kernel
def pendingTicket (t : DWord) : Ctx := ctxOf launch0 sharedWg (regs [(20, lo32 t), (21, hi32 t)])
theorem meets_Tickets_set : ∀ kind ∈ [0, 1], let c := pendingTicket (ticketVal 1 0 kind 0 0 7); let v := c.w.pair 20 c.low
    issuesB (world launch0 sharedWg c.w (.tkset { dst := 4, xa := 20 })) (0, false) c (nextSlot c.pc) = true ∧ c.deadRead [20, 21] = none ∧
    tkState v = 1 ∧ validUnit v = (kind == 1) := by decide +kernel

/-- Ticket 2 to be resolved: its die offline, its record held, neither, its copy in progress. -/
def resolving (s : State) : State := { s with warps := [copyWarp], resolving := [(warp0.uid, 2)] }
theorem meets_Tickets_resolution : ((resolving base).warp? warp0.uid = some copyWarp ∧ (warp0.uid, 2) ∈ (resolving base).resolving ∧
      tkState (copyWarp.ticket 2) = 1 ∧ tkDie (copyWarp.ticket 2) < 8) ∧
    (resolving (base.modDie 0 fun d => { d with st := 2 })).online 0 = false ∧ (resolving base).online 0 = true ∧
    ((resolving { base with ends := [{ kind := 1, die := 0, unit := 0, seq := 5, state := 2, reason := 5 }] }).endRecord? (copyWarp.ticket 2)).isSome = true ∧
    (resolving base).endRecord? (copyWarp.ticket 2) = none ∧ (resolving base).inProgress (copyWarp.ticket 2) = false ∧
    (resolving (copying copy0)).endRecord? (copyWarp.ticket 2) = none ∧ (resolving (copying copy0)).inProgress (copyWarp.ticket 2) = true := by
  decide +kernel

/-! ### The circle line -/

/-- v28 holds the name 5, v30 and v31 the address of a source, v20 a destination, v23 a barrier, v24 and v25 a version. -/
def lineWarp : Warp := regs [(20, 4096), (23, 0), (24, 1), (25, 0), (28, 5), (30, 0x20000), (31, 0)]
def lineWg : Workgroup := { wg0 with sharedBytes := 8192 }
def lineCtx : Ctx := ctxOf launch0 lineWg lineWarp
def lineState (i : Instr) : State := world launch0 lineWg lineWarp i
def lineForm : FormX := { dst := 8, xa := 30, xb := 28 }
def catchForm : FormX := { dst := 8, xa := 20, xb := 28, xc := 23, xd := 24, ops := 0x10000 }
/-- A request of each kind at die 0. -/
def lineOp (op : LineOp) (st : LineStage) : StationOp :=
  { id := 41, op := op, die := 0, seq := 3, warp := warp0.uid, wg := wg0.uid, launch := launch0.id, node := 0, asid := 0, lanes := 1, reg := some 2,
    name := 5, place := .key (dieStoreKey 0 0), space := .ds, core := 0, barrier := some (dieStoreKey 0 8192), min := none, clock := 4, stage := st,
    slot := 0, payload := [], arrived := 0, srcStamp := 6, coach := 70 }
/-- Nothing stops an operation; a check stops it; a full station makes it wait. -/
def lineGoes (s : State) (q : LineAsk) : Bool := q.fault lineCtx == none && s.lineWaits lineCtx q.entry == none
def fullStation (i : Instr) : State := { lineState i with lineOps := List.replicate 16 (lineOp .board .waiting) }
/-- A launch that checks for dead reads. -/
def checkedPacket : LaunchPacket := { launch0.packet with flags := 16 }
def checkedLaunch : Launch := { launch0 with packet := checkedPacket }
def checkedCtx : Ctx := { lineCtx with l := checkedLaunch }
theorem meets_LineIssue : (let s := lineState (.board lineForm);
      issuesB s (0, false) lineCtx (nextSlot lineCtx.pc) = true ∧ lineCtx.eff ≠ 0 ∧ lineGoes s (s.boardAsk lineForm) = true ∧
      lineGoes s (FormX.alightAsk lineForm) = true ∧ lineForm.dst.toNat + 4 ≤ lineCtx.w.regs.length ∧ lineCtx.deadRead [28] = none) ∧
    (let s := lineState (.catchTile catchForm);
      issuesB s (0, false) lineCtx (nextSlot lineCtx.pc) = true ∧ lineGoes s (s.catchAsk catchForm) = true ∧
      lineGoes s (s.catchAsk { catchForm with ops := 0x10000 + 0x10000 }) = true) ∧
    (let s := lineState (.board lineForm);
     let bad : FormX := { lineForm with xa := 24 };
     (((s.boardAsk bad).fault lineCtx).isSome = true) ∧ ((s.catchAsk { catchForm with xa := 28 }).fault lineCtx).isSome = true ∧
      ((FormX.alightAsk { lineForm with xb := 200 }).fault checkedCtx).isSome = true) ∧
    (let s := fullStation (.board lineForm); s.ctx? (0, false) = some lineCtx ∧ (s.boardAsk lineForm).fault lineCtx = none ∧
      s.lineWaits lineCtx true ≠ none ∧ s.lineWaits lineCtx false ≠ none) := by decide +kernel

/-- A coach on the line in slot 0, which stands at its platform. -/
def coach0 : Coach :=
  { slot := 0, node := 0, name := 5, onLine := true, version := 2, poison := false, srcDie := 0, src := .key (dieStoreKey 0 0), fresh := 70 }
def onLineState (o : StationOp) (cs : List Coach) : State :=
  { base with lineOps := [o], coaches := cs, lineShift := 256, cycle := 2000, regions := base.regions.map fun r => { r with coaches := 256 } }
theorem meets_Stations_requests : (∀ op ∈ [LineOp.board, .alight, .catchTile, .replace], ∀ cs ∈ [[], [coach0], [{ coach0 with onLine := false }]],
      let o := lineOp op .waiting; let s := onLineState o cs
      (s.lineOps.filter fun x => x.id == o.id) = [o] ∧ o.stage = .waiting ∧ (s.die o.die).bridged = false ∧
      s.acknowledged o.warp o.id o.lanes = true ∧ s.coachOf o.node o.name = cs.head?) ∧
    (let s := onLineState (lineOp .board .waiting) []; s.freeSlot = some 0 ∧ s.lineRoom 0 = true ∧
      ({ s with regions := s.regions.map fun r => { r with coaches := 0 } } : State).lineRoom 0 = false) := by decide +kernel
theorem meets_Stations_reads : let o := { lineOp .board .reading with stall := none }; let s := onLineState o []
    s.lineOp? o.id = some o ∧ o.stage = .reading ∧ (s.die o.die).bridged = false ∧ o.place = .key (dieStoreKey 0 0) ∧
    s.poisonAt (dieStoreKey 0 0) 4096 = none ∧ s.lineStart + 4 * (s.lineShift + 1) ≤ s.cycle ∧ s.lineOps.any s.lineDue = false ∧
    (∀ c ∈ s.coaches, c.staged = none) ∧ isOk (s.readTile (stationReader o.id o.die o.node o.launch o.place o.clock)) = true := by
  decide +kernel
/-- Ready with 4,096 bytes; what is due at its passage does not depend on them. -/
def loaded (op : LineOp) : StationOp := { lineOp op .ready with payload := List.replicate 4096 7 }
theorem meets_Passages : (loaded .board).payload.length = 4096 ∧ (loaded .replace).payload.length = 4096 ∧
    (onLineState (loaded .board) [coach0]).memWf ∧ (onLineState (loaded .board) [coach0]).lineOp? 41 = some (loaded .board) ∧
    (onLineState (loaded .replace) [coach0]).lineOp? 41 = some (loaded .replace) :=
  ⟨List.length_replicate, List.length_replicate, by unfold State.memWf; decide +kernel, rfl, rfl⟩
theorem meets_Passages_due : (onLineState (loaded .board) [coach0]).passing (loaded .board) = true ∧
    (onLineState (loaded .replace) [coach0]).swapDue (loaded .replace) = true ∧
    (onLineState (loaded .board) [coach0]).coach? (loaded .board).coach = some coach0 ∧
    (∀ op ∈ [LineOp.catchTile, .alight], let o := lineOp op .ready; let s := onLineState o [coach0]
      Memory.wf s.mem = true ∧ noReadersB s = true ∧ s.lineOp? o.id = some o ∧ s.coach? o.coach = some coach0) ∧
    (onLineState (lineOp .alight .ready) [coach0]).alightDue (lineOp .alight .ready) = true ∧
    (let o := lineOp .catchTile .ready; let s := onLineState o [coach0]; s.catchEnds o = true ∧ s.catchServed o = true ∧ coach0.poison = false ∧
      (s.lineOps.any fun x => x.coach == o.coach && x.die == o.die && (s.swapDue x || s.alightDue x)) = false ∧
      dieStoreKey 0 0 + 4096 ≤ dieStoreKey 0 8192) := by decide +kernel
/-- A coach whose source has been read, at its platform. -/
def staged0 : Reboard := { die := 0, bytes := List.replicate 4096 7, stamp := 6, since := 0 }
def stagedCoach : Coach := { coach0 with poison := true, staged := some staged0 }
theorem meets_CoachRecovery_land : let s := onLineState (lineOp .alight .waiting) [stagedCoach]
    stagedCoach.staged = some staged0 ∧ s.coach? stagedCoach.fresh = some stagedCoach ∧ s.stationServes 0 = true ∧ s.atPlatform 0 0 = true ∧
    staged0.since < s.lineShift ∧ staged0.bytes.length = 4096 :=
  ⟨rfl, rfl, by decide +kernel, by decide +kernel, by decide +kernel, List.length_replicate⟩
/-- The coach poisoned; a lost die whose platform it stood at; a region that is not installed. -/
def badCoach : Coach := { coach0 with poison := true }
def badState : State := onLineState (lineOp .catchTile .ready) [badCoach]
theorem meets_CoachRecovery : Memory.wf badState.mem = true ∧
    badState.coaches.find? (fun x => x.slot == badCoach.slot && x.onLine && x.poison && x.staged.isNone) = some badCoach ∧ badState.coach? badCoach.fresh = some badCoach ∧
    isOk (badState.readTile (stationReader badCoach.fresh 0 badCoach.node 0 badCoach.src 0)) = true ∧
    badState.coaches.find? (fun x => x.slot == badCoach.slot && x.onLine && x.poison) = some badCoach ∧
    badState.reboardDie badCoach = some 0 ∧ badState.atPlatform badCoach.slot 0 = true ∧ badState.poisonAt (dieStoreKey 0 0) 4096 = none ∧
    (let s := badState.modDie 0 fun d => { d with st := 2, lossShift := some 256 }
     0 < s.dies.length ∧ (s.die 0).bridged = false ∧ (s.die 0).st ≠ 0 ∧ (s.die 0).lossShift ≠ none) ∧
    ((badState.region? 7).map (·.st)).getD 3 = 3 := by decide +kernel

/-! ### Launches, queues, steps, pre-emption -/

/-- launch reads v20 and v21; a consumer waits for launch 7, which has ended, or has a workgroup to place. -/
def launchWarp : Warp := regs [(20, 0x40000), (21, 0)]
def launchCtx : Ctx := ctxOf launch0 wg0 launchWarp
def launchState (i : Instr) : State := world launch0 wg0 launchWarp i
def launchForm : FormX := { dst := 2, xa := 20 }
def consumer : Launch := { launch0 with packet := { launch0.packet with prod := [7] } }
def producer : Launch := { launch0 with id := 7, phase := .ended }
def running : Launch := { producer with phase := .running, total := 2 }
def depsCtx : Ctx := ctxOf consumer wg0 launchWarp
def depsState (ls : List Launch) : State := { world consumer wg0 launchWarp (.waitdep { dst := 1 }) with launches := consumer :: ls }
def depsWarp : Warp := blockedAt (.deps 1 1)
theorem meets_LaunchInstructions : issuesB (launchState (.launch launchForm)) (0, false) launchCtx (nextSlot launchCtx.pc) = true ∧
    launchCtx.eff ≠ 0 ∧ launchCtx.deadRead [20, 21] = none ∧ (launchState (.launch launchForm)).launchWaits launchCtx = none ∧
    (let s : State := { launchState (.launch launchForm) with accesses := [{ access0 .load lane0 with ord := .acq }] };
     s.ctx? (0, false) = some launchCtx ∧ s.launchWaits launchCtx ≠ none) ∧
    issuesB (launchState (.trigger {})) (0, false) launchCtx (nextSlot launchCtx.pc) = true ∧ launchCtx.w.trigWait = [] ∧
    (launchState (.trigger {})).pendingFor launchCtx.w.uid launchCtx.eff = false ∧
    issuesB (depsState [producer]) (0, false) depsCtx (nextSlot depsCtx.pc) = true ∧ depsCtx.w.preds.length = 7 ∧
    consumer.producers.all ((depsState [producer]).producerTriggered consumer) = true ∧
    (depsState [running]).ctx? (0, false) = some depsCtx ∧ consumer.producers.all ((depsState [running]).producerTriggered consumer) = false ∧
    launchCtx.deadRead [20] = none ∧ FormX.opsAt launchForm 75 75 = 0 ∧ FormX.opsAt { launchForm with ops := 1 } 75 75 = 1 ∧
    (dstRegs 2 false).all (fun n => decide (n < launchCtx.w.regs.length)) = true ∧
    (let s : State := { base with warps := [depsWarp], launches := [consumer, producer] };
     s.warp? depsWarp.uid = some depsWarp ∧ s.launch? depsWarp.launch = some consumer ∧ (depsWarp.entry 0).st = .block ∧
     (depsWarp.entry 0).wait = .deps 1 1 ∧ consumer.producers.all (s.producerTriggered consumer) = true) := by decide +kernel

/-- A queue of one packet: its descriptor at 0x40000, its ring at 0x50000. -/
def queueBytes (tail : Nat) : List Byte := leBytes 8 0x50000 ++ leBytes 4 (2 ^ 31 + 2) ++ leBytes 4 0 ++ leBytes 8 tail ++ leBytes 8 0
def packetBytes (threads : Nat) : List Byte :=
  leBytes 2 1 ++ leBytes 2 0 ++ leBytes 4 threads ++ leBytes 8 0x10000 ++ leBytes 4 1 ++ leBytes 4 1 ++ leBytes 4 1 ++ leBytes 2 8 ++ [1, 0xFF]
    ++ leBytes 4 0 ++ leBytes 4 0 ++ leBytes 4 0 ++ [1, 8] ++ leBytes 2 0 ++ (List.replicate 4 (leBytes 8 noLaunch)).flatten ++ leBytes 8 0 ++ leBytes 8 0
    ++ leBytes 8 0 ++ leBytes 8 0 ++ leBytes 8 0 ++ leBytes 8 0
def queueRegion : Region := { base.regions.headD { node := 0, parent := 0, asid := 0, ovr := 0, st := 0, cshare := 0, priv := false, policy := 0, prio := 0,
                                                   cores := [], dsbytes := [], coaches := 0, shadow := 0, hshare := 0, hwindow := 0, qtable := 0, excl := [] }
                              with qtable := 0x40000 }
def queueState (tail : Nat) (bad : Bool) : State :=
  State.write (State.write { base with regions := [queueRegion], submitted := [⟨0, 0, []⟩], negotiated := [1, 1, 0, 0], launches := [] }
    0x40000 (if bad then List.replicate 32 0 else queueBytes tail)) 0x50000 (packetBytes 32)
/-- The queue as the distributor finds it: HEAD 0, and TAIL 0 or 1. -/
def queueFound (s : State) (tail : Nat) : Bool := (s.readQueue 0 0).2 == some (0x50000, 4, tail, 0)
theorem meets_PacketsTaken : (∀ tail ∈ [0, 1], let s := queueState tail false
      s.submitted.find? (fun p => p.node == 0 && p.queue == 0) = some ⟨0, 0, []⟩ ∧ queueFound s tail = true ∧
      (s.launches.any fun l => l.id == launchId 0 0 0 && l.open_) = false ∧
      (((s.readQueue 0 0).1.frontRead 0 0x50000 128).1.frontWrite 0 0 0x40018 (leBytes 8 1) 0 none).isSome = true) ∧
    (let s : State := { queueState 1 false with launches := [{ id := launchId 0 0 0, node := 0, source := 0, seq := 0 }] }
     queueFound s 1 = true ∧ (s.launches.any fun l => l.id == launchId 0 0 0 && l.open_) = true) ∧
    ((queueState 1 true).readQueue 0 0).2 = none ∧
    (({ queueState 1 false with regions := [{ queueRegion with st := 2 }] } : State).readQueue 0 0).2 = none := by decide +kernel
/-- A device launch whose packet is to be read. -/
def deviceLaunch : Launch := { id := launchId 0 16 0, node := 0, source := 16, seq := 0, phase := .reading, address := 0x50000, issuer := some (warp0.uid, 0, 1) }
theorem meets_PacketsTaken_device : let s : State := { queueState 1 false with launches := [deviceLaunch] }
    s.launches.find? (fun l => l.source == 16 && l.seq == 0 && l.phase == .reading) = some deviceLaunch ∧
    deviceLaunch.cancelled = false ∧ s.acknowledged warp0.uid 0 1 = true ∧ (s.frontRead (s.effAsid 0) 0x50000 128).2.isSome = true := by
  decide +kernel

/-- No version negotiated; a workgroup of 2,000 threads; no die online. -/
theorem meets_PacketsTaken_validation : (packetBytes 32).length = 128 ∧ (parsePacket (packetBytes 32)).timetable = 0 ∧
    (parsePacket (packetBytes 32)).travel = false ∧ packetFault (parsePacket (packetBytes 32)) deviceLaunch (base.negotiated.getD 1 0) none = some 0 ∧
    packetFault (parsePacket (packetBytes 32)) deviceLaunch 1 none = none ∧ packetFault (parsePacket (packetBytes 2000)) deviceLaunch 1 none = none ∧
    (let p := parsePacket (packetBytes 2000); tooLarge p p.regs p.shared p.spill = some 1) ∧
    (let p := parsePacket (packetBytes 32); tooLarge p p.regs p.shared p.spill = none ∧ 0 < p.mindie) ∧
    (let s : State := { queueState 1 false with dies := base.dies.map fun d => { d with st := 2 } }; ∀ d, d < 8 → s.online d = false) := by
  decide +kernel

/-- A launch whose workgroups have ended, and one with a step due. -/
def endedState (l : Launch) : State := { base with launches := [l], wgs := [], warps := [] }
def steppedLaunch : Launch := { launch0 with stepped := true }
theorem meets_Distributor_launchEnds : (endedState launch0).launch? launch0.id = some launch0 ∧ noReadersB (endedState launch0) = true ∧
    (endedState launch0).completes launch0 = true ∧ (endedState steppedLaunch).launch? steppedLaunch.id = some steppedLaunch ∧
    steppedLaunch.phase = .running ∧ steppedLaunch.stepDue = true ∧ (endedState steppedLaunch).wgsEnded steppedLaunch = true ∧
    (endedState steppedLaunch).accessesDone steppedLaunch = true ∧ (endedState steppedLaunch).opsDone steppedLaunch = true := by decide +kernel

/-- A launch with a workgroup to place, starved since cycle 1; one of lower priority. -/
def starving : Launch := { launch0 with total := 2, starved := 1 }
def lowRegion : Region := { queueRegion with node := 1, prio := 1 }
def lowLaunch : Launch := { launch0 with id := 9, node := 1 }
def lowState : State :=
  { base with launches := [starving, lowLaunch], regions := [queueRegion, lowRegion], wgs := [wg0, { wg0 with uid := 99, launch := 9 }], cycle := 20000 }
/-- A departed thread of segment 0, its queue with room and without. -/
def seg0 : Segment := { start := 0x10000, length := 64, replicas := [0], qdepth := 1, limit := 8, ocap := 0, ooff := 0 }
def travelLaunch : Launch := { launch0 with segments := [seg0], packet := { launch0.packet with flags := 4 }, regs := 8 }
def record0 : ThreadRecord := { nextPc := 0x10000, clock := 0, shipped := 1, tid := 5, preds := 0, regs := List.replicate 8 3, entered := 0 }
def departure0 : Departure := { launch := launch0.id, die := 0, core := 0, warp := warp0.uid, lane := 0, seg := 0, record := record0 }
def queue0 (rs : List ThreadRecord) : ArrivalQueue := { launch := launch0.id, logical := 0, die := 0, core := 0, seg := 0, records := rs }
def travelState (rs : List ThreadRecord) : State :=
  { base with launches := [travelLaunch], stages := [departure0], queues := [queue0 rs], wgs := [], warps := [], cycle := 100 }
def moved (s : State) : State := State.moveOverflow launch0.id 0 overflowTurns { s with stages := s.stages.erase departure0 }
theorem meets_Distributor_events : lowState.launch? starving.id = some starving ∧ lowState.servable starving = true ∧
    lowState.launch? lowLaunch.id = some lowLaunch ∧ starving.phase ≠ .ended ∧ starving.nextWg < starving.total ∧ starving.hinted = false ∧
    starving.starved ≠ 0 ∧ starving.starved + 10000 ≤ lowState.cycle ∧ lowState.effPrio lowLaunch.node < lowState.effPrio starving.node ∧
    (∃ g ∈ lowState.wgs, g.launch = lowLaunch.id ∧ g.done = false ∧ g.die ∈ starving.dies) := by decide +kernel
theorem meets_Distributor_scheduler : let pc := (warp0.entry 0).pc; let i : Instr := .iaddI { dst := 3, sa := 1, ty := 7, imm := 7 }
    wordState.issue = none ∧ wordState.hasIssued 0 = false ∧ wordState.choose 0 = some (warp0, 0) ∧
    wordState.launch? warp0.launch = some launch0 ∧ wordState.wg? warp0.wg = some wg0 ∧
    wordState.fetchLine warp0 (wordState.asidOf warp0) 0 pc = (fetched.1, .line line0) ∧
    (match lineCheck warp0.nreg launch0.packet.travel line0 (pc.toNat % 8) with
    | .ok x => x == (i, none)
    | .error _ => false) = true ∧
    fetched.1.sequentialFault launch0 warp0 0 pc i none = none ∧
    ({ wordState with lastIssued := [(0, wordState.cycle, 0, 0)] } : State).hasIssued 0 = true := by decide +kernel
theorem meets_Distributor_ship : (∀ rs ∈ [[], [record0]], let s := travelState rs
      s.stages.find? (fun x => x.die == 0 && x.core == 0 && x.record.tid.toNat == 5 && s.shippable x) = some departure0 ∧
      (s.stages.any fun x => x.launch == launch0.id && x.record.tid.toNat < 5 && s.shippable x) = false ∧
      (moved s).launch? launch0.id = some travelLaunch) ∧
    ((moved (travelState [])).ship travelLaunch 0 record0).isSome = true ∧ ((moved (travelState [record0])).ship travelLaunch 0 record0) = none ∧
    ((travelState [record0]).formOn 0 0).isSome = true := by decide +kernel

/-- A launch pre-empted, of either kind; its workgroup saved once it has halted; and restored. -/
def halted0 : Launch := { launch0 with halted := true }
def savedOne : SavedWg := { wg := wg0, warps := [warp0], spill := [] }
def savedLaunch : Launch := { launch0 with saved := [savedOne] }
theorem meets_Preemption : base.launch? launch0.id = some launch0 ∧ launch0.phase = .running ∧ launch0.halted = false ∧ launch0.killed = false ∧
    launch0.cancelled = false ∧ launch0.suspended = false ∧
    (let s := travelState [record0]; s.launch? travelLaunch.id = some travelLaunch ∧ travelLaunch.packet.travel = true ∧
      travelLaunch.phase = .running ∧ s.noRecords travelLaunch = false) ∧ (base.wgs.any fun g => g.launch == launch0.id && !g.done) = true ∧ launch0.packet.idempotent = false ∧
    ({ launch0 with packet := { launch0.packet with flags := 2 } } : Launch).packet.idempotent = true ∧
    (let s : State := { base with launches := [halted0] }
     s.wg? wg0.uid = some wg0 ∧ s.launch? wg0.launch = some halted0 ∧ (s.savedWith wg0).all (·.done) = false ∧ s.saveReady (s.savedWith wg0) = true) ∧
    (let s : State := { base with launches := [savedLaunch], wgs := [], warps := [], negotiated := [1, 1, 1, 1] }
     s.launches.find? (fun l => l.saved.any fun v => v.wg.uid == wg0.uid) = some savedLaunch ∧
     savedLaunch.saved.find? (fun v => v.wg.uid == wg0.uid) = some savedOne ∧ s.mayPlace savedLaunch = true ∧ savedLaunch.packet.consist < 2 ∧
     (s.restoreWg savedLaunch savedOne 0 0).isSome = true) := by decide +kernel

/-! ### Dies, firmware, the host and the fabric -/

/-- Core 0 of die 0 samples every 64 cycles at cycle 64; its cluster's buffer holds a record and has lost two. -/
def sampledState (cl : Cluster) : State :=
  ({ base with cycle := 64 }.modCore 0 0 fun c => { c with sampctl := 1 }).modDie 0 fun d => { d with clusters := d.clusters.set 0 cl, subnets := 3 }
def buffered : Cluster := { buffer := [5], lost := 2 }
theorem meets_SamplingAndPower : let s := sampledState buffered
    0 < s.dies.length ∧ 0 < s.cores.length ∧ 0 < (s.die 0).clusters.length ∧ (s.core 0 0).sampctl.getLsbD 0 = true ∧
    s.cycle % 2 ^ (6 + bitsOf (s.core 0 0).sampctl.toNat 1 4) = 0 ∧ (s.core 0 0).sampled.getD 0 0 ≠ s.cycle + 1 ∧
    ((s.die 0).clusters.getD 0 {}).gated = false ∧ (s.die 0).harvest.getLsbD 0 = true ∧
    sortBy (fun (w : Warp) => (w.slot + 16 - (s.core 0 0).rotors.getD 0 0) % 16) ((s.warpsOn 0 0).filter fun w => w.sched == 0) = [warp0] ∧
    ((s.die 0).clusters.getD 0 {}).buffer = 5 :: [] ∧ (s.die 0).ringSize = 0 ∧ 3 < (s.die 0).clusters.length ∧ s.clusterWarps 0 3 = [] ∧
    (((sampledState { gated := true, kept := 4 }).die 0).clusters.getD 0 {}).gated = true ∧
    (((sampledState { gated := true, kept := 4 }).die 0).clusters.getD 0 {}).kept ≠ 0 ∧
    (s.die 0).subnets.testBit (2 - 1) = true ∧ (s.die 0).subnets.testBit 1 = true ∧
    (let t := s.modDie 0 fun d => { d with ringSize := 2, ringBase := 4 };
     (t.die 0).ringSize ≠ 0 ∧ Memory.wf t.mem = true ∧ noReadersB t = true ∧ ((t.die 0).clusters.getD 0 {}).buffer = [5]) := by decide +kernel

/-- Die 3 in each of its states. -/
def dieState (d : Die) : State := base.modDie 3 fun _ => d
theorem meets_DiesAndPages_states : (3 < base.dies.length ∧ base.online 3 = true ∧ (base.die 3).mempath = true ∧ (base.die 3).fatal = 0 ∧ (base.die 3).st = 0) ∧
    (let s := dieState { harvest := 1, fatal := 2 }; s.online 3 = true ∧ (s.die 3).mempath = true ∧ (s.die 3).fatal ≠ 0) ∧
    (let s := dieState { harvest := 1, st := 1, lossShift := some 4 }; (s.die 3).st = 1 ∧ (s.die 3).mempath = true ∧ (s.die 3).lossShift ≠ none ∧ (s.die 3).st ≠ 3) ∧
    (let s := dieState { harvest := 1, st := 1, lossShift := some 4, mempath := false }; (s.die 3).lossShift ≠ none ∧ (s.die 3).mempath = false) := by
  decide +kernel

/-- The base's page, on die 1, which is evacuated, its tables on die 0, and a free page of die 2. -/
def movedPte : DWord := BitVec.ofNat 64 (homeKey 1 0 + 0x19F)
def evacuating : State :=
  (State.write { base with launches := [], warps := [], wgs := [] } 0x3000 (leBytes 8 movedPte.toNat)).modDie 1 fun d => { d with st := 2 }
def leaf1 : Leaf := { va := 0, level := 2, entry := 0x3000, pte := movedPte }
theorem meets_DiesAndPages_pageMoves : evacuating.rootOf 0 = some 0x1000 ∧
    (evacuating.walkTables 0 5 0 0x1000).find? (fun t => evacuating.evacuating (homeOf t) && evacuating.toMove (homeOf t) t) = none ∧
    evacuating.walk 0 0 = .leaf 2 0x3000 leaf1.pte ∧ evacuating.evacuating 1 = true ∧ evacuating.toMove 1 (pteAddr leaf1.pte) = true ∧
    evacuating.tablesOn 1 = [] ∧ evacuating.nextPage 1 = some (0, .leaf leaf1) ∧ evacuating.pageDue 0 0 = some (0, .leaf leaf1) ∧ evacuating.pageBusy (pteAddr leaf1.pte) leaf1.bytes = false ∧
    evacuating.destOk (homeKey 2 0) (pageSize leaf1.level) (roundUp leaf1.bytes 4096) .page = true ∧ homeOf (homeKey 2 0) < 8 ∧ Memory.wf evacuating.mem = true ∧
    evacuating.leavesIn (pteAddr leaf1.pte) leaf1.bytes = [(0, leaf1)] ∧ noReadersB evacuating = true ∧ 0x3000 + 8 ≤ homeKey 2 0 := by decide +kernel
/-- Die 0, which holds the tables, is evacuated; then no die is online. -/
def evacuating0 : State := evacuating.modDie 0 fun d => { d with st := 2 }
def nowhere (s : State) : State := { s with dies := s.dies.map fun d => { d with st := 2 } }
theorem meets_DiesAndPages_noDest : (evacuating0.walkTables 0 5 0 0x1000).find? (fun t => evacuating0.evacuating (homeOf t) && evacuating0.toMove (homeOf t) t) = some 0x1000 ∧
    evacuating0.pageBusy 0x1000 4096 = false ∧ evacuating0.destOk (homeKey 2 0) 4096 4096 .table = true ∧
    (nowhere evacuating0).noDest 4096 4096 .table = true ∧ (nowhere evacuating0).rootOf 0 = some 0x1000 ∧
    ((nowhere evacuating0).walkTables 0 5 0 0x1000).find? (fun t => (nowhere evacuating0).evacuating (homeOf t) && (nowhere evacuating0).toMove (homeOf t) t) = some 0x1000 := by
  decide +kernel

/-- Allocations clear of a ring of one page at 0, and meeting it. -/
theorem meets_FirmwareRegisters_ring : let v : DWord := 0x40000; let x : Die := { harvest := 0, ringSize := v.toNat / 2 ^ 18 % 2 ^ 14, ringBase := v.toNat % 2 ^ 14 }
    (base.allocs.any fun a => a.die == 0 && x.ringMeets a.base a.size) = false ∧
    (({ base with allocs := [{ die := 0, launch := none, node := 0, base := 0, size := 65536 }] } : State).allocs.any
      fun a => a.die == 0 && x.ringMeets a.base a.size) = true := by decide +kernel
theorem meets_FirmwareRegisters : svnState.boot = .firmware ∧ svnState.fusedSvn ≤ 2 ∧ 2 ≤ svnState.svn ∧ 0 < svnState.fusedSvn := by decide +kernel

/-- A lane that waits for firmware's decision; a region's block; a region's allocation. -/
def decidedWarp : Warp :=
  { oneLane with entries := oneLane.entries.set 0 { oneLane.entry 0 with siding := [{ key := 0x10000, lanes := 2, arrived := true, kind := .firmware 6 3 }] } }
def blockBytes (bad : Bool) : List Byte :=
  leBytes 2 (if bad then 0 else 1) ++ leBytes 2 0xFFFF ++ leBytes 2 0 ++ leBytes 2 0 ++ leBytes 4 0x7FF ++ leBytes 4 (2 ^ 30 + 2 ^ 10) ++ List.replicate 0x30 0
    ++ leBytes 8 0x77000 ++ List.replicate 0xB0 0
def blockState (bad : Bool) : State := State.write { base with regionTable := 0x60000 } 0x60000 (blockBytes bad)
/-- The block of a region that is to be destroyed. -/
def destroyState : State := (blockState false).write 0x6000C (leBytes 4 (2 ^ 10))
def allocState : State := { base with allocs := [{ die := 0, launch := none, node := 0, base := 0, size := 131072 }] }
theorem meets_FirmwareService : (match (base.lookup 0 5 0x20000).2 with
      | .fault _ _ => true
      | .leaf _ _ _ => false) = true ∧
    (match (base.lookup 0 0 0x20000).2 with
      | .fault _ _ => false
      | .leaf _ _ _ => true) = true ∧
    (let s : State := { base with warps := [decidedWarp] }; s.warp? decidedWarp.uid = some decidedWarp ∧
      (((decidedWarp.entry 0).siding.find? (fun g => g.arrived && g.key == 0x10000 && isFirmware g.kind)).map (·.kind)) = some (.firmware 6 3)) ∧
    (∀ bad, let s := blockState bad; let b := s.read s.regionTable.toNat 256; let r := parseRegion 0 b
      (blockForm 0 b r && treeForm ((s.regions.filter fun x => x.node != 0) ++ [r])) = !bad ∧ (bad = false → r.st ≠ 0)) ∧
    (∃ a, allocState.regionAlloc? 0 0 = some a ∧ 1 * 65536 ≤ a.size) ∧ (allocState.region? 0).isSome = true ∧ allocState.online 0 = true ∧
    1 * 65536 + allocState.launchBytes 0 0 ≤ allocState.effDs 0 0 * 65536 ∧ Memory.wf allocState.mem = true ∧
    (base.regionAlloc? 0 0 = none ∧ (base.region? 0).isSome = true ∧ base.online 0 = true ∧
      1 * 65536 + base.launchBytes 0 0 ≤ base.effDs 0 0 * 65536 ∧ base.dsFits 0 0 65536 = true ∧ base.dieRange 0 65536 = some 0) ∧
    (let s := destroyState; let b := s.read s.regionTable.toNat 256; let r := parseRegion 0 b
     (blockForm 0 b r && treeForm ((s.regions.filter fun x => x.node != 0) ++ [r])) = true ∧ r.st = 0 ∧ ((s.region? 0).map (·.st)).getD 0 ≠ 0) :=
  ⟨by decide +kernel, by decide +kernel, by decide +kernel, by decide +kernel, ⟨_, rfl, by decide +kernel⟩, by decide +kernel, by decide +kernel,
    by decide +kernel, by decide +kernel, by decide +kernel, by decide +kernel⟩

/-- Commands of each kind in good form to region 1, which the host may name; and one of bad form. -/
def packet (op : Nat) : Packet := { op := op, region := 1, addr := 0x20000 }
def goodPacket (op : Nat) : Packet := match op with
  | 1 => { packet 1 with len := 4, payload := [1, 2, 3, 4] }
  | 2 => { packet 2 with arg1 := 8 }
  | 3 => { packet 3 with addr := 0, arg1 := 2 }
  | 4 => { packet 4 with arg0 := 7, arg1 := 9 }
  | 5 => { packet 5 with region := 0, addr := 0x200000, arg0 := 0x200000, arg1 := 4 }
  | 6 => { packet 6 with region := 0, addr := 0, arg0 := 0x10001, arg1 := 1 }
  | 7 => { packet 7 with region := 0, addr := 0, arg0 := 17153 }
  | _ => { packet 8 with region := 0, addr := BitVec.ofNat 64 (homeKey 8 0), len := 32, payload := List.replicate 32 9 }
def hostState : State :=
  { base with boot := .firmware, hostMask := [1], regions := [queueRegion, { queueRegion with node := 1, parent := 0, asid := 0 }],
              negotiated := [1, 1, 0, 0], windows := [{ size := 2 ^ 21, flags := 4 }, {}, {}, {}] }
theorem meets_HostCommands_checked : hostState.mailOp = none ∧
    (∀ op ∈ [1, 2, 3, 4, 5, 6, 7, 8], let p := { goodPacket op with status := 1 }; (hostState.packetForm p op && argsForm p) = false) ∧
    (∀ op ∈ [1, 2, 3, 4], let p := goodPacket op; let s : State := { hostState with hostMask := [] }
      s.packetForm p op = true ∧ argsForm p = true ∧ p.region ≠ 0xFFFF ∧ s.hostDenied p.region = true) := by decide +kernel
def isLeafOk (x : State × Xlate) : Bool := match x.2 with
  | .ok _ _ => true
  | _ => false
/-- A WRITE to region 1's memory, a SUBMIT of a queue that is served and of one that is not, a GRANT that closes a window with a page
in it and without; a command behind another. -/
def submitRegions (st : Nat) : List Region := [queueRegion, { queueRegion with node := 1, parent := 0, asid := 0, st := st }]
def submitState (st : Nat) : State := { queueState 1 false with boot := .firmware, hostMask := [1], regions := submitRegions st }
def revoke : Packet := { goodPacket 5 with arg0 := 0, addr := 0 }
theorem meets_HostCommands_more : (match hostState.xlate 8 (hostState.effAsid 1) 0x20000 .write with
      | (t, .ok pa _) => !inWindow pa && !(t.touch 8 (hostState.effAsid 1) 0x20000 true t.mailWriter).gone pa && Memory.wf (t.touch 8 (hostState.effAsid 1) 0x20000 true t.mailWriter).mem
          && noReadersB (t.touch 8 (hostState.effAsid 1) 0x20000 true t.mailWriter)
      | _ => false) = true ∧
    ((submitState 1).readQueue 1 0).2.isSome = true ∧ ((submitState 2).readQueue 1 0).2 = none ∧ (submitState 1).hostDenied 1 = false ∧
    (let p := { goodPacket 3 with arg1 := 0 }; (submitState 1).packetForm p 3 = true ∧ argsForm p = true ∧ (submitState 1).negotiated.getD 1 0 ≠ 0) ∧
    hostState.packetForm revoke 5 = true ∧ argsForm revoke = true ∧ (hostState.backing.any fun pa => homeOf pa == 8) = false ∧
    (({ hostState with backing := [homeKey 8 0] } : State).backing.any fun pa => homeOf pa == 8) = true ∧
    ({ hostState with mailOp := some (goodPacket 2, 1) } : State).mailOp ≠ none := by decide +kernel
theorem meets_HostCommands_performed : hostState.mailOp = none ∧
    (∀ op ∈ [1, 2, 3, 4, 5, 6, 7, 8], let p := goodPacket op; hostState.packetForm p op = true ∧ argsForm p = true) ∧
    (let p := { goodPacket 1 with region := 0xFFFF }; hostState.packetForm p 1 = true ∧ argsForm p = true) ∧
    (let p := { goodPacket 2 with region := 0xFFFF }; hostState.packetForm p 2 = true ∧ argsForm p = true) ∧
    hostState.hostDenied 1 = false ∧ base.boot = .boot ∧ hostState.negotiated.getD 1 0 ≠ 0 ∧ hostState.parked.length < 64 ∧ (goodPacket 5).arg0 ≠ 0 ∧
    isOk (State.readVirt (hostState.mailReader 1 hostState.fresh 0x20000) 3 2 ({ hostState with fresh := hostState.fresh + 1 } : State) 0x20000 8) = true ∧
    isLeafOk (hostState.xlate 8 (hostState.effAsid 1) 0x20000 .read) = true ∧
    (let s : State := { hostState with negotiated := [1, 0, 0, 0] }; let p := goodPacket 6
     s.packetForm p 6 = true ∧ max (s.offered 1).1 (p.arg0.toNat % 2 ^ 16) ≤ min (s.offered 1).2 (p.arg0.toNat / 2 ^ 16) ∧ s.negotiated.getD 1 0 = 0) ∧
    (let p := goodPacket 8; let w := hostState.windows.getD (homeOf p.addr.toNat - 8) {}
     8 ≤ homeOf p.addr.toNat ∧ homeOf p.addr.toNat ≤ 11 ∧ offsetOf p.addr.toNat + 17248 ≤ w.size ∧ w.flags.testBit 2 = true) := by decide +kernel

/-- A parked READC whose record matches, and whose deadline has come; a BOOT that fails. -/
def parked0 : ParkedReadc := { packet := goodPacket 4, deadline := some 0, op := 12 }
def parkedState : State := State.write { hostState with parked := [parked0] } 0x20000 [7]
theorem meets_HostAndFabric_parkedAndBoot : parkedState.parked.filter (fun x => x.packet.tag == parked0.packet.tag) = [parked0] ∧
    (match State.readVirt (parkedState.mailReader 1 12 0x20000) 3 2 parkedState 0x20000 64 with
      | .ok _ bs => leNat (bs.take 8) == parked0.packet.arg0.toNat
      | _ => false) = true ∧
    parked0.deadline = some 0 ∧ 0 ≤ parkedState.tick ∧ ({ base with boot := .verifying (goodPacket 7) } : State).boot = .verifying (goodPacket 7) ∧
    base.imageGood 0 = false := by decide +kernel

/-- A lane that reads a window, unanswered for long; requests of a peer. -/
def windowLane0 : LaneAcc := { lane0 with pa := homeKey 12 0 }
def windowState : State := { flying .load windowLane0 with tick := 2000000 }
def writeRequest : FabricRequest := { port := 2, write := true, pa := 0x20000, len := 0, data := [1, 2, 3] }
theorem meets_HostAndFabric_windowsAndFabric : windowState.access? 77 = some (access0 .load windowLane0) ∧
    (access0 .load windowLane0).lanes.find? (fun y => y.lane == windowLane0.lane) = some windowLane0 ∧ windowLane0.done = false ∧
    inWindow windowLane0.pa = true ∧ (access0 .load windowLane0).since + 1000000 ≤ windowState.tick ∧
    (windowState.ports.getLsbD 2 = true ∧ homeOf writeRequest.pa < 8 ∧ windowState.gone writeRequest.pa = false ∧ Memory.wf windowState.mem = true ∧
      noReadersB windowState = true ∧ offsetOf writeRequest.pa + 3 ≤ windowState.populated ∧ windowState.poisonAt 0x20000 8 = none ∧
      offsetOf 0x20000 + 8 ≤ windowState.populated ∧ writeRequest.port < 8 ∧ writeRequest.data ≠ []) ∧
    (let s := windowState.modDie 0 fun d => { d with mempath := false }; s.gone writeRequest.pa = true) := by decide +kernel
/-- A staged image that the fused hashes (log 9) fit and whose two signatures verify is good: `b` is any such image of one body byte. -/
def bootingState : State := { base with boot := .verifying { goodPacket 7 with arg0 := 0x4301 } }
def stagedState (b : List Byte) : State := bootingState.write (dieStoreKey 0 0) b
theorem write_keeps (s : State) (k : Nat) (b : List Byte) : (s.write k b).stagingDie = s.stagingDie ∧ (s.write k b).fusedSvn = s.fusedSvn ∧
    (s.write k b).boot = s.boot ∧ (s.write k b).read = Memory.bytes (Memory.setAll s.mem k b) := ⟨rfl, rfl, rfl, rfl⟩
theorem meets_HostAndFabric_image (b : List Byte) (size : b.length = 0x4301 ∧ field b 4 4 = 1)
    (zeros : field b 0x1CC 4 = 0 ∧ ((b.drop 0x42B0).take 80).all (· == 0) = true)
    (keys : beNat (sha384 ((b.drop 0x18).take 388)) = Config.fusedRsaHash ∧ beNat (sha384 ((b.drop 0x19C).take 48)) = Config.fusedSlhHash)
    (rsa : rsaVerifies ((b.drop 0x18).take 388) (b.take 0x1D0 ++ (b.drop 0x4300).take 1) ((b.drop 0x1D0).take 384) = true)
    (slh : slhVerifies ((b.drop 0x19C).take 48) (b.take 0x1D0 ++ (b.drop 0x4300).take 1) ((b.drop 0x350).take 16224) = true) :
    (stagedState b).boot = .verifying { goodPacket 7 with arg0 := 0x4301 } ∧ (stagedState b).imageGood 0x4301 = true := by
  obtain ⟨h1, h2, h3, h4⟩ := write_keeps bootingState (dieStoreKey 0 0) b
  obtain ⟨die, svn, boot, canonical⟩ : bootingState.stagingDie = 0 ∧ bootingState.fusedSvn = 0 ∧
    bootingState.boot = .verifying { goodPacket 7 with arg0 := 0x4301 } ∧ Memory.wf bootingState.mem = true := by decide +kernel
  have read : (stagedState b).read (dieStoreKey (stagedState b).stagingDie 0) 0x4301 = b := by
    unfold stagedState
    rw [h1, h4, die, ← size.1]
    exact Memory.bytes_setAll canonical _ b
  refine ⟨h3.trans boot, ?_⟩
  have svn : (stagedState b).fusedSvn = 0 := h2.trans svn
  unfold State.imageGood
  simp only [read, svn, size.2, zeros, keys, List.drop_zero, rsa, slh]
  simp [stagingBytes]

/-- SHA-384 of "abc", and a 4-byte signature that is no signature (the example of FIPS 180-4's publisher; RFC 8017, 8.1.2, step 1). -/
theorem test_sha384 : beNat (sha384 [0x61, 0x62, 0x63]) =
    0xCB00753F45A35E8BB5A03D699AC65007272C32AB0EDED1631A8B605A43FF5BED8086072BA1E7CC2358BAECA134C825A7 ∧
    rsaVerifies (List.replicate 388 1) [] [1, 2, 3, 4] = false := by decide +kernel
/-- The constants of SHA-2: each is the fraction of the cube root of its prime (FIPS 180-4, 4.2.3). -/
def isCubeRoot (p k : Nat) : Bool := (List.range 8).any fun i =>
  let x := i * 2 ^ 64 + k; decide (x ^ 3 ≤ p * 2 ^ 192) && decide (p * 2 ^ 192 < (x + 1) ^ 3)
theorem test_sha_constants : ((((List.range 410).filter fun p => 2 ≤ p && (List.range p).all fun q => q < 2 || p % q != 0)).zip shaK).map
    (fun x => isCubeRoot x.1 x.2) = List.replicate 80 true := by decide +kernel

/-! ### The conditions of the statements' other clauses -/

/-- The first word of an mstf's lines is whole and meets no other. -/
def spreadWarp : Warp := { blockWarp with regs := blockWarp.regs.set 1 (.a 0 64) }
theorem meets_MatrixSteps_store : let f : FormX := { xb := 32, xa := 1, ops := 0x100000 }
    let s : State := { base with warps := [standing spreadWarp (.mstf f)], wgs := [sharedWg] }
    (match s.warpCtx? (standing spreadWarp (.mstf f)) 0 (BitVec.ofNat 64 wordLine) 0xFFFFFFFF with
    | none => false
    | some c => match s.linePlan c f.shape f.kind f.codeA (countOrK f.shape f.cnt.toNat) f.mspace 0xFFFFFFFF (c.w.lane f.xa.toNat) with
      | .ok (x :: r) => x.2.2.1 == BitVec.allOnes 32 && r.all fun y => decide (y.2.2.2 + 4 ≤ x.2.2.2) || decide (x.2.2.2 + 4 ≤ y.2.2.2)
      | _ => false) = true := by decide +kernel

/-- All lanes of the warp arrive at a fold whose operand v4 is marked and is not its destination. -/
def markedFold : FormV := { dst := 7, sa := 4, ty := 3, lu := 1 }
def wholeArrival : Nat × Group × Collective :=
  let k : Collective := { m := 0xFFFFFFFF, all := true, eff := 0xFFFFFFFF, contrib := 0xFFFF, vals := (List.range 32).map (BitVec.ofNat 64 ·),
                          i := .fold markedFold, since := 0 }
  (0, { key := 0x10000, lanes := 0xFFFFFFFF, arrived := true, kind := .collective k }, k)
theorem meets_Collectives_dead : (∃ x ∈ [wholeArrival], x.2.2.eff = warp0.living) ∧ 4 ∈ collectiveMarks (.fold markedFold) ∧
    4 ∉ collectiveWrites (.fold markedFold) ∧ warp0.preds.length = 7 ∧ (4 : Nat) < warp0.regs.length :=
  ⟨⟨_, List.mem_singleton_self _, by decide +kernel⟩, by decide, by decide, by decide +kernel, by decide +kernel⟩
/-- Only the marks of a poll of no lane die. -/
theorem meets_Collectives_empty : let f : FormV := { dst := 1, sa := 2, sc := 5, lu := 4 }
    5 ∈ collectiveMarks (.poll f) ∧ 5 ∉ collectiveWrites (.poll f) ∧ (ctx0 numbers).full = true ∧ FormV.members f (ctx0 numbers) = 0 := by
  decide +kernel

/-- The arrivals' operands agree at a peer of each kind, or do not. -/
theorem meets_Collectives_peer : let i : Instr := .peer { dst := 7, ty := 7, ops := 1 }
    let gs := arrivals i; let c := gs.foldl (fun a x => a ||| x.2.2.contrib) (0 : Mask)
    (∃ j, j < 32 ∧ c.getLsbD j = true ∧ contribOf gs j ≠ contribOf gs 31) ∧
    (∀ j, j < 32 → c.getLsbD j = true → contribOf ((arrivals i).map fun x => (x.1, x.2.1, { x.2.2 with vals := [] })) j =
      contribOf ((arrivals i).map fun x => (x.1, x.2.1, { x.2.2 with vals := [] })) 31) :=
  ⟨⟨0, by decide +kernel⟩, by decide +kernel⟩

/-- A store whose home is unreachable, and an atomic of which no sector is spoiled. -/
theorem meets_AccessesPerformed_gone : (let s := (flying .store lane0).modDie 0 fun d => { d with mempath := false }
      s.access? 77 = some (access0 .store lane0) ∧ s.gone lane0.pa = true ∧ AccOp.store.fetches = false ∧ AccOp.store.reads = false ∧
      s.heldBack (access0 .store lane0) lane0 = false) ∧
    (let s := flying (.atom 1) lane0; let a := access0 (.atom 1) lane0; a.op.fetches = true ∧ s.spoils a.n a.lanes = none ∧ s.gone lane0.pa = false ∧
      (a.op.result a.n a.sx (s.readNat lane0.pa a.n) lane0.data lane0.cmp).isSome = true) ∧
    (let s : State := { flying (.atom 1) lane0 with poisoned := [0x20000 / 32] }; (s.spoils 4 [lane0]).isSome = true) ∧
    globalWarp.living.getLsbD lane0.lane = true := by decide +kernel

/-- A waitval of one lane whose word lies in a mapped page, or in none, and an entry of its page dropped. -/
def pageLane (va : DWord) : ValueLane := { lane := 0, va := va, addr := 0x20000, expected := 1, last := 0, pte := 0x19F, satisfied := false }
def pageWait (va : DWord) : ValueWait := { waitOn false with gl := true, lanes := [pageLane va] }
def pageState (va : DWord) : State := { blocked (.value (pageWait va)) with wgs := [sharedWg] }
theorem meets_InvalidationsAndOwners_readers :
    (pageState 0x20000).warp? (blockedAt (.value (pageWait 0x20000))).uid = some (blockedAt (.value (pageWait 0x20000))) ∧
    ((blockedAt (.value (pageWait 0x20000))).entry 0).wait = .value (pageWait 0x20000) ∧
    (pageState 0x7FFF00000000).warp? (blockedAt (.value (pageWait 0x7FFF00000000))).uid = some (blockedAt (.value (pageWait 0x7FFF00000000))) ∧
    ((blockedAt (.value (pageWait 0x7FFF00000000))).entry 0).wait = .value (pageWait 0x7FFF00000000) ∧
    (pageWait 0).gl = true ∧ (pageLane 0).satisfied = false := by decide +kernel
theorem meets_InvalidationsAndOwners_pages : let s := pageState 0x20000; let a := s.asidOf (blockedAt (.value (pageWait 0x20000)))
    invalHits .all a 0x20000 4 (pteG 0x19F) = true ∧ isLeafOk (s.xlate 0 a 0x20000 .read) = true ∧
    isLeafOk (s.xlate 0 a 0x7FFF00000000 .read) = false ∧ invalHits .all a 0x7FFF00000000 4 (pteG 0x19F) = true ∧
    noReadersB (flying .load lane0) = true ∧ isKey lane0.pa = false := by decide +kernel

/-- No split waits for a flip where these barriers, copies and catches are. -/
theorem meets_noFlipWaits : noFlipsB (copyState (.abarv (barrierForm 26))) = true ∧ noFlipsB (copying started0) = true ∧
    noFlipsB (onLineState (lineOp .catchTile .ready) [coach0]) = true := by decide +kernel

/-- A copy that tkcancel stops before it has started, with sectors to deliver, with a write out at a window, and past a bad chunk. -/
theorem meets_CopyEnd_cancel : (let p := { copy0 with cancel := true }; p.live = true ∧ p.started = false) ∧
    (let p := { started0 with cancel := true, ending := 2, reason := 6 }; p.live = true ∧ p.pending ≠ [] ∧ (copying p).copy? p.id = some p) ∧
    (let p := { copy0 with cancel := true, started := true }; let s : State := { copying p with accesses := [access0 (.copyWrite 9) lane0] }
     p.live = true ∧ s.copy? p.id = some p ∧ ∃ a ∈ s.accesses, a.op = .copyWrite p.id) := by decide +kernel

/-- A flip that a waiting split has seen, the phase having flipped back; one that it has not seen. -/
def seenWait : Wait := .phase barrierKey 0 0 false 1 [] (some [])
theorem meets_ArrivalBarriers_seen : let s : State := blocked seenWait
    s.warp? warp0.uid = some (blockedAt seenWait) ∧ ((blockedAt seenWait).entry 0).wait = seenWait ∧ (s.abar barrierKey).phase = false ∧
    (s.abar barrierKey).overrun = false := by decide +kernel

/-- A reissued catch held at its station, with room there and without. -/
theorem meets_Stations_held : let o := lineOp .catchTile .held
    (onLineState o []).lineOp? o.id = some o ∧ (onLineState o []).stationOps 0 < 16 ∧
    (let s : State := { onLineState o [] with lineOps := o :: List.replicate 16 { lineOp .board .waiting with id := 42 } }
     s.lineOp? o.id = some o ∧ 16 ≤ s.stationOps 0) := by decide +kernel

/-- A launch with a workgroup to place, on a core with room; no launch with anything to place. -/
theorem meets_Distributor_deal : (let s : State := { base with launches := [starving] }
      s.launch? starving.id = some starving ∧ starving.saved = [] ∧ starving.nextWg < starving.total ∧ (s.room starving 0 1).isSome = true ∧
      0 * 36 + 1 < s.cores.length) ∧
    (∀ x ∈ (endedState launch0).served, (endedState launch0).turnOf x = none) := by decide +kernel
/-- What `travelState` ships and forms. -/
theorem meets_Distributor_records : departure0.cycle < (travelState []).cycle ∧
    ((travelState []).stages.any fun x => x.launch == departure0.launch && decide (x.record.tid.toNat < departure0.record.tid.toNat) &&
       (x.cycle == departure0.cycle || (travelState []).shippable x)) = false ∧
    ((travelState []).ship travelLaunch 0 record0).isSome = true ∧
    ((travelState [record0]).formWarp (queue0 [record0]) travelLaunch 0x10000).isSome = true ∧ travelLaunch.segments[0]? = some seg0 ∧
    record0.shipped.getLsbD 0 = true ∧ (0 : Nat) < seg0.limit ∧ 0 < travelLaunch.regs := by decide +kernel
/-- The same with no room in the queue, where there is room in the overflow area. -/
theorem meets_Distributor_overflow : let x : Segment := { seg0 with ocap := 4 }; let l : Launch := { travelLaunch with segments := [x] }
    ({ travelState [record0] with launches := [l] } : State).ship l 0 record0 ≠ none ∧ x.overflow.length < x.ocap := by decide +kernel

/-- A workgroup saved with no engine's operation, restored where there is room; one that is to start again; one discarded. -/
def restoring : State := { base with launches := [savedLaunch], wgs := [], warps := [], negotiated := [1, 1, 1, 1] }
theorem meets_Preemption_restore : restoring.launch? savedLaunch.id = some savedLaunch ∧ restoring.versionOk savedOne = true ∧
    savedOne.restart = false ∧ savedLaunch.packet.travel = false ∧ (restoring.saveRoom savedLaunch savedOne 0 0).isSome = true ∧
    savedOne.engines = [] ∧ savedOne.decisions = [] ∧ savedOne.fatal = false := by decide +kernel
/-- Two members of a consist of two, both saved. -/
def consistLaunch : Launch :=
  { launch0 with packet := { launch0.packet with consist := 2 }, saved := [savedOne, { savedOne with wg := { wg0 with uid := 98, member := 1, index := 1 } }] }
theorem meets_Preemption_consist : let s : State := { restoring with launches := [consistLaunch] }
    consistLaunch.packet.consist ≥ 2 ∧ s.mayPlace consistLaunch = true ∧ (s.restoreConsist consistLaunch wg0.consist 0 0).isSome = true := by
  decide +kernel

/-- An online die with a fatal error; a die without pages that is evacuated, or lost with its path, and goes offline. -/
theorem meets_DiesAndPages_offline : (let s := dieState { harvest := 1, fatal := 2 }; (s.die 3).st = 0 ∧ (s.die 3).fatal ≠ 0) ∧
    (let s : State := { dieState { harvest := 1, st := 2 } with roots := [] }
     s.tablesOn 3 = [] ∧ s.nextPage 3 = none ∧ (s.die 3).lossShift = none ∧ s.workOn 3 = false) ∧
    (let s : State := { dieState { harvest := 1, st := 2, lossShift := some 4 } with roots := [] }
     s.tablesOn 3 = [] ∧ s.nextPage 3 = none ∧ (s.die 3).lossShift ≠ none ∧ (s.die 3).mempath = true) := by decide +kernel

/-- Nothing is due; the fresh page of a shadow is due; a window has room for a page. -/
def freshPage : ShadowPage := { shadowPage0 with new := homeKey 1 0x200000 }
def shadowDue : State := ({ base with mem := [], shadows := [{ shadow0 with pages := [freshPage] }] } : State).modDie 1 fun d => { d with st := 2 }
theorem meets_DiesAndPages_shadow : (base.rootOf 0 = some 0x1000 ∧ base.pageDue 0 0 = none ∧
      (base.walkTables 0 5 0 0x1000).find? (fun t => base.evacuating (homeOf t) && base.toMove (homeOf t) t) = none) ∧
    (shadowDue.walkTables 0x20000 5 0 0x1000).find? (fun t => shadowDue.evacuating (homeOf t) && shadowDue.toMove (homeOf t) t) = none ∧
    shadowDue.rootOf 0 = some 0x1000 ∧ shadowDue.pageDue 0 0x20000 = some (0, .shadow freshPage) ∧ shadowDue.pageBusy freshPage.new (DataPage.shadow freshPage).bytes = false ∧
    shadowDue.destOk (homeKey 2 0) 4096 4096 .page = true ∧ (nowhere shadowDue).noDest 4096 4096 .page = true ∧
    (let s : State := { nowhere shadowDue with windows := [{ base := 2 ^ 21, size := 2 ^ 21, flags := 9 }, {}, {}, {}] }
     s.destOk (homeKey 8 0) 4096 4096 .page = true) := by decide +kernel

/-- An access in flight that may still reach an allocation. -/
theorem meets_FirmwareService_inUse : let a : Alloc := { die := 0, launch := none, node := 0, base := 0, size := 131072 }
    let s : State := { allocState with accesses := [access0 .load { lane0 with pa := dieStoreKey 0 8 }] }
    s.regionAlloc? 0 0 = some a ∧ s.inUse a = true ∧ 1 * 65536 < a.size ∧ allocState.inUse a = false ∧ a.node ≠ noNode := by decide +kernel

/-- A command and a WRITE to the staging buffer that find a verification; a BOOT with no WRITE before it. -/
def verifyState : State := { hostState with boot := .verifying (goodPacket 7) }
theorem meets_HostCommands_verifying : let p := { goodPacket 1 with region := 0xFFFF }
    verifyState.verifying = true ∧ toStaging p = true ∧ verifyState.packetForm p 1 = true ∧ argsForm p = true ∧
    toStaging (goodPacket 2) = false ∧ hostState.verifying = false ∧ (∀ q ∈ base.inbound, toStaging q = false) := by decide +kernel
/-- A page of window 0 that a leaf maps, which keeps the window; one that nothing maps. -/
def backedState : State :=
  { State.write hostState 0x3000 (leBytes 8 (homeKey 8 0 + 0x19F)) with backing := [homeKey 8 0], windows := [{ size := 2 ^ 30, flags := 12 }, {}, {}, {}] }
theorem meets_HostCommands_backed : (backedState.backed.any fun pa => homeOf pa == 8) = true := by decide +kernel
theorem meets_HostCommands_unbacked : (({ backedState with roots := [] } : State).backed.any fun pa => homeOf pa == 8) = false := by decide +kernel

/-- The first eight bytes of a parked record, matching or not, and the whole. -/
theorem meets_HostAndFabric_record : (match State.readVirt (parkedState.mailReader 1 12 0x20000) 3 2 parkedState 0x20000 8 with
      | .ok t bs => leNat bs == parked0.packet.arg0.toNat && (match State.readVirt (t.mailReader 1 12 0x20000) 3 2 t 0x20000 64 with
        | .ok _ cs => !cs.isEmpty
        | _ => false)
      | _ => false) = true ∧
    (let s : State := { hostState with parked := [parked0] }
     match State.readVirt (s.mailReader 1 12 0x20000) 3 2 s 0x20000 8 with
     | .ok _ bs => leNat bs != parked0.packet.arg0.toNat
     | _ => false) = true := by decide +kernel

/-- A home whose path has failed, read and written by a peer; the request of a lane through a window sent. -/
theorem meets_HostAndFabric_sent : let x := { windowLane0 with sent := true }; let s := flying .load x
    s.access? 77 = some (access0 .load x) ∧ (access0 .load x).lanes.find? (fun y => y.lane == x.lane) = some x ∧ x.done = false ∧
    inWindow x.pa = true ∧ x.sent = true := by decide +kernel

end Sys2Proof.Tests
end

/-! SUPPORT. The proofs of family 01, splits and warps: ticket instructions (09 R254 to R258), lanes that leave and pause (04 R97
to R99), branches and the splits they form (01 R17, R18), collectives (01 R26; 04 R102 to R106). The laws each part needs stand
before it. -/

namespace Sys2Proof.Machine

/-! ### Tables, last-use marks and places in happens-before -/

/-- A table gives back what was put under a key. -/
theorem tget_tset_same {α : Type} (l : List (Nat × α)) (k : Nat) (v d : α) : tget (tset l k v) k d = v := by
  induction l with
  | nil => simp [tset, tget]
  | cons p r ih =>
    obtain ⟨j, w⟩ := p
    simp only [tset]
    split
    · simp [tget]
    · split
      · simp [tget]
      · have hj : (j == k) = false := by simp; omega
        simpa [tget, hj] using ih

/-- A table without the entries of a key gives the default. -/
theorem tget_filter_ne {α : Type} (l : List (Nat × α)) (k : Nat) (d : α) : tget (l.filter fun p => p.1 != k) k d = d := by
  have : (l.filter fun p => p.1 != k).find? (fun p => p.1 == k) = none := by
    simp [List.find?_eq_none]
  simp [tget, this]

/-- No mark kills nothing. -/
theorem kill_nil (w : Warp) (full : Bool) (written : List Nat) : w.kill full [] written = w := by
  cases full <;> simp [Warp.kill]

/-- What comes along an edge to some lanes changes their places in happens-before alone. -/
theorem lookAll_only (w : Warp) (m : Mask) (p : Past) : w.lookAll m p = { w with sights := (w.lookAll m p).sights } := by
  have key : ∀ (l : List Nat) (w : Warp), l.foldl (fun w i => w.look i p) w
      = { w with sights := (l.foldl (fun w i => w.look i p) w).sights } := by
    intro l
    induction l with
    | nil => intro w; rfl
    | cons i r ih =>
      intro w
      simp only [List.foldl_cons]
      rw [ih]
      simp only [Warp.look]
      split <;> rfl
  exact key (lanesOf m) w

/-- So does the sight of a ticket's end. -/
theorem sawEnd_only (w : Warp) (m : Mask) (n : Nat) (r : Option EndRecord) :
    w.sawEnd m n r = { w with sights := (w.sawEnd m n r).sights } := lookAll_only ..

/-- A result does not look at places in happens-before. -/
theorem writeResult_sights (w : Warp) (x : List (Nat × Sight)) (dst : Nat) (wide : Bool) (eff : Mask) (full uni : Bool)
    (aff : Option (Word × Word)) (f : Nat → DWord) :
    ({ w with sights := x } : Warp).writeResult dst wide eff full uni aff f
      = { w.writeResult dst wide eff full uni aff f with sights := x } := by
  have hreg : ∀ (v : Warp) n full r,
      ({ v with sights := x } : Warp).setReg n eff full r = { v.setReg n eff full r with sights := x } := by
    intro v n full r; simp only [Warp.setReg]; split <;> rfl
  have hlanes : ∀ (v : Warp) n g, ({ v with sights := x } : Warp).setLanes n eff g = { v.setLanes n eff g with sights := x } := by
    intro v n g; simp only [Warp.setLanes]; split
    · rfl
    · exact hreg ..
  simp only [Warp.writeResult]
  repeat' split
  all_goals simp only [hreg, hlanes]

/-- A result that has one value in every lane (01 R33 to R35). -/
theorem writeResult_uniform_wrote {c : Ctx} {dst : Nat} {wide : Bool} (v : DWord) (hn : c.holds dst wide) :
    c.Wrote (c.w.writeResult dst wide c.eff c.full true none fun _ => v) (resultOf dst wide fun _ => v) [] := by
  have h := writeResult_wrote (marks := []) (uni := true) (aff := none) (f := fun _ => v) hn
    (fun _ _ _ _ _ _ _ _ => rfl) (fun _ hu => by simp at hu)
  rw [kill_nil] at h
  exact h

/-- An instruction that issues and writes registers alone leaves the state after its warp. -/
theorem finish_regsOnly {s : State} {g : Nat × Bool} {c : Ctx} {w : Warp} (h : s.Issues g c) (hw : c.w.regsOnly w) :
    s.finish c w = s.after c w := by
  obtain ⟨huid, hlaunch, hdie, hcore, hliving, hentries, _, _⟩ := Warp.regsOnly_same hw
  exact finish_issues h rfl rfl rfl huid hlaunch hdie hcore hliving hentries

/-- One that leaves its warp as it is. -/
theorem finish_same {s : State} {g : Nat × Bool} {c : Ctx} (h : s.Issues g c) : s.finish c c.w = s.after c c.w :=
  finish_regsOnly h c.w.regsOnly_refl

/-! ### The ticket instructions (09 R254 to R258) -/

theorem exec_tkwait (f : FormX) (s : State) : exec (.tkwait f) s = execTkwait f s := rfl
theorem exec_tktest (f : FormX) (s : State) : exec (.tktest f) s = execTktest f s := rfl
theorem exec_tkcancel (f : FormX) (s : State) : exec (.tkcancel f) s = execTkcancel f s := rfl
theorem exec_tkget (f : FormX) (s : State) : exec (.tkget f) s = execTkget f s := rfl
theorem exec_tkset (f : FormX) (s : State) : exec (.tkset f) s = execTkset f s := rfl

theorem tkwait_pending {s : State} {c : Ctx} {f : FormX} (h : s.ctx? f.guard = some c) (he : c.eff ≠ 0)
    (ht : tkState (c.w.ticket f.dst.toNat) = 1) :
    exec (.tkwait f) s = .next (s.blockHere c (.ticket f.dst.toNat c.eff)) := by
  simp only [exec_tkwait, execTkwait, h, if_neg he, if_pos ht]

/-- The end of a ticket seen: only places in happens-before change, so the instruction goes on. -/
theorem finish_sawEnd {s : State} {c : Ctx} {g : Nat × Bool} (h : s.Issues g c) (n : Nat) (r : Option EndRecord) :
    s.finish c (c.w.sawEnd c.eff n r) = s.after c (c.w.sawEnd c.eff n r) := by
  apply finish_issues h rfl rfl rfl <;> rw [sawEnd_only]

theorem tkwait_goes_on {s : State} {c : Ctx} {f : FormX} (h : s.Issues f.guard c)
    (ht : tkState (c.w.ticket f.dst.toNat) ≠ 1 ∨ c.eff = 0) :
    exec (.tkwait f) s = .next (s.after c (if c.eff = 0 then c.w
      else c.w.sawEnd c.eff f.dst.toNat (s.endRecord? (c.w.ticket f.dst.toNat)))) := by
  simp only [exec_tkwait, execTkwait, h.ctx]
  by_cases he : c.eff = 0
  · rw [if_pos he, if_pos he, finish_same h]
  · have ht : tkState (c.w.ticket f.dst.toNat) ≠ 1 := ht.resolve_right he
    rw [if_neg he, if_neg he, if_neg ht, finish_sawEnd h]

theorem tkcancel_goes_on {s : State} {c : Ctx} {f : FormX} (h : s.Issues f.guard c)
    (ht : tkState (c.w.ticket f.dst.toNat) ≠ 1 ∨ c.eff = 0) : exec (.tkcancel f) s = .next (s.after c c.w) := by
  have hcond : (decide (c.eff = 0) || decide (tkState (c.w.ticket f.dst.toNat) ≠ 1)) = true := by
    simpa [or_comm] using ht
  simp only [exec_tkcancel, execTkcancel, h.ctx, hcond, if_true, finish_same h]

theorem tkcancel_pending {s : State} {c : Ctx} {f : FormX} (h : s.Issues f.guard c)
    (ht : tkState (c.w.ticket f.dst.toNat) = 1) (he : c.eff ≠ 0) :
    exec (.tkcancel f) s = .next (State.stabilise ((s.after c c.w).cancelTicket (c.w.ticket f.dst.toNat))) := by
  simp only [exec_tkcancel, execTkcancel, h.ctx, he, ht, finish_same h]
  simp

/-- A ticket that names a copy names no operation of the line and no launch: its cancelling asks the copies alone. -/
theorem cancelTicket_copies {s : State} {t : DWord} (hk : tkKind t = 1) :
    (s.cancelTicket t).copies = s.copies.map fun c => if c.named t then { c with cancel := true } else c := by
  have hline : s.lineOps.filter (fun o => o.named t && o.op != .alight) = [] := by
    simp [StationOp.named, hk]
  have hlaunch : s.launches.find? (fun l => l.named t) = none := by
    simp [Launch.named, hk]
  simp only [State.cancelTicket, State.endLineOps, hline, List.foldl_nil, hlaunch]

/-- Every copy that a ticket names is asked to stop (09 R257). -/
theorem cancelTicket_asks {s : State} {t : DWord} {p : Copy} (hp : p ∈ s.copies) (hn : p.named t = true) :
    ∃ q ∈ (s.cancelTicket t).copies, q.id = p.id ∧ q.cancel = true := by
  have hk : tkKind t = 1 := by
    simp only [Copy.named, Bool.and_eq_true, beq_iff_eq] at hn
    exact hn.1.1.1
  refine ⟨{ p with cancel := true }, ?_, rfl, rfl⟩
  rw [cancelTicket_copies hk, List.mem_map]
  exact ⟨p, hp, by rw [if_pos hn]⟩

theorem tktest_completes {s : State} {c : Ctx} {f : FormX} (h : s.Issues f.guard c) (hn : c.holds f.dst.toNat false) :
    s.Completes c (.tktest f) fun w => c.Wrote { w with sights := c.w.sights }
      (resultOf f.dst.toNat false fun _ => (s.ticketWord (c.w.ticket f.xa.toNat)).setWidth 64) [] := by
  simp only [State.Completes, exec_tktest, execTktest, h.ctx]
  generalize hv : (s.ticketWord (c.w.ticket f.xa.toNat)).setWidth 64 = v
  generalize hw : (if (decide (c.eff = 0) || decide (tkState (c.w.ticket f.xa.toNat) = 1)) = true then c.w
    else c.w.sawEnd c.eff f.xa.toNat (s.endRecord? (c.w.ticket f.xa.toNat))) = w
  have hsights : w = { c.w with sights := w.sights } := by
    subst hw
    split
    · rfl
    · exact sawEnd_only ..
  have hres := writeResult_sights c.w w.sights f.dst.toNat false c.eff c.full true none fun _ => v
  rw [← hsights] at hres
  refine ⟨w.writeResult f.dst.toNat false c.eff c.full true none fun _ => v, ?_, ?_⟩
  · obtain ⟨huid, hlaunch, hdie, hcore, hliving, hentries, _, _⟩ :=
      Warp.regsOnly_same (writeResult_regsOnly c.w f.dst.toNat false c.eff c.full true none fun _ => v)
    congr 1
    apply finish_issues h rfl rfl rfl <;> rw [hres] <;> assumption
  · have hs : (c.w.writeResult f.dst.toNat false c.eff c.full true none fun _ => v).sights = c.w.sights := by
      rw [(writeResult_regsOnly ..).1]
    have := writeResult_uniform_wrote v hn
    rw [hres, ← hs]
    exact this

theorem tkget_completes {s : State} {c : Ctx} {f : FormX} (h : s.Issues f.guard c) (hn : c.holds f.dst.toNat true) :
    s.Completes c (.tkget f) fun w => c.Wrote w (resultOf f.dst.toNat true fun _ => c.w.ticket f.xa.toNat) [] := by
  refine ⟨_, ?_, writeResult_uniform_wrote _ hn⟩
  simp only [exec_tkget, execTkget, h.ctx, finish_regsOnly h (writeResult_regsOnly ..)]

/-- A ticket register written, and the marked source made dead: of the vector registers only the marks show. -/
theorem setTicket_kill_wrote (c : Ctx) (n : Nat) (v : DWord) (marks : List Nat) :
    c.Wrote { (c.w.setTicket n v).kill c.full marks [] with tickets := c.w.tickets, endPasts := c.w.endPasts } [] marks := by
  refine ⟨?_, by simp, by simp, by simp, by simp, fun m _ => ?_⟩
  · simp only [Warp.kill, Warp.setTicket]; split <;> rfl
  · have := kill_reg (c.w.setTicket n v) c.full marks [] m
    simpa [Warp.reg, Warp.setTicket] using this

/-- A pending ticket stored that names a unit is to be resolved. -/
def State.storedTicket (s : State) (uid n : Nat) (v : DWord) : State :=
  let t := s.overwriteTicket uid n
  if tkState v == 1 && validUnit v then { t with resolving := t.resolving ++ [(uid, n)] } else t

theorem storedTicket_kept (s : State) (uid n : Nat) (v : DWord) :
    (s.storedTicket uid n v).warps = s.warps ∧ (s.storedTicket uid n v).launches = s.launches ∧
      (s.storedTicket uid n v).dies = s.dies ∧ (s.storedTicket uid n v).mem = s.mem := by
  simp only [State.storedTicket]; split <;> exact ⟨rfl, rfl, rfl, rfl⟩

theorem mem_storedTicket_resolving {s : State} {uid n : Nat} {v : DWord} (hp : tkState v = 1) (hu : validUnit v = true) :
    (uid, n) ∈ (s.storedTicket uid n v).resolving := by
  simp [State.storedTicket, hp, hu]

/-- The warp after tkset: the ticket in its register, the marked source dead. -/
def Ctx.tkset (c : Ctx) (f : FormX) (v : DWord) : Warp :=
  (c.w.setTicket f.dst.toNat (if tkState v == 1 && !validUnit v then withState v 2 6 else v)).kill c.full
    (FormX.marked f [(0, f.xa.toNat, 2)]) []

theorem tkset_stores {s : State} {c : Ctx} {f : FormX} (h : s.Issues f.guard c) (he : c.eff ≠ 0)
    (hd : c.deadRead [f.xa.toNat, f.xa.toNat + 1] = none) :
    exec (.tkset f) s = .next ((s.storedTicket c.w.uid f.dst.toNat (c.w.pair f.xa.toNat c.low)).after c
      (c.tkset f (c.w.pair f.xa.toNat c.low))) := by
  obtain ⟨hwarps, hlaunches, hdies, -⟩ := storedTicket_kept s c.w.uid f.dst.toNat (c.w.pair f.xa.toNat c.low)
  simp only [exec_tkset, execTkset, h.ctx, if_neg he, hd]
  congr 1
  apply finish_issues h hwarps hlaunches hdies <;> (simp only [Warp.kill]; split <;> rfl)

theorem tkset_completes {s : State} {c : Ctx} {f : FormX} (h : s.Issues f.guard c) (he : c.eff ≠ 0)
    (hd : c.deadRead [f.xa.toNat, f.xa.toNat + 1] = none) :
    let v := c.w.pair f.xa.toNat c.low
    s.CompletesIn c (.tkset f) fun u w =>
      c.Wrote { w with tickets := c.w.tickets, endPasts := c.w.endPasts } [] (FormX.marked f [(0, f.xa.toNat, 2)]) ∧ u.mem = s.mem ∧
      w.tickets = c.w.tickets.set f.dst.toNat (if tkState v = 1 ∧ validUnit v = false then withState v 2 6 else v) ∧
      (tkState v = 1 → validUnit v = true → (c.w.uid, f.dst.toNat) ∈ u.resolving) := by
  intro v
  obtain ⟨hwarps, hlaunches, -, hmem⟩ := storedTicket_kept s c.w.uid f.dst.toNat v
  refine ⟨_, _, tkset_stores h he hd, hwarps, hlaunches, setTicket_kill_wrote .., hmem, ?_, mem_storedTicket_resolving⟩
  simp only [Ctx.tkset, Warp.kill, Warp.setTicket]
  split <;> simp [v]

/-! ### The resolution of a stored ticket (01 R38) -/

theorem exec_ticketResolve (wid reg : Nat) (s : State) : exec (.evTicketResolve wid reg) s = execEvTicketResolve wid reg s := rfl

/-- The state with a register no longer waiting for its unit's answer. -/
def State.answered (s : State) (uid reg : Nat) : State := { s with resolving := s.resolving.filter fun r => r != (uid, reg) }

/-- The unit of a register's ticket answers: the ticket takes the answer, the warp's clock merges its stamp, and what lies before
it comes along; what follows from that comes about. -/
def State.TicketAnswer (s : State) (w : Warp) (reg : Nat) (new : DWord) (clock : Stamp) (p : Past) : Prop :=
  s.Happens (.evTicketResolve w.uid reg) fun u =>
    u.mem = s.mem ∧ (w.uid, reg) ∉ u.resolving ∧ ∃ e, tget e reg [] = p ∧
      u.warp? w.uid = some { w with tickets := w.tickets.set reg new, clock := max w.clock clock, endPasts := e }

/-- A warp that differs in its ticket, its clock and what its ends bring along, put back, is such an answer. -/
theorem ticketAnswer_of {s : State} {w : Warp} {reg : Nat} {new : DWord} {clock : Stamp} {p : Past} {e : List (Nat × Past)}
    (hw : s.warp? w.uid = some w) (he : tget e reg [] = p)
    (hx : exec (.evTicketResolve w.uid reg) s = .next (State.stabilise ((s.answered w.uid reg).putWarp
      { w with tickets := w.tickets.set reg new, clock := max w.clock clock, endPasts := e }))) :
    s.TicketAnswer w reg new clock p :=
  ⟨_, hx, rfl, by simp [State.answered], e, he, State.warp?_putWarp (s := s.answered w.uid reg) hw⟩

section
variable {s : State} {w : Warp} {reg : Nat} (hw : s.warp? w.uid = some w) (hr : (w.uid, reg) ∈ s.resolving)
  (ht : tkState (w.ticket reg) = 1)
include hw hr ht

/-- A unit whose die is not online answers FAILED, FAULT. -/
theorem ticketResolve_offline (hd : tkDie (w.ticket reg) < 8) (ho : s.online (tkDie (w.ticket reg)) = false) :
    s.TicketAnswer w reg (withState (w.ticket reg) 2 6) w.clock [] := by
  refine ticketAnswer_of hw (tget_filter_ne w.endPasts reg []) ?_
  simp [exec_ticketResolve, execEvTicketResolve, hw, hr, ht, hd, ho, Warp.setTicket, State.answered]

section
variable (ho : ¬(tkDie (w.ticket reg) < 8 ∧ s.online (tkDie (w.ticket reg)) = false))
include ho

/-- The unit's end record gives state and reason. -/
theorem ticketResolve_record {r : EndRecord} (hrec : s.endRecord? (w.ticket reg) = some r) :
    s.TicketAnswer w reg (withState (w.ticket reg) r.state r.reason) r.stamp r.past := by
  have hcond : (decide (tkDie (w.ticket reg) < 8) && !s.online (tkDie (w.ticket reg))) = false := by simpa using ho
  refine ticketAnswer_of hw (tget_tset_same w.endPasts reg r.past []) ?_
  simp [exec_ticketResolve, execEvTicketResolve, hw, hr, ht, hcond, hrec, Warp.setTicket, Warp.merge, State.answered]

/-- A unit that holds neither a record nor the operation answers FAILED, FAULT. -/
theorem ticketResolve_unknown (hrec : s.endRecord? (w.ticket reg) = none) (hp : s.inProgress (w.ticket reg) = false) :
    s.TicketAnswer w reg (withState (w.ticket reg) 2 6) w.clock [] := by
  have hcond : (decide (tkDie (w.ticket reg) < 8) && !s.online (tkDie (w.ticket reg))) = false := by simpa using ho
  refine ticketAnswer_of hw (tget_filter_ne w.endPasts reg []) ?_
  simp [exec_ticketResolve, execEvTicketResolve, hw, hr, ht, hcond, hrec, hp, Warp.setTicket, State.answered]

/-- While the operation is in progress the register stays PENDING. -/
theorem ticketResolve_inProgress (hrec : s.endRecord? (w.ticket reg) = none) (hp : s.inProgress (w.ticket reg) = true) :
    exec (.evTicketResolve w.uid reg) s = .next (s.answered w.uid reg) := by
  have hcond : (decide (tkDie (w.ticket reg) < 8) && !s.online (tkDie (w.ticket reg))) = false := by simpa using ho
  simp [exec_ticketResolve, execEvTicketResolve, hw, hr, ht, hcond, hrec, hp, State.answered]

end
end

end Sys2Proof.Machine

namespace Sys2Proof.Proofs
open Sys2Proof.Machine

/-- Settles O46: each instruction by its branch of the definition; a stored ticket's resolution by what the unit holds. -/
theorem tickets : Obligations.Tickets := by
  refine ⟨fun s c f => ⟨fun h he ht => tkwait_pending h he ht, fun h => ⟨?_, ?_, ?_, ?_, ?_⟩⟩, ?_⟩
  · exact fun ht => ⟨tkcancel_goes_on h ht, tkwait_goes_on h ht⟩
  · exact fun ht he => ⟨_, tkcancel_pending h ht he, rfl, fun p hp hn => cancelTicket_asks hp hn⟩
  · exact tktest_completes h
  · exact tkget_completes h
  · exact tkset_completes h
  · intro s w reg t answers hw hr ht
    exact ⟨ticketResolve_offline hw hr ht, fun ho =>
      ⟨fun r hrec => ticketResolve_record hw hr ht ho hrec, ticketResolve_unknown hw hr ht ho,
        ticketResolve_inProgress hw hr ht ho⟩⟩

end Sys2Proof.Proofs

namespace Sys2Proof.Machine

/-! ### Records of a table changed under their key -/

/-- What is found under a key after the records of that key have changed, the key staying. -/
theorem find?_map_key {α : Type} (key : α → Nat) {f : α → α} (hf : ∀ x, key (f x) = key x) (k : Nat) (l : List α) :
    (l.map fun x => if key x = k then f x else x).find? (fun x => key x == k) = (l.find? fun x => key x == k).map f := by
  induction l with
  | nil => rfl
  | cons x r ih =>
    by_cases hx : key x = k
    · simp [hx, hf]
    · have hb : (key x == k) = false := by simp [hx]
      rw [List.map_cons, if_neg hx, List.find?_cons, List.find?_cons, hb]
      exact ih

theorem launch?_modLaunch {s : State} {id : Nat} {f : Launch → Launch} {l : Launch} (hf : ∀ l, (f l).id = l.id)
    (h : s.launch? id = some l) : (s.modLaunch id f).launch? id = some (f l) := by
  have := find?_map_key (·.id) hf id s.launches
  simp only [State.launch?, State.modLaunch] at h ⊢
  rw [this, h]; rfl

theorem wg?_modWg {s : State} {id : Nat} {f : Workgroup → Workgroup} {g : Workgroup} (hf : ∀ g, (f g).uid = g.uid)
    (h : s.wg? id = some g) : (s.modWg id f).wg? id = some (f g) := by
  have := find?_map_key (·.uid) hf id s.wgs
  simp only [State.wg?, State.modWg] at h ⊢
  rw [this, h]; rfl

theorem mem_modLaunch {s : State} {id : Nat} {f : Launch → Launch} {k : Launch} (hk : k ∈ s.launches) (hne : k.id ≠ id) :
    k ∈ (s.modLaunch id f).launches :=
  List.mem_map.mpr ⟨k, hk, if_neg hne⟩

theorem launch?_id {s : State} {id : Nat} {l : Launch} (h : s.launch? id = some l) : l.id = id := by
  simpa using List.find?_some h

theorem wg?_uid {s : State} {id : Nat} {g : Workgroup} (h : s.wg? id = some g) : g.uid = id := by
  simpa using List.find?_some h

/-- The warp, launch and workgroup of a context stand in the state. -/
theorem ctx_warp {s : State} {g : Nat × Bool} {c : Ctx} (h : s.ctx? g = some c) : s.warp? c.w.uid = some c.w := by
  obtain ⟨i, _, hwarp, _⟩ := ctx_some h
  rw [warp?_uid hwarp]; exact hwarp

theorem ctx_launch {s : State} {g : Nat × Bool} {c : Ctx} (h : s.ctx? g = some c) :
    s.launch? c.w.launch = some c.l ∧ c.l.id = c.w.launch := by
  obtain ⟨_, _, _, hlaunch, _⟩ := ctx_some h
  exact ⟨hlaunch, launch?_id hlaunch⟩

theorem ctx_wg {s : State} {g : Nat × Bool} {c : Ctx} (h : s.ctx? g = some c) : s.wg? c.g.uid = some c.g := by
  obtain ⟨_, _, _, _, hwg, _⟩ := ctx_some h
  rw [wg?_uid hwg]; exact hwg

/-- The effective lanes run. -/
theorem ctx_eff_run {s : State} {g : Nat × Bool} {c : Ctx} (h : s.ctx? g = some c) : c.eff &&& ~~~c.run = 0 := by
  obtain ⟨_, _, _, _, _, _, _, heff, _⟩ := ctx_some h
  apply BitVec.eq_of_getLsbD_eq
  intro i _
  cases he : c.eff.getLsbD i with
  | false => simp [he]
  | true => rw [heff] at he; simp [eff_run he]

/-! ### Only the split table -/

/-- `v` is `w` but for its split table. -/
def Warp.entriesOnly (w v : Warp) : Prop := v = { w with entries := v.entries }

theorem Warp.entriesOnly_refl (w : Warp) : w.entriesOnly w := rfl

theorem Warp.entriesOnly_trans {u v w : Warp} (h1 : u.entriesOnly v) (h2 : v.entriesOnly w) : u.entriesOnly w := by
  simp only [Warp.entriesOnly] at *
  rw [h2, h1]

theorem setEntry_entriesOnly (w : Warp) (e : Nat) (x : Entry) : w.entriesOnly (w.setEntry e x) := rfl

theorem fuseAt_entriesOnly (w : Warp) (e : Nat) : w.entriesOnly (w.fuseAt e) := by
  have key : ∀ (l : List Nat) (w : Warp), w.entriesOnly (l.foldl (fun w n => w.setEntry n (w.entry n).freed) w) := by
    intro l
    induction l with
    | nil => exact Warp.entriesOnly_refl
    | cons n r ih => exact fun w => Warp.entriesOnly_trans (setEntry_entriesOnly ..) (ih _)
  exact Warp.entriesOnly_trans (key ..) (setEntry_entriesOnly ..)

theorem fuse_entriesOnly (k : Nat) (w : Warp) : w.entriesOnly (Warp.fuse k w) := by
  induction k generalizing w with
  | zero => exact Warp.entriesOnly_refl w
  | succ k ih =>
    simp only [Warp.fuse]
    split
    · exact Warp.entriesOnly_refl w
    · exact Warp.entriesOnly_trans (fuseAt_entriesOnly ..) (ih _)

theorem send_entriesOnly (w : Warp) (e : Nat) (parts : List (PC × Mask)) : w.entriesOnly (w.send e parts) :=
  Warp.entriesOnly_trans (setEntry_entriesOnly ..) (fuse_entriesOnly ..)

/-- What the split table leaves alone of a warp. -/
theorem Warp.entriesOnly_same {w v : Warp} (h : w.entriesOnly v) :
    v.uid = w.uid ∧ v.launch = w.launch ∧ v.living = w.living ∧ v.regs = w.regs ∧ v.preds = w.preds ∧
      v.tickets = w.tickets ∧ v.clock = w.clock := by
  rw [h]; simp

/-- Lanes that leave a warp: they live no longer, its registers, predicates, tickets and clock are as before (01 R23). -/
theorem drop_same (w : Warp) (m : Mask) :
    (w.drop m).uid = w.uid ∧ (w.drop m).living = w.living &&& ~~~m ∧ (w.drop m).regs = w.regs ∧
      (w.drop m).preds = w.preds ∧ (w.drop m).tickets = w.tickets ∧ (w.drop m).clock = w.clock := by
  have h := fuse_entriesOnly 8 { w with
    living := w.living &&& ~~~m
    trap := { w.trap with lanes := w.trap.lanes &&& ~~~m, busy := w.trap.busy && w.trap.lanes &&& ~~~m != 0 }
    triggered := w.triggered &&& ~~~m
    trigWait := w.trigWait.filter fun t => !m.getLsbD t.lane
    entries := w.entries.map fun x => x.drop m }
  obtain ⟨huid, _, hliving, hregs, hpreds, htickets, hclock⟩ := Warp.entriesOnly_same h
  exact ⟨huid, hliving, hregs, hpreds, htickets, hclock⟩

theorem setEntry_entry (w : Warp) (e k : Nat) (x : Entry) :
    (w.setEntry e x).entry k = if k = e ∧ e < w.entries.length then x else w.entry k := by
  simp only [Warp.entry, Warp.setEntry, List.getD_eq_getElem?_getD, List.getElem?_set]
  by_cases hk : e = k
  · subst hk
    by_cases he : e < w.entries.length <;> simp [he]
  · have : k ≠ e := fun h => hk h.symm
    simp [hk, this]

/-- The split of an instruction that issues goes on together to `pc`: nothing else of its table changes. -/
theorem send_issues {s : State} {g : Nat × Bool} {c : Ctx} {pc : PC} {w : Warp} (h : s.IssuesTo g c pc)
    (hw : w.entries = c.w.entries) :
    w.send c.e [(pc, c.run)] = w.setEntry c.e { c.w.entry c.e with pc := pc, wait := .none } := by
  obtain ⟨_, _, _, _, _, _, hrun, _⟩ := ctx_some h.ctx
  have hent : w.entry c.e = c.w.entry c.e := by simp [Warp.entry, hw]
  have hsend : (w.entry c.e).send [(pc, c.run)] = { c.w.entry c.e with pc := pc, wait := .none } := by
    rw [hent, send_one h.lanes h.single h.notJ, hrun, ← h.running]
  rw [Warp.send, hsend]
  apply fuse_settled
  intro e he
  rw [← h.settled e he]
  apply canFuse_shape
  simp only [Warp.setEntry, hw]
  have hx : c.w.entry c.e = c.w.entries[c.e]'h.inTable := by simp [Warp.entry, List.getD_eq_getElem?_getD, h.inTable]
  apply List.ext_getElem
  · simp
  · intro n hn1 hn2
    simp only [List.getElem_map, List.getElem_set]
    split
    · rename_i hne; subst hne; rw [hx]; rfl
    · rfl

/-- Outside a travel launch no lane leaves for another segment. -/
theorem leaving_plain {s : State} {l : Launch} {w : Warp} {parts : List (PC × Mask)} (h : l.packet.travel = false) :
    s.leaving l w parts = [] := by
  simp [State.leaving, h]

/-- Where no lane leaves the segment no departure can fail. -/
theorem departCheck_none {s : State} {l : Launch} {w : Warp} {parts : List (PC × Mask)} (h : s.leaving l w parts = []) :
    s.departCheck l w parts = none := by
  simp [State.departCheck, h]

theorem depart_nil (s : State) (l : Launch) (w : Warp) : s.depart l w [] = s := by
  simp [State.depart]

/-! ### exit and step (04 R97; 14 R341) -/

theorem exec_exit (f : FormV) (s : State) : exec (.exit_ f) s = execExit f s := rfl
theorem exec_step (f : FormV) (s : State) : exec (.step_ f) s = execStep f s := rfl
theorem exec_yield (f : FormV) (s : State) : exec (.yield f) s = execYield f s := rfl
theorem exec_sleep (f : FormI) (s : State) : exec (.sleep f) s = execSleep f s := rfl

/-- The split after its effective lanes have gone, before they leave the warp: the others are at the next slot. -/
def Ctx.othersOn (c : Ctx) : Warp := c.w.send c.e [(nextSlot c.pc, c.run &&& ~~~c.eff)]

/-- The state in which the effective lanes have left the warp and their threads have ended (01 R23; 04 R97). -/
def State.left (s : State) (c : Ctx) : State :=
  ((({ s with issue := none } : State).putWarp c.othersOn).endThreads c.othersOn c.eff).putWarp (c.othersOn.drop c.eff)

section
variable {s : State} {c : Ctx} (hw : s.warp? c.w.uid = some c.w)
include hw

/-- The lanes leave outside a travel launch: what is left is what comes about of the state in which they are gone. -/
theorem leave_eq {l : Launch} (hl : s.launch? c.w.launch = some l) (ht : l.packet.travel = false) (hc : c.l.packet.travel = false) :
    s.leave c = (s.left c).stabilise := by
  obtain ⟨huid, _⟩ := Warp.entriesOnly_same (send_entriesOnly c.w c.e [(nextSlot c.pc, c.run &&& ~~~c.eff)])
  have hadv : ({ s with issue := none } : State).advance c.w.uid c.e [(nextSlot c.pc, c.run &&& ~~~c.eff)]
      = ({ s with issue := none } : State).putWarp c.othersOn := by
    have hw' : ({ s with issue := none } : State).warp? c.w.uid = some c.w := hw
    have hl' : ({ s with issue := none } : State).launch? c.w.launch = some l := hl
    simp only [State.advance, hw', hl', leaving_plain ht, List.isEmpty_nil, if_true, Ctx.othersOn]
  have hput : (({ s with issue := none } : State).putWarp c.othersOn).warp? c.w.uid = some c.othersOn := by
    rw [← huid]
    exact State.warp?_putWarp (s := { s with issue := none }) (w := c.othersOn) (huid ▸ hw)
  simp only [State.leave, departCheck_none (leaving_plain hc), hadv, State.dropLanes, hput, State.left]

/-- The warp without them: every register and predicate and the clock as before. -/
theorem left_warp : ∃ v, (s.left c).warp? c.w.uid = some v ∧ v.living = c.w.living &&& ~~~c.eff ∧ v.regs = c.w.regs ∧
    v.preds = c.w.preds ∧ v.tickets = c.w.tickets ∧ v.clock = c.w.clock := by
  obtain ⟨huid, _, hliving, hregs, hpreds, htickets, hclock⟩ :=
    Warp.entriesOnly_same (send_entriesOnly c.w c.e [(nextSlot c.pc, c.run &&& ~~~c.eff)])
  obtain ⟨huid', hliving', hregs', hpreds', htickets', hclock'⟩ := drop_same c.othersOn c.eff
  refine ⟨c.othersOn.drop c.eff, ?_, by rw [hliving']; exact congrArg (· &&& _) hliving, hregs'.trans hregs,
    hpreds'.trans hpreds, htickets'.trans htickets, hclock'.trans hclock⟩
  have hput : (({ s with issue := none } : State).putWarp c.othersOn).warp? c.othersOn.uid = some c.othersOn :=
    State.warp?_putWarp (s := { s with issue := none }) (w := c.othersOn) (huid ▸ hw)
  have hend : ((({ s with issue := none } : State).putWarp c.othersOn).endThreads c.othersOn c.eff).warp?
      (c.othersOn.drop c.eff).uid = some c.othersOn := by
    rw [huid']; exact hput
  have := State.warp?_putWarp hend
  rwa [huid', show c.othersOn.uid = c.w.uid from huid] at this

end

/-- The launch's triggers and end count their warp's clock (14 R336, R337). -/
theorem left_launch {s : State} {c : Ctx} {l : Launch} (hl : s.launch? c.w.launch = some l) :
    ∃ k, (s.left c).launch? c.w.launch = some k ∧ k = { l with
      endStamp := max l.endStamp c.w.clock, trigClock := max l.trigClock c.w.clock,
      endPast := k.endPast, trigPast := k.trigPast } := by
  obtain ⟨_, hlaunch, _, _, _, _, hclock⟩ :=
    Warp.entriesOnly_same (send_entriesOnly c.w c.e [(nextSlot c.pc, c.run &&& ~~~c.eff)])
  have hlaunch : c.othersOn.launch = c.w.launch := hlaunch
  have hclock : c.othersOn.clock = c.w.clock := hclock
  simp only [State.left, State.endThreads, hlaunch, hclock]
  exact ⟨_, launch?_modLaunch (s := ({ s with issue := none } : State).putWarp c.othersOn) (fun _ => rfl) hl, rfl⟩

/-- Every other launch is as before. -/
theorem left_launches {s : State} {c : Ctx} {k : Launch} (hk : k ∈ s.launches) (hne : k.id ≠ c.w.launch) :
    k ∈ (s.left c).launches := by
  obtain ⟨_, hlaunch, _⟩ := Warp.entriesOnly_same (send_entriesOnly c.w c.e [(nextSlot c.pc, c.run &&& ~~~c.eff)])
  exact mem_modLaunch (s := ({ s with issue := none } : State).putWarp c.othersOn) hk (by rwa [← hlaunch] at hne)

theorem left_mem (s : State) (c : Ctx) : (s.left c).mem = s.mem := rfl
theorem left_wgs (s : State) (c : Ctx) : (s.left c).wgs = s.wgs := rfl

/-- The state in which a workgroup and a launch are marked stepped (14 R341). -/
def State.stepped (s : State) (c : Ctx) : State :=
  (s.modWg c.g.uid fun g => { g with stepped := true }).modLaunch c.l.id fun l => { l with stepped := true }

theorem stepped_launch {s : State} {c : Ctx} (hl : s.launch? c.w.launch = some c.l) (hid : c.l.id = c.w.launch) :
    (s.stepped c).launch? c.w.launch = some { c.l with stepped := true } := by
  rw [← hid] at hl ⊢
  exact launch?_modLaunch (s := s.modWg c.g.uid fun g => { g with stepped := true }) (f := fun l => { l with stepped := true })
    (fun _ => rfl) hl

theorem stepped_warp {s : State} (c : Ctx) {u : Nat} {w : Warp} (h : s.warp? u = some w) : (s.stepped c).warp? u = some w := h

theorem stepped_wg {s : State} {c : Ctx} (hg : s.wg? c.g.uid = some c.g) :
    (s.stepped c).wg? c.g.uid = some { c.g with stepped := true } :=
  wg?_modWg (fun _ => rfl) hg

/-! ### yield (04 R98) -/

/-- Lanes added to a group stand in it. -/
theorem addReady_mem (sd : List Group) (k : PC) {m : Mask} (kind : GroupKind) (hm : m ≠ 0) :
    ∃ z ∈ addReady sd k m kind, z.key = k ∧ z.kind = kind ∧ z.arrived = false ∧ m &&& z.lanes = m := by
  simp only [addReady, if_neg hm]
  split
  · rename_i hany
    obtain ⟨g, hg, hcond⟩ := List.any_eq_true.mp hany
    refine ⟨{ g with lanes := g.lanes ||| m }, List.mem_map.mpr ⟨g, hg, by rw [if_pos hcond]⟩, ?_⟩
    simp only [Bool.and_eq_true, Bool.not_eq_true', beq_iff_eq] at hcond
    refine ⟨hcond.1.2, hcond.2, hcond.1.1, ?_⟩
    apply BitVec.eq_of_getLsbD_eq
    intro i _
    simp only [BitVec.getLsbD_and, BitVec.getLsbD_or]
    cases m.getLsbD i <;> simp
  · exact ⟨_, List.mem_append_right _ (List.mem_singleton.mpr rfl), rfl, rfl, rfl, by simp⟩

/-- A split without running lanes runs the least key of its siding (01 R17). -/
theorem settle_least {x : Entry} {k : PC} (hm : x.mask = 0) (hk : minKey x.siding = some k) (hj : x.j ≠ some k) :
    Entry.settle settleFuel x
      = { x with pc := k, mask := lanesAt x.siding k, siding := without x.siding k, st := .run, wait := .none } := by
  have hs : addReady x.siding x.pc x.mask = x.siding := by simp [addReady, hm]
  rw [settleFuel, Entry.settle]
  simp only [hs, hk, if_neg hj]

/-- Where a siding has a least key, a group stands ready in it. -/
theorem readyGroups_of_minKey {sd : List Group} {k : PC} (hk : minKey sd = some k) : (readyGroups sd).isEmpty = false := by
  cases h : readyGroups sd with
  | nil => simp [minKey, h, least] at hk
  | cons => rfl

/-- The groups of other kinds than YIELD: those for which the yielding lanes stand aside. -/
def yieldsTo (y : Group) : Bool := y.arrived || y.kind != .yielded

/-- The least of them runs, and the yielding lanes stand aside as a YIELD group keyed by the next PC (log 38). -/
theorem yieldTo_others {x : Entry} {next k : PC} {eff : Mask} (he : eff ≠ 0)
    (hk : minKey (x.siding.filter yieldsTo) = some k) (hj : x.j ≠ some k) :
    let y := x.yieldTo next eff 0
    y.st = .run ∧ y.pc = k ∧ y.mask = lanesAt (x.siding.filter yieldsTo) k ∧
      ∃ z ∈ y.siding, z.key = next ∧ z.kind = .yielded ∧ z.arrived = false ∧ eff &&& z.lanes = eff := by
  have hothers : x.siding.filter (fun g => !(!g.arrived && g.kind == .yielded)) = x.siding.filter yieldsTo := by
    congr 1; funext g; simp [yieldsTo, bne]
  have hnone : ∀ sd, addReady sd next 0 = sd := fun sd => by simp [addReady]
  simp only [Entry.yieldTo, hothers, readyGroups_of_minKey hk, Bool.false_eq_true, if_false,
    settle_least (x := { x with mask := 0, siding := x.siding.filter yieldsTo }) rfl hk hj, if_true, hnone]
  split
  · exact ⟨rfl, rfl, BitVec.or_zero, addReady_mem _ _ _ he⟩
  · exact ⟨rfl, rfl, rfl, addReady_mem _ _ _ he⟩

/-- A split with nothing else ready goes on at the next slot. -/
theorem yieldTo_alone {x : Entry} {next : PC} {run eff : Mask} (hr : eff &&& ~~~run = 0) (hsd : readyGroups x.siding = []) :
    x.yieldTo next eff (run &&& ~~~eff) = x.send [(next, run)] := by
  have hall : eff ||| run &&& ~~~eff = run := by
    apply BitVec.eq_of_getLsbD_eq
    intro i hi
    have := congrArg (·.getLsbD i) hr
    simp only [BitVec.getLsbD_and, BitVec.getLsbD_not, BitVec.getLsbD_or] at this ⊢
    cases h1 : eff.getLsbD i <;> cases h2 : run.getLsbD i <;> simp_all
  have hnone : readyGroups (x.siding.filter fun g => !(!g.arrived && g.kind == .yielded)) = [] := by
    simp only [readyGroups, List.filter_eq_nil_iff, List.mem_filter] at hsd ⊢
    exact fun g hg => hsd g hg.1
  simp only [Entry.yieldTo, hnone, List.isEmpty_nil, if_true, hall]
  rfl

theorem yield_goes_on {s : State} {c : Ctx} {f : FormV} (h : s.Issues f.guard c) :
    exec (.yield f) s = .next (if c.eff = 0 then s.after c c.w else State.stabilise (s.after c c.w)) := by
  simp only [exec_yield, execYield, h.ctx, h.stays]
  by_cases he : c.eff = 0
  · simp [he, finish_same h]
  · have hsend : Warp.fuse 8 (c.w.setEntry c.e ((c.w.entry c.e).yieldTo (nextSlot c.pc) c.eff (c.run &&& ~~~c.eff)))
        = c.w.setEntry c.e { c.w.entry c.e with pc := nextSlot c.pc, wait := .none } := by
      rw [yieldTo_alone (ctx_eff_run h.ctx) h.single]
      exact send_issues h rfl
    simp only [he, decide_false, List.isEmpty_nil, Bool.not_true, Bool.and_false, Bool.or_false, Bool.false_eq_true,
      if_false, hsend]
    rfl

/-! ### sleep (04 R99) -/

theorem sleep_blocks {s : State} {c : Ctx} {f : FormI} (h : s.ctx? f.guard = some c) (he : c.eff ≠ 0) (hn : f.imm ≠ 0) :
    exec (.sleep f) s
      = .next (State.done (s.block c.w.uid c.e (nextSlot c.pc) (.sleep (s.cycle + f.imm.toNat)))) := by
  have hcond : (decide (c.eff = 0) || decide (f.imm = 0)) = false := by
    rw [decide_eq_false he, decide_eq_false hn]; rfl
  simp only [exec_sleep, execSleep, h, hcond, Bool.false_eq_true, if_false]

theorem sleep_goes_on {s : State} {c : Ctx} {f : FormI} (h : s.Issues f.guard c) (h0 : c.eff = 0 ∨ f.imm = 0) :
    exec (.sleep f) s = .next (s.after c c.w) := by
  have hcond : (decide (c.eff = 0) || decide (f.imm = 0)) = true := by
    rw [Bool.or_eq_true, decide_eq_true_eq, decide_eq_true_eq]; exact h0
  simp only [exec_sleep, execSleep, h.ctx, hcond, if_true, finish_same h]

/-! ### exit and step as the statement has them -/

section
variable {s : State} {c : Ctx} {f : FormV} (h : s.ctx? f.guard = some c) (he : c.eff ≠ 0) (ht : c.l.packet.travel = false)
include h he ht

theorem exit_leaves : exec (.exit_ f) s = .next (s.left c).stabilise := by
  obtain ⟨hl, _⟩ := ctx_launch h
  simp only [exec_exit, execExit, h, if_neg he, leave_eq (ctx_warp h) hl ht ht]

theorem step_leaves : exec (.step_ f) s = .next ((s.stepped c).left c).stabilise := by
  obtain ⟨hl, hid⟩ := ctx_launch h
  have hw := stepped_warp c (ctx_warp h)
  have := leave_eq hw (stepped_launch hl hid) ht ht
  simp only [exec_step, execStep, h, if_neg he, ht, Bool.false_eq_true, if_false]
  exact congrArg _ this

end

end Sys2Proof.Machine

namespace Sys2Proof.Proofs
open Sys2Proof.Machine

/-- Settles O20: the lanes that leave by the fields of `State.left`, the lanes that pause by the frontier rule. -/
theorem lanesLeaveAndPause : Obligations.LanesLeaveAndPause := by
  refine ⟨fun s c f h he ht => ?_, fun s c f g => ⟨yield_goes_on, ?_, sleep_blocks, sleep_goes_on⟩⟩
  · obtain ⟨hl, hid⟩ := ctx_launch h
    refine ⟨?_, ?_⟩
    · obtain ⟨v, hv, hliving, hregs, hpreds, htickets, hclock⟩ := left_warp (ctx_warp h)
      refine ⟨s.left c, v, exit_leaves h he ht, hv, hliving, hregs, hpreds, htickets, hclock, left_mem s c, left_wgs s c,
        fun k hk hne => left_launches hk (hid ▸ hne), ?_⟩
      rw [hid]
      exact left_launch hl
    · have hw := stepped_warp c (ctx_warp h)
      obtain ⟨v, hv, hliving, hregs, hpreds, -⟩ := left_warp hw
      obtain ⟨l, hk, hl'⟩ := left_launch (stepped_launch hl hid)
      exact ⟨(s.stepped c).left c, v, l, _, step_leaves h he ht, hv, hliving, hregs, hpreds, left_mem _ c, hid ▸ hk,
        by rw [hl'], stepped_wg (ctx_wg h), rfl⟩
  · exact fun x next k eff he hk hj => yieldTo_others he hk hj

end Sys2Proof.Proofs

namespace Sys2Proof.Machine

/-! ### The check of a branch's PCs leaves the warps alone (02 R49, R448) -/

/-- `t` is `s` but for memory, translations and clocks: its warps, its launches and the harvest of its dies. -/
structure State.Fetched (s t : State) : Prop where
  warps    : t.warps = s.warps
  launches : t.launches = s.launches
  harvest  : ∀ d, (t.die d).harvest = (s.die d).harvest

namespace State.Fetched

theorem refl (s : State) : s.Fetched s := ⟨rfl, rfl, fun _ => rfl⟩

theorem trans {s t u : State} (h1 : s.Fetched t) (h2 : t.Fetched u) : s.Fetched u :=
  ⟨h2.warps.trans h1.warps, h2.launches.trans h1.launches, fun d => (h2.harvest d).trans (h1.harvest d)⟩

theorem of_eq {s t : State} (hw : t.warps = s.warps) (hl : t.launches = s.launches) (hd : t.dies = s.dies) : s.Fetched t :=
  ⟨hw, hl, fun d => by simp [State.die, hd]⟩

theorem withTlb (s : State) (l : List TlbEntry) : s.Fetched { s with tlb := l } := of_eq rfl rfl rfl

theorem raiseRegionFloor (s : State) (n : Nat) (v : Stamp) : s.Fetched (s.raiseRegionFloor n v) := by
  simp only [State.raiseRegionFloor]; split
  · exact refl s
  · exact of_eq rfl rfl rfl

theorem raiseStackFloor (s : State) (k : Nat) (v : Stamp) : s.Fetched (s.raiseStackFloor k v) := by
  simp only [State.raiseStackFloor]; split
  · exact refl s
  · exact of_eq rfl rfl rfl

theorem logged (s : State) (r : LogRecord) : s.Fetched (s.logged r) := of_eq rfl rfl rfl

theorem appendVersion (s : State) (sec c : Nat) : s.Fetched (s.appendVersion sec c) := by
  simp only [State.appendVersion]
  have hv : ∀ v, s.Fetched { s with versions := v } := fun v => of_eq rfl rfl rfl
  repeat' split
  · exact refl s
  · exact refl s
  · exact ((hv _).trans (raiseRegionFloor ..)).trans (logged ..)
  · exact (hv _).trans (raiseRegionFloor ..)
  · exact ((hv _).trans (raiseStackFloor ..)).trans (logged ..)
  · exact (hv _).trans (raiseStackFloor ..)
  · exact hv _

theorem performWrite (s : State) (pa : Nat) (bs : List Byte) (k : Stamp) : s.Fetched (s.performWrite pa bs k).1 :=
  (appendVersion s (pa / 32) _).trans (of_eq rfl rfl rfl)

theorem signed (s : State) (p : Writer) (lo : Nat) (holes : List Nat) : s.Fetched (s.signed p lo holes) := by
  simp only [State.signed]; split
  · exact refl s
  · exact of_eq rfl rfl rfl

theorem setAD (s : State) (die asid : Nat) (va : DWord) (level a : Nat) (p : DWord) (write : Bool) (who : Writer) :
    s.Fetched (s.setAD die asid va level a p write who) := by
  simp only [State.setAD]
  split
  · exact refl s
  · split
    · exact trans (trans (performWrite ..) (signed ..)) (withTlb ..)
    · exact trans (performWrite ..) (withTlb ..)

theorem lookup (s : State) (die asid : Nat) (va : DWord) : s.Fetched (s.lookup die asid va).1 := by
  simp only [State.lookup]
  repeat' split
  · exact refl s
  · exact of_eq rfl rfl rfl
  · exact refl s

theorem current (s : State) (die asid : Nat) (va : DWord) (write : Bool) : s.Fetched (s.current die asid va write).1 := by
  have hl := lookup s die asid va
  simp only [State.current]
  split
  · rename_i t l a p ht
    rw [ht] at hl
    split
    · exact (hl.trans (withTlb t _)).trans (lookup ..)
    · exact hl
  · exact hl

theorem xlate (s : State) (die asid : Nat) (va : DWord) (need : Need) : s.Fetched (s.xlate die asid va need).1 := by
  have hc := current s die asid va need.writes
  simp only [State.xlate]
  split
  · exact refl s
  · split
    · rename_i t l r ht
      rw [ht] at hc; exact hc
    · rename_i t l a p ht
      rw [ht] at hc
      repeat' split
      all_goals exact hc

theorem touch (s : State) (die asid : Nat) (va : DWord) (write : Bool) (who : Writer) :
    s.Fetched (s.touch die asid va write who) := by
  have hl := lookup s die asid va
  simp only [State.touch]
  split
  · rename_i t l a p ht
    rw [ht] at hl
    exact hl.trans (setAD ..)
  · rename_i t r _ ht
    rw [ht] at hl; exact hl

theorem copyOfLine (s : State) (d pa : Nat) : s.Fetched (s.copyOfLine d pa).1 := by
  simp only [State.copyOfLine]; split
  · exact of_eq rfl rfl rfl
  · exact refl s

/-- A corrected error is counted by its die. -/
theorem correctedError (s : State) (d : Nat) : s.Fetched (s.correctedError d) := by
  refine ⟨rfl, rfl, fun k => ?_⟩
  simp only [State.correctedError, State.modDie, State.die, modAt, List.getD_eq_getElem?_getD, List.getElem?_map,
    List.getElem?_zipIdx]
  cases s.dies[k]? with
  | none => rfl
  | some x => simp only [Option.map_some, Option.getD_some]; split <;> rfl

theorem fetchLine (s : State) (w : Warp) (asid e : Nat) (pc : PC) : s.Fetched (s.fetchLine w asid e pc).1 := by
  have hx := xlate s w.die asid pc .fetch
  simp only [State.fetchLine]
  split
  · rename_i t l r ht
    rw [ht] at hx; exact hx
  · rename_i t ht
    rw [ht] at hx; exact hx
  · rename_i t pa p ht
    rw [ht] at hx
    have htouch := hx.trans (touch t w.die asid pc false {})
    generalize t.touch w.die asid pc false = t at htouch ⊢
    have first : ∀ (u : State) o, (match t.pinnedLine w pc with
        | some l => (t, if parityOk l then some l else none)
        | none => t.copyOfLine w.die (pa / 64 * 64)) = (u, o) → t.Fetched u := by
      intro u o hu
      split at hu
      · cases hu; exact refl t
      · have := copyOfLine t w.die (pa / 64 * 64)
        rwa [hu] at this
    split
    · rename_i u l hu
      exact htouch.trans (first u _ hu)
    · rename_i u hu
      have hc := (htouch.trans (first u _ hu)).trans (copyOfLine u w.die (pa / 64 * 64))
      split
      · rename_i v l hv
        rw [hv] at hc
        exact hc.trans (correctedError v w.die)
      · rename_i v hv
        rw [hv] at hc
        exact hc

theorem checkTarget (s : State) (w : Warp) (asid e : Nat) (pc : PC) : s.Fetched (s.checkTarget w asid e pc).1 := by
  have hf := fetchLine s w asid e pc
  simp only [State.checkTarget]
  split
  · exact refl s
  · split <;> (rename_i ht; rw [ht] at hf; exact hf)

theorem checkTargets {s u : State} {c : Ctx} {ps : List PC} (h : s.checkTargets c ps = (u, none)) : s.Fetched u := by
  induction ps generalizing s with
  | nil => cases h; exact refl _
  | cons p r ih =>
    have hc := checkTarget s c.w (s.asidOf c.w) c.e p
    simp only [State.checkTargets] at h
    split at h
    · rename_i t ht
      rw [ht] at hc
      exact hc.trans (ih h)
    · cases h

end State.Fetched

/-! ### Branches that move all their lanes together (04 R94 to R96) -/

theorem exec_bra (f : FormB) (s : State) : exec (.bra f) s = execBra f s := rfl
theorem exec_call (f : FormB) (s : State) : exec (.call f) s = execCall f s := rfl
theorem exec_brx (f : FormB) (s : State) : exec (.brx f) s = s.indirect f := rfl
theorem exec_ret (f : FormB) (s : State) : exec (.ret f) s = s.indirect f := rfl

/-- The cores of a die are in the order they were, so the same lanes leave a segment. -/
theorem State.Fetched.leaving {s t : State} (h : s.Fetched t) (l : Launch) (w : Warp) (parts : List (PC × Mask)) :
    t.leaving l w parts = s.leaving l w parts := by
  have hcores : t.logicalCores l.dies = s.logicalCores l.dies := by
    simp only [State.logicalCores, State.logicalOrder, State.clusterCores, h.harvest]
  simp only [State.leaving, State.pinnedOn, hcores]

/-- Parts without lanes leave for nowhere. -/
theorem leaving_append_empty (s : State) (l : Launch) (w : Warp) (parts : List (PC × Mask)) (p : PC) :
    s.leaving l w (parts ++ [(p, 0)]) = s.leaving l w parts := by
  simp [State.leaving, List.filter_append]

/-- A branch to one PC is a step there. -/
theorem branch_one {w : Warp} {e now : Nat} {p q j : PC} {m : Mask} (hm : m ≠ 0) :
    w.branch e [(p, m), (q, 0)] j now = w.send e [(p, m)] := by
  have hparts : mergeParts [(p, m), (q, 0)] = [(p, m)] := by
    simp only [mergeParts, if_true, if_neg hm, List.any_nil, Bool.false_eq_true, if_false]
  simp only [Warp.branch, hparts]
  split
  · rename_i n low hfree hlow
    simp
  · rfl

/-- The PCs checked, the lanes of a branch move together. -/
theorem branchTo_together {s u : State} {g : Nat × Bool} {c : Ctx} {p q j : PC} {w : Warp} (h : s.IssuesTo g c p)
    (hu : s.Fetched u) (hw : c.w.regsOnly w) : u.branchTo c w [(p, c.run), (q, 0)] j = u.movedTo c w p := by
  obtain ⟨huid, _, _, _, _, hentries, _, _⟩ := Warp.regsOnly_same hw
  have hstay : u.leaving c.l c.w [(p, c.run), (q, 0)] = [] := by
    rw [hu.leaving, show [(p, c.run), (q, 0)] = [(p, c.run)] ++ [(q, 0)] from rfl, leaving_append_empty, h.stays]
  have hfind : u.warp? w.uid = some c.w := by
    rw [huid, State.warp?, hu.warps]; exact ctx_warp h.ctx
  have hmoved : (u.movedTo c w p).warp? w.uid = some (w.setEntry c.e { c.w.entry c.e with pc := p, wait := .none }) :=
    State.warp?_putWarp (w := w.setEntry c.e { c.w.entry c.e with pc := p, wait := .none }) hfind
  have hrun : ((w.setEntry c.e { c.w.entry c.e with pc := p, wait := .none }).entry c.e).st = .run := by
    rw [setEntry_entry, if_pos ⟨rfl, by rw [hentries]; exact h.inTable⟩]
    exact h.running
  simp only [State.branchTo, departCheck_none hstay, hstay, depart_nil, List.foldl_nil, if_true, branch_one h.lanes,
    send_issues h hentries]
  simp only [State.movedTo] at hmoved ⊢
  simp only [hmoved, hrun]
  rfl

/-- A legal branch of all the running lanes to a PC that lies in a segment. -/
theorem branch_together {s u : State} {g : Nat × Bool} {c : Ctx} {p j : PC} {w : Warp} {ps : List PC} (h : s.IssuesTo g c p)
    {t : State} (hst : s.Fetched t) (hin : c.l.packet.travel = true → (c.l.segmentOf p).isSome = true) (he : c.eff = c.run)
    (hu : t.checkTargets c ps = (u, none)) (hw : c.w.regsOnly w) :
    t.branch c w ps [(p, c.eff)] j = .next (u.movedTo c w p) := by
  have hseg : (if c.l.packet.travel = true then [(p, c.eff)].find? (fun x => x.2 != 0 && (c.l.segmentOf x.1).isNone) else none)
      = none := by
    split
    · rename_i ht
      obtain ⟨x, hx⟩ := Option.isSome_iff_exists.mp (hin ht)
      simp [hx]
    · rfl
  have hoff : c.run &&& ~~~c.eff = 0 := by rw [he]; simp
  simp only [State.branch, hseg, hu, List.singleton_append, hoff]
  rw [he, branchTo_together h (hst.trans (.checkTargets hu)) hw]

/-- PCs checked in order: the first, then the rest. -/
theorem checkTargets_cons {s u : State} {c : Ctx} {p : PC} {ps : List PC} (h : s.checkTargets c (p :: ps) = (u, none)) :
    ∃ t, s.checkTargets c [p] = (t, none) ∧ t.checkTargets c ps = (u, none) := by
  simp only [State.checkTargets] at h ⊢
  split at h
  · rename_i t _
    exact ⟨t, rfl, h⟩
  · cases h

theorem lanesOf_ne_nil {m : Mask} (hm : m ≠ 0) : lanesOf m ≠ [] := by
  intro h
  apply hm
  apply BitVec.eq_of_getLsbD_eq
  intro i hi
  have := List.filter_eq_nil_iff.mp h i (List.mem_range.mpr hi)
  simpa using this

theorem mem_lanesOf {m : Mask} {i : Nat} : i ∈ lanesOf m ↔ i < 32 ∧ m.getLsbD i = true := by
  simp [lanesOf]

/-- Lanes that all give one value give one value. -/
theorem eraseDups_map_const {f : Nat → PC} {l : List Nat} {p : PC} (hne : l ≠ []) (h : ∀ i ∈ l, f i = p) :
    (l.map f).eraseDups = [p] := by
  cases l with
  | nil => exact absurd rfl hne
  | cons i r =>
    have hrest : (r.map f).filter (fun b => !b == p) = [] := by
      rw [List.filter_eq_nil_iff]
      intro b hb
      obtain ⟨k, hk, rfl⟩ := List.mem_map.mp hb
      simp [h k (List.mem_cons_of_mem _ hk)]
    rw [List.map_cons, h i List.mem_cons_self, List.eraseDups_cons, hrest, List.eraseDups_nil]

/-- The last-use marks alone: every other register is as before. -/
theorem kill_wrote (c : Ctx) (marks : List Nat) : c.Wrote (c.w.kill c.full marks []) [] marks :=
  ⟨(kill_regsOnly ..).1, by simp, by simp, by simp, by simp, fun n _ => by rw [kill_reg]; simp⟩

/-- A branch to the PC that every lane reads from the link pair (04 R96). -/
theorem indirect_together {s u : State} {c : Ctx} {f : FormB} {p : PC} (h : s.IssuesTo f.guard c p)
    (hin : c.l.packet.travel = true → (c.l.segmentOf p).isSome = true) (he : c.eff = c.run)
    (hp : ∀ i, i < 32 → c.eff.getLsbD i = true → c.w.pair f.lnk.toNat i = p)
    (hd : c.deadRead [f.lnk.toNat, f.lnk.toNat + 1] = none)
    (hu : s.checkTargets c [targetOf c.pc f.joff f.jslot, p] = (u, none)) :
    s.indirect f = .next (u.movedTo c
      (c.w.kill c.full (if f.lulnk then [f.lnk.toNat, f.lnk.toNat + 1] else []) []) p) := by
  obtain ⟨t, hj, ht⟩ := checkTargets_cons hu
  have hpcs : ((lanesOf c.eff).map fun i => c.w.pair f.lnk.toNat i).eraseDups = [p] :=
    eraseDups_map_const (lanesOf_ne_nil (he ▸ h.lanes)) fun i hi => hp i (mem_lanesOf.mp hi).1 (mem_lanesOf.mp hi).2
  have hmask : (maskOf fun i => c.eff.getLsbD i && c.w.pair f.lnk.toNat i == p) = c.eff := by
    apply BitVec.eq_of_getLsbD_eq
    intro i hi
    rw [maskOf_bit hi]
    cases hb : c.eff.getLsbD i with
    | false => rfl
    | true => simp [hp i hi hb]
  simp only [State.indirect, h.ctx, hj, hd, hpcs, List.map_cons, List.map_nil, hmask]
  exact branch_together h (.checkTargets hj) hin he ht (kill_regsOnly ..)

/-! ### Divergent branches (01 R17, R18) -/

/-- A guarded branch outside a travel launch splits its lanes by the rule of divergent branches. -/
theorem bra_guarded {s u : State} {c : Ctx} {f : FormB} (h : s.ctx? f.guard = some c) (hg : FormB.guarded f = true)
    (ht : c.l.packet.travel = false) :
    let t := targetOf c.pc f.toff f.tslot; let j := targetOf c.pc f.joff f.jslot
    let w := c.w.branch c.e [(t, c.eff), (nextSlot c.pc, c.run &&& ~~~c.eff)] j u.cycle
    s.checkTargets c [t, j] = (u, none) → (w.entry c.e).st = .run → u.warp? c.w.uid = some c.w → w.uid = c.w.uid →
      exec (.bra f) s = .next { u.putWarp w with issue := none } := by
  intro t j w hu hrun hfind huid
  have hput : ({ u.putWarp w with issue := none } : State).warp? c.w.uid = some w := by
    rw [← huid]; exact State.warp?_putWarp (s := u) (huid ▸ hfind)
  simp only [exec_bra, execBra, h, State.branch, ht, Bool.false_eq_true, if_false, hg, if_true]
  rw [show s.checkTargets c [targetOf c.pc f.toff f.tslot, targetOf c.pc f.joff f.jslot] = (u, none) from hu]
  simp only [State.branchTo, leaving_plain ht, departCheck_none (leaving_plain ht), depart_nil, List.foldl_nil, if_true,
    List.singleton_append]
  rw [show c.w.branch c.e [(targetOf c.pc f.toff f.tslot, c.eff), (nextSlot c.pc, c.run &&& ~~~c.eff)]
    (targetOf c.pc f.joff f.jslot) u.cycle = w from rfl, hput]
  simp [hrun]

theorem depth_lt_two {x : Entry} (h : x.depth < 2) : x.j = none ∨ x.jout = none := by
  cases hj : x.j <;> cases hjo : x.jout <;> simp_all [Entry.depth]

theorem freeEntry_some {w : Warp} {n : Nat} (h : w.freeEntry = some n) : n < 8 ∧ (w.entry n).st = .free :=
  ⟨List.mem_range.mp (List.mem_of_find?_eq_some h), by simpa using List.find?_some h⟩

/-! ### No fusion is due after a split (01 R18, R21) -/

theorem mem_siblings {w : Warp} {x : Entry} {m : Nat} :
    m ∈ w.siblings x ↔ m < 8 ∧ (w.entry m).st ≠ .free ∧ (w.entry m).j = x.j ∧ (w.entry m).jout = x.jout := by
  simp [Warp.siblings, and_assoc]

theorem hasNested_iff {w : Warp} {x : Entry} (hlen : w.entries.length = 8) :
    w.hasNested x = true ↔ x.jout = none ∧
      ∃ m, m < 8 ∧ (w.entry m).st ≠ .free ∧ (w.entry m).j.isSome = true ∧ (w.entry m).jout = x.j := by
  have hany : ∀ p : Entry → Bool, w.entries.any p = true ↔ ∃ m, m < 8 ∧ p (w.entry m) = true := by
    intro p
    rw [List.any_eq_true]
    constructor
    · rintro ⟨y, hy, hp⟩
      obtain ⟨m, hm, rfl⟩ := List.getElem_of_mem hy
      exact ⟨m, hlen ▸ hm, by simpa [Warp.entry, List.getD_eq_getElem?_getD, hm] using hp⟩
    · rintro ⟨m, hm, hp⟩
      have hm : m < w.entries.length := hlen ▸ hm
      exact ⟨w.entries[m], List.getElem_mem hm, by simpa [Warp.entry, List.getD_eq_getElem?_getD, hm] using hp⟩
  simp [Warp.hasNested, hany, and_assoc]

theorem canFuse_iff {w : Warp} {k : Nat} :
    w.canFuse k = true ↔ (w.entry k).st ≠ .free ∧ (∀ m ∈ w.siblings (w.entry k), (w.entry m).allArrived = true) ∧
      w.hasNested (w.entry k) = false ∧
      ∃ j, (w.entry k).j = some j ∧ ∃ m ∈ w.siblings (w.entry k), ∃ g ∈ (w.entry m).siding, g.kind = .fusion ∧ g.key = j := by
  simp only [Warp.canFuse]
  cases hj : (w.entry k).j with
  | none => simp
  | some j => simp only [Option.some.injEq, exists_eq_left']; simp [and_assoc]

theorem running_not_arrived {x : Entry} (h : x.st = .run) : x.allArrived = false := by
  simp [Entry.allArrived, h]

section
variable {w v : Warp} {e n : Nat} {j : PC} (hlen : w.entries.length = 8) (hlen' : v.entries.length = 8)
  (hsame : ∀ m, m ≠ e → m ≠ n → v.entry m = w.entry m)
  (hnew : ∀ m, m = e ∨ m = n → m < 8 ∧ (v.entry m).st = .run ∧ (v.entry m).j = some j ∧ (v.entry m).jout = (w.entry e).j)
  (hrun : (w.entry e).st = .run) (hfree : (w.entry n).st = .free)
  (hdepth : (w.entry e).j = none ∨ (w.entry e).jout = none)
include hlen hlen' hsame hnew hrun hfree hdepth

/-- A split that leaves its siblings nests below them, and the new ones run: what can fuse after it could before. -/
theorem canFuse_of_split {k : Nat} (hk : k < 8) (h : v.canFuse k = true) : w.canFuse k = true := by
  obtain ⟨hst, harr, hnest, j', hj, hfusion⟩ := canFuse_iff.mp h
  have hout : ∀ m, m = e ∨ m = n → m ∉ v.siblings (v.entry k) := by
    intro m hm hin
    have := harr m hin
    rw [running_not_arrived (hnew m hm).2.1] at this
    cases this
  have hkin : k ∈ v.siblings (v.entry k) := mem_siblings.mpr ⟨hk, hst, rfl, rfl⟩
  have hkk : v.entry k = w.entry k := hsame k (fun h => hout k (.inl h) hkin) (fun h => hout k (.inr h) hkin)
  rw [hkk] at hst harr hnest hj hfusion hout
  -- the split was no sibling of `k`: it would now be nested below it
  have hesib : e ∉ w.siblings (w.entry k) := by
    intro hin
    obtain ⟨_, _, hej, hejo⟩ := mem_siblings.mp hin
    have hkjo : (w.entry k).jout = none := by
      rw [← hejo]
      exact hdepth.resolve_left (by rw [hej, hj]; simp)
    obtain ⟨he8, hest, hej', hejo'⟩ := hnew e (.inl rfl)
    have : v.hasNested (w.entry k) = true :=
      (hasNested_iff hlen').mpr ⟨hkjo, e, he8, by rw [hest]; decide, by rw [hej']; rfl, by rw [hejo', hej]⟩
    rw [hnest] at this
    cases this
  have hnsib : n ∉ w.siblings (w.entry k) := fun hin => (mem_siblings.mp hin).2.1 hfree
  have hsib : ∀ m, m ∈ w.siblings (w.entry k) ↔ m ∈ v.siblings (w.entry k) := by
    intro m
    by_cases hm : m = e ∨ m = n
    · refine iff_of_false ?_ (hout m hm)
      rcases hm with rfl | rfl
      · exact hesib
      · exact hnsib
    · rw [not_or] at hm
      simp only [mem_siblings, hsame m hm.1 hm.2]
  have hother : ∀ m ∈ v.siblings (w.entry k), v.entry m = w.entry m := fun m hm =>
    hsame m (fun h => hout m (.inl h) hm) (fun h => hout m (.inr h) hm)
  refine canFuse_iff.mpr ⟨hst, ?_, ?_, j', hj, ?_⟩
  · intro m hm
    have hm := (hsib m).mp hm
    rw [← hother m hm]
    exact harr m hm
  · cases hc : w.hasNested (w.entry k) with
    | false => rfl
    | true =>
      obtain ⟨hkjo, m, hm8, hmst, hmj, hmjo⟩ := (hasNested_iff hlen).mp hc
      have hme : m ≠ e := by
        rintro rfl
        rcases hdepth with h | h
        · rw [h] at hmj; cases hmj
        · rw [h, hj] at hmjo; cases hmjo
      have hmn : m ≠ n := by rintro rfl; exact hmst hfree
      have hvm := hsame m hme hmn
      have hnested : v.hasNested (w.entry k) = true :=
        (hasNested_iff hlen').mpr ⟨hkjo, m, hm8, by rwa [hvm], by rwa [hvm], by rwa [hvm]⟩
      exact hnested.symm.trans hnest
  · obtain ⟨m, hm, g, hg, hkind⟩ := hfusion
    rw [hother m hm] at hg
    exact ⟨m, (hsib m).mpr hm, g, hg, hkind⟩

end

/-! ### The rule of divergent branches -/

/-- The entry of a divergent branch after it: the lanes of the lower PC, at the reconvergence point `j` (01 R18). -/
def Entry.staying (x : Entry) (p j : PC) (m : Mask) : Entry := { x with pc := p, mask := m, j := some j, jout := x.j, wait := .none }

/-- The entry a divergent branch forms. -/
def Entry.forked (x : Entry) (q j : PC) (m : Mask) (now : Nat) : Entry :=
  { st := .run, pc := q, mask := m, j := some j, jout := x.j, lastIssue := now, readySince := now }

theorem mergeParts_two {p q : PC} {a b : Mask} (ha : a ≠ 0) (hb : b ≠ 0) (hpq : p ≠ q) :
    mergeParts [(p, a), (q, b)] = [(p, a), (q, b)] := by
  have hqp : (q == p) = false := beq_false_of_ne (Ne.symm hpq)
  simp only [mergeParts, if_neg ha, if_neg hb, List.any_nil, List.any_cons, hqp, Bool.or_false, Bool.false_eq_true, if_false]

/-- A divergent branch of two parts, whichever comes first, sends those of the lower PC on and forks the others. -/
theorem branch_parts {w : Warp} {e n now : Nat} {p q j : PC} {a b : Mask} (hsd : readyGroups (w.entry e).siding = [])
    (hst : (w.entry e).st = .run) (hfree : w.freeEntry = some n) (hlive : w.liveCount < 4) (hdepth : (w.entry e).depth < 2)
    (ha : a ≠ 0) (hb : b ≠ 0) (hpq : p.toNat < q.toNat) (hjp : j ≠ p) (hjq : j ≠ q) {r : List (PC × Mask)}
    (hr : r = [(p, a), (q, b)] ∨ r = [(q, b), (p, a)]) :
    w.branch e r j now
      = Warp.fuse 8 ((w.setEntry e ((w.entry e).staying p j a)).setEntry n ((w.entry e).forked q j b now)) := by
  have hne : p ≠ q := by rintro rfl; omega
  have hmerge : mergeParts r = r := by
    rcases hr with rfl | rfl
    · exact mergeParts_two ha hb hne
    · exact mergeParts_two hb ha hne.symm
  have hlow : least (r.map (·.1.toNat)) = some p.toNat := by
    rcases hr with rfl | rfl <;> simp [least] <;> omega
  have hlen : r.length = 2 := by rcases hr with rfl | rfl <;> rfl
  have hqp : (q == p) = false := beq_false_of_ne hne.symm
  have hstay : r.filter (·.1 == p) = [(p, a)] := by rcases hr with rfl | rfl <;> simp [hqp]
  have hgo : r.filter (·.1 != p) = [(q, b)] := by rcases hr with rfl | rfl <;> simp [Ne.symm hne]
  have hx : Entry.send { w.entry e with j := some j, jout := (w.entry e).j } [(p, a)] = (w.entry e).staying p j a := by
    have := send_one (x := { w.entry e with j := some j, jout := (w.entry e).j }) ha hsd (k := p) (by simpa using hjp)
    rw [this, Entry.staying]
    simp only [hst]
  have hy : Entry.send { j := some j, jout := (w.entry e).j, lastIssue := now, readySince := now } [(q, b)]
      = (w.entry e).forked q j b now := by
    rw [send_one hb rfl (by simpa using hjq)]; rfl
  simp only [Warp.branch, hmerge, hfree, hlow, hlen, hlive, hdepth, BitVec.ofNat_toNat, BitVec.setWidth_eq, hstay, hgo, hx, hy]
  simp

/-- It forms a second split, and no fusion follows. -/
theorem branch_forms_split {w : Warp} {e n now : Nat} {p q j : PC} {a b : Mask} (he : e < w.entries.length)
    (hlen : w.entries.length = 8) (hst : (w.entry e).st = .run) (hsd : readyGroups (w.entry e).siding = [])
    (hfree : w.freeEntry = some n) (hlive : w.liveCount < 4) (hdepth : (w.entry e).depth < 2) (ha : a ≠ 0) (hb : b ≠ 0)
    (hpq : p.toNat < q.toNat) (hjp : j ≠ p) (hjq : j ≠ q) (hset : ∀ k, k < 8 → w.canFuse k = false) {r : List (PC × Mask)}
    (hr : r = [(p, a), (q, b)] ∨ r = [(q, b), (p, a)]) :
    w.branch e r j now = (w.setEntry e ((w.entry e).staying p j a)).setEntry n ((w.entry e).forked q j b now) := by
  rw [branch_parts hsd hst hfree hlive hdepth ha hb hpq hjp hjq hr]
  obtain ⟨hn, hnfree⟩ := freeEntry_some hfree
  have hen : e ≠ n := by rintro rfl; rw [hst] at hnfree; cases hnfree
  generalize hv : (w.setEntry e ((w.entry e).staying p j a)).setEntry n ((w.entry e).forked q j b now) = v
  have hvlen : v.entries.length = 8 := by rw [← hv]; simp [Warp.setEntry, hlen]
  have hve : v.entry e = (w.entry e).staying p j a := by
    rw [← hv, setEntry_entry, if_neg (fun h => hen h.1), setEntry_entry, if_pos ⟨rfl, he⟩]
  have hvn : v.entry n = (w.entry e).forked q j b now := by
    rw [← hv, setEntry_entry, if_pos ⟨rfl, by simpa [Warp.setEntry, hlen] using hn⟩]
  have hsame : ∀ m, m ≠ e → m ≠ n → v.entry m = w.entry m := by
    intro m hme hmn
    rw [← hv, setEntry_entry, if_neg (fun h => hmn h.1), setEntry_entry, if_neg (fun h => hme h.1)]
  have hnew : ∀ m, m = e ∨ m = n →
      m < 8 ∧ (v.entry m).st = .run ∧ (v.entry m).j = some j ∧ (v.entry m).jout = (w.entry e).j := by
    rintro m (rfl | rfl)
    · exact ⟨hlen ▸ he, by rw [hve]; exact hst, by rw [hve]; rfl, by rw [hve]; rfl⟩
    · exact ⟨hn, by rw [hvn]; rfl, by rw [hvn]; rfl, by rw [hvn]; rfl⟩
  apply fuse_settled
  intro k hk
  cases hc : v.canFuse k with
  | false => rfl
  | true => exact (canFuse_of_split hlen hvlen hsame hnew hst hnfree (depth_lt_two hdepth) hk hc).symm.trans (hset k hk)

end Sys2Proof.Machine

namespace Sys2Proof.Proofs
open Sys2Proof.Machine

/-- Settles O19: the check of the PCs leaves the warps alone, lanes that move together are a step to one PC, and after a split
no fusion is due. -/
theorem branches : Obligations.Branches := by
  refine ⟨fun s u c f => ?_, fun s u c f h hg ht => bra_guarded h hg ht, ?_⟩
  · intro t j js inMap he
    refine ⟨fun h hin hu => ?_, fun h hin hn hu => ?_, fun p h hin hp hd hu => ?_⟩
    · simp only [exec_bra, execBra, h.ctx]
      exact branch_together h (.refl s) hin he hu c.w.regsOnly_refl
    · refine ⟨_, ?_, writeResult_uniform_wrote (nextSlot c.pc) hn⟩
      simp only [exec_call, execCall, h.ctx]
      exact branch_together h (.refl s) hin he hu (writeResult_regsOnly ..)
    · have := indirect_together h hin he hp hd hu
      exact ⟨_, kill_wrote c _, this, this⟩
  · exact fun w e n now p q j a b he hlen hst hsd hfree hlive hdepth ha hb hpq hjp hjq hset r hr =>
      branch_forms_split he hlen hst hsd hfree hlive hdepth ha hb hpq hjp hjq hset hr

end Sys2Proof.Proofs

namespace Sys2Proof.Machine

/-! ### Arrival at a collective (01 R26, R27; 04 R102, R103; 07 R177) -/

theorem exec_poll (f : FormV) (s : State) : exec (.poll f) s = execPoll f s := rfl
theorem exec_fold (f : FormV) (s : State) : exec (.fold f) s = execFold f s := rfl
theorem exec_peer (f : FormV) (s : State) : exec (.peer f) s = execPeer f s := rfl
theorem exec_mma (f : FormX) (s : State) : exec (.mma f) s = execMma f s := rfl
theorem exec_mloop (f : FormX) (s : State) : exec (.mloop f) s = execMloop f s := rfl
theorem exec_mldf (f : FormX) (s : State) : exec (.mldf f) s = execMldf f s := rfl
theorem exec_mstf (f : FormX) (s : State) : exec (.mstf f) s = execMstf f s := rfl

/-- What the running lanes bring to a collective. -/
def State.brings (s : State) (c : Ctx) (m : Mask) (all : Bool) (vals : Nat → DWord) (i : Instr) : Collective :=
  { m := m, all := all, eff := c.eff, contrib := c.eff &&& m, vals := (List.range 32).map vals, i := i, since := s.cycle }

section
variable {s : State} {c : Ctx} {m : Mask} {all : Bool} {vals : Nat → DWord} {i : Instr}

/-- A member mask of 0 completes at once (log 38). -/
theorem arriveAt_empty (hm : m = 0) (ha : all = false) :
    s.arriveAt c m all vals i = s.finish c (c.w.kill c.full (collectiveMarks i) (collectiveWrites i)) := by
  simp [State.arriveAt, hm, ha]

/-- Another mask than the pending one traps with reason 2. -/
theorem arriveAt_mismatch (hm : m ≠ 0) (ha : all = false) (hp : c.w.collectivesAt c.pc ≠ [])
    (hne : c.w.instanceMask (c.w.collectivesAt c.pc) ≠ m) :
    s.arriveAt c m all vals i = s.trapHere c 7 (collectiveTval (c.w.instanceMask (c.w.collectivesAt c.pc)
      &&& ~~~(arrivedLanes (c.w.collectivesAt c.pc) ||| c.run)) 2) := by
  have hcond : (!(c.w.collectivesAt c.pc).isEmpty && !all && c.w.instanceMask (c.w.collectivesAt c.pc) != m) = true := by
    simp [hp, ha, hne]
  simp only [State.arriveAt, decide_eq_false hm, Bool.false_and, Bool.false_eq_true, if_false, hcond, if_true]

/-- Where no collective is pending, or one with the same mask, the running lanes become an arrived group. -/
theorem arriveAt_arrives (hm : m ≠ 0 ∨ all = true)
    (hp : c.w.collectivesAt c.pc = [] ∨ all = true ∨ c.w.instanceMask (c.w.collectivesAt c.pc) = m) :
    s.arriveAt c m all vals i
      = State.done (s.putWarp (c.w.arrive c.e c.pc c.run (.collective (s.brings c m all vals i)) [])) := by
  have h0 : (decide (m = 0) && !all) = false := by
    rcases hm with h | h
    · rw [decide_eq_false h]; rfl
    · rw [h, Bool.not_true, Bool.and_false]
  have hcond : (!(c.w.collectivesAt c.pc).isEmpty && !all && c.w.instanceMask (c.w.collectivesAt c.pc) != m) = false := by
    rcases hp with h | h | h <;> simp [h]
  simp only [State.arriveAt, h0, hcond, Bool.false_eq_true, if_false]
  rfl

end

/-- Without a dead register among those read, a class 0x1 collective arrives. -/
theorem collective_arrives {s : State} {c : Ctx} {f : FormV} {reads : List Nat} (h : s.ctx? f.guard = some c)
    (hd : ¬ (c.l.packet.deadCheck = true ∧ ∃ n ∈ FormV.memberReg f ++ if c.eff = 0 then [] else reads, (c.w.reg n).isDead = true))
    (vals : Ctx → Nat → DWord) (i : Instr) :
    s.collective f reads vals i = .next (s.arriveAt c (FormV.members f c) (f.opsAt 95 95 == 1) (vals c) i) := by
  have hdead : (if c.l.packet.deadCheck = true then
      least ((FormV.memberReg f ++ if c.eff = 0 then [] else reads).filter fun n => (c.w.reg n).isDead) else none) = none := by
    split
    · rename_i hc
      have : ((FormV.memberReg f ++ if c.eff = 0 then [] else reads).filter fun n => (c.w.reg n).isDead) = [] :=
        List.filter_eq_nil_iff.mpr fun n hn hdead => hd ⟨hc, n, hn, hdead⟩
      rw [this]; rfl
    · rfl
  simp only [State.collective, h, hdead]

/-- poll, fold and peer arrive, each with what its lanes bring. -/
theorem class1_arrive {s : State} {c : Ctx} {f : FormV} (h : s.ctx? f.guard = some c)
    (hd : ¬ (c.l.packet.deadCheck = true ∧ ∃ n ∈ FormV.memberReg f ++
      (if c.eff = 0 then [] else (f.a false).regs ++ (f.a f.type.wide).regs), (c.w.reg n).isDead = true)) :
    let arrives (vals : Nat → DWord) (i : Instr) : Result :=
      .next (s.arriveAt c (FormV.members f c) (f.opsAt 95 95 == 1) vals i)
    exec (.poll f) s = arrives (fun i => if c.w.pred f.sa.toNat i != (f.opsAt 86 86 == 1) then 1 else 0) (.poll f) ∧
    exec (.fold f) s = arrives (fun i => (f.a false).val c i) (.fold f) ∧
    exec (.peer f) s = arrives (fun i => (f.a f.type.wide).val c i) (.peer f) := by
  have fewer : ∀ reads : List Nat, (∀ n ∈ reads, n ∈ (f.a false).regs ++ (f.a f.type.wide).regs) →
      ¬ (c.l.packet.deadCheck = true ∧ ∃ n ∈ FormV.memberReg f ++ if c.eff = 0 then [] else reads, (c.w.reg n).isDead = true) := by
    rintro reads hsub ⟨hc, n, hn, hdead⟩
    refine hd ⟨hc, n, ?_, hdead⟩
    rw [List.mem_append] at hn ⊢
    refine hn.imp_right fun hn => ?_
    split at hn
    · cases hn
    · rename_i he
      rw [if_neg he]
      exact hsub n hn
  refine ⟨?_, ?_, ?_⟩
  · exact collective_arrives h (fewer [] (by simp)) _ _
  · exact collective_arrives h (fewer _ fun n hn => List.mem_append_left _ hn) _ _
  · exact collective_arrives h (fewer _ fun n hn => List.mem_append_right _ hn) _ _

/-- A matrix instruction that need not wait arrives with its mask and no values (07 R177). -/
theorem matrixArrive_arrives {s : State} {c : Ctx} {f : FormX} {reads : List Nat} (h : s.ctx? f.guard = some c)
    (hl : c.w.mloop = none) (ha : s.pendingAcquire c.w.uid c.run = false) (hd : c.matrixDead f reads = none) (i : Instr) :
    s.matrixArrive f reads i = .next (s.arriveAt c
      (if f.allLanes then c.w.living else c.w.lane f.xe.toNat ((lowLane c.run).getD 0)) f.allLanes (fun _ => 0) i) := by
  simp [State.matrixArrive, h, hd, State.matrixWaits, hl, ha]

/-- What a completed collective without members leaves: only the marks show. -/
theorem empty_completes (c : Ctx) (i : Instr) :
    let v := c.w.kill c.full (collectiveMarks i) (collectiveWrites i)
    { v with regs := c.w.regs } = c.w ∧
      ∀ n, v.reg n = if c.full = true ∧ n ∈ collectiveMarks i ∧ n ∉ collectiveWrites i then .d else c.w.reg n := by
  refine ⟨?_, kill_reg _ _ _ _⟩
  simp only [Warp.kill]; split <;> rfl

/-! ### Registers and predicates under a mask, every lane -/

/-- A lane that is not written keeps every register, where only a whole mask writes whole registers. -/
theorem setReg_kept {w : Warp} {n m i : Nat} {eff : Mask} {full : Bool} {v : VReg} (hi : i < 32) (he : eff.getLsbD i = false)
    (hf : full = false) : (w.setReg n eff full v).lane m i = w.lane m i := by
  by_cases hm : m = n
  · subst hm
    by_cases hlen : m < w.regs.length
    · exact (setReg_lane hlen hi).2 hf he
    · simp only [Warp.setReg]
      split
      · rfl
      · simp [Warp.lane, Warp.reg, List.getD_eq_getElem?_getD, hlen]
  · simp only [Warp.lane, setReg_reg hm]

/-- Registers written lane by lane are a register written under a partial mask. -/
theorem setLanes_eq (w : Warp) (n : Nat) (eff : Mask) (f : Nat → Word) :
    w.setLanes n eff f = w.setReg n eff false (.g ((List.range 32).map f)) := by
  simp only [Warp.setLanes]
  split
  · rename_i h; simp only [Warp.setReg, if_pos h]
  · rfl

/-- A predicate's lanes outside the mask, and p0, are as before (01 R36). -/
theorem setPred_kept {w : Warp} {p n i : Nat} {m v : Mask} (hi : i < 32) (h : m.getLsbD i = false ∨ n = 0) :
    (w.setPred p m v).pred n i = w.pred n i := by
  by_cases hn : n = 0
  · simp [Warp.pred, hn]
  · have hm : m.getLsbD i = false := h.resolve_right hn
    by_cases hp : p = 0
    · simp [Warp.setPred, hp]
    · simp only [Warp.pred, if_neg hn, Warp.setPred, if_neg hp, pred_modAt]
      split
      · simp only [BitVec.getLsbD_or, BitVec.getLsbD_and, BitVec.getLsbD_not, hm]
        simp [hi]
      · rfl

/-- Its lanes inside take the value. -/
theorem setPred_set {w : Warp} {p i : Nat} {m v : Mask} (hp : p ≠ 0) (hlen : p - 1 < w.preds.length) (hm : m.getLsbD i = true) :
    (w.setPred p m v).pred p i = v.getLsbD i := by
  simp only [Warp.pred, if_neg hp, Warp.setPred, pred_modAt]
  rw [if_pos (by simpa using hlen)]
  simp only [BitVec.getLsbD_or, BitVec.getLsbD_and, BitVec.getLsbD_not, hm]
  simp

theorem setPred_reg (w : Warp) (p n : Nat) (m v : Mask) : (w.setPred p m v).reg n = w.reg n := by
  simp only [Warp.setPred]; split <;> rfl

theorem setReg_preds (w : Warp) (n : Nat) (eff : Mask) (full : Bool) (v : VReg) : (w.setReg n eff full v).preds = w.preds := by
  simp only [Warp.setReg]; split <;> rfl

theorem kill_preds (w : Warp) (full : Bool) (marked written : List Nat) : (w.kill full marked written).preds = w.preds :=
  (Warp.regsOnly_same (kill_regsOnly ..)).2.2.2.2.2.2.1

/-- A mask is not empty where it has a lane. -/
theorem mask_ne_zero {m : Mask} : m ≠ 0 ↔ ∃ i, i < 32 ∧ m.getLsbD i = true := by
  constructor
  · intro h
    obtain ⟨i, hi⟩ := List.exists_mem_of_ne_nil _ (lanesOf_ne_nil h)
    exact ⟨i, mem_lanesOf.mp hi⟩
  · rintro ⟨i, _, hi⟩ rfl
    simp at hi

/-- A condition of the warp as a predicate value: all its lanes alike. -/
theorem allLanes_bit {p : Bool} {i : Nat} (hi : i < 32) : (if p = true then BitVec.allOnes 32 else 0 : Mask).getLsbD i = p := by
  cases p with
  | false => simp
  | true => simp only [if_true, BitVec.getLsbD_allOnes, hi, decide_true]

/-! ### What a covered poll, fold and peer write (04 R103 to R106) -/

theorem opsAt_lt (f : FormV) (hi lo : Nat) : f.opsAt hi lo < 2 ^ (hi - lo + 1) := Nat.mod_lt _ (Nat.two_pow_pos _)

/-- The contributing lanes of all the arrivals at a collective. -/
def contributing (gs : List (Nat × Group × Collective)) : Mask := gs.foldl (fun a x => a ||| x.2.2.contrib) 0

/-- The contributing lanes whose value satisfies a property. -/
def contributingWhere (gs : List (Nat × Group × Collective)) (p : DWord → Bool) : Mask :=
  maskOf fun i => (contributing gs).getLsbD i && p (contribOf gs i)

theorem contributingWhere_bit {gs : List (Nat × Group × Collective)} {p : DWord → Bool} {i : Nat} (hi : i < 32) :
    (contributingWhere gs p).getLsbD i = ((contributing gs).getLsbD i && p (contribOf gs i)) := maskOf_bit hi

/-- Some contributing lane's value satisfies it. -/
theorem contributingWhere_ne_zero {gs : List (Nat × Group × Collective)} {p : DWord → Bool} :
    contributingWhere gs p ≠ 0 ↔ ∃ i, i < 32 ∧ (contributing gs).getLsbD i = true ∧ p (contribOf gs i) = true := by
  rw [mask_ne_zero]
  refine exists_congr fun i => and_congr_right fun hi => ?_
  rw [contributingWhere_bit hi, Bool.and_eq_true]

/-- Every contributing lane's value satisfies it. -/
theorem contributingWhere_eq {gs : List (Nat × Group × Collective)} {p : DWord → Bool} :
    contributingWhere gs p = contributing gs
      ↔ ∀ i, i < 32 → (contributing gs).getLsbD i = true → p (contribOf gs i) = true := by
  constructor
  · intro h i hi hc
    have := contributingWhere_bit (gs := gs) (p := p) hi
    rw [h, hc] at this
    simpa using this.symm
  · intro h
    apply BitVec.eq_of_getLsbD_eq
    intro i hi
    rw [contributingWhere_bit hi]
    cases hc : (contributing gs).getLsbD i with
    | false => rfl
    | true => rw [h i hi hc]; rfl

/-- The warp once the marks of a split that arrived with a full effective mask have acted (01 R34, R35). -/
def Warp.afterMarks (w : Warp) (gs : List (Nat × Group × Collective)) (i : Instr) : Warp :=
  w.kill (gs.any fun x => x.2.2.eff == w.living) (collectiveMarks i) (collectiveWrites i)

/-- A register that the marks make dead. -/
def Warp.marksKill (w : Warp) (gs : List (Nat × Group × Collective)) (i : Instr) (n : Nat) : Prop :=
  (∃ x ∈ gs, x.2.2.eff = w.living) ∧ n ∈ collectiveMarks i ∧ n ∉ collectiveWrites i

theorem afterMarks_dead {w : Warp} {gs : List (Nat × Group × Collective)} {i : Instr} {n : Nat} (h : w.marksKill gs i n) :
    (w.afterMarks gs i).reg n = .d := by
  obtain ⟨⟨x, hx, heff⟩, hmark⟩ := h
  rw [Warp.afterMarks, kill_reg, if_pos ⟨List.any_eq_true.mpr ⟨x, hx, by simp [heff]⟩, hmark⟩]

theorem afterMarks_reg {w : Warp} {gs : List (Nat × Group × Collective)} {i : Instr} {n : Nat} (h : ¬ w.marksKill gs i n) :
    (w.afterMarks gs i).reg n = w.reg n := by
  rw [Warp.afterMarks, kill_reg, if_neg]
  rintro ⟨hany, hmark⟩
  obtain ⟨x, hx, heff⟩ := List.any_eq_true.mp hany
  exact h ⟨⟨x, hx, by simpa using heff⟩, hmark⟩

theorem afterMarks_length (w : Warp) (gs : List (Nat × Group × Collective)) (i : Instr) :
    (w.afterMarks gs i).regs.length = w.regs.length := (kill_regsOnly ..).2

theorem afterMarks_preds (w : Warp) (gs : List (Nat × Group × Collective)) (i : Instr) : (w.afterMarks gs i).preds = w.preds :=
  kill_preds ..

/-- The predicate that poll writes holds in each contributing lane what is true of all of them together. -/
theorem setPred_together {w u : Warp} {gs : List (Nat × Group × Collective)} {i : Instr} {p : Nat} {b : Bool}
    (hp : w.preds.length = 7) (h8 : p < 8) (h0 : p ≠ 0) {n : Nat} (hn : n < 32) (hc : (contributing gs).getLsbD n = true)
    (h : u = (w.afterMarks gs i).setPred p (contributing gs) (if b = true then BitVec.allOnes 32 else 0)) : u.pred p n = b := by
  rw [h, setPred_set h0 (by rw [afterMarks_preds]; omega) hc, allLanes_bit hn]

/-- A set and a reduction count as U where every living lane contributes, and else as G (01 R33, R34). -/
theorem setReg_u_code {w : Warp} {gs : List (Nat × Group × Collective)} {i : Instr} {n : Nat} {v : Word}
    (hc : contributing gs ≠ 0) (hn : n < w.regs.length) :
    (((w.afterMarks gs i).setReg n (contributing gs) (contributing gs == w.living) (.u v)).reg n).code
      = if contributing gs = w.living then 0 else 2 := by
  rw [setReg_code (by rwa [afterMarks_length]) hc]
  simp

/-- The lanes that brought the value of a lane. -/
def equalTo (gs : List (Nat × Group × Collective)) (i : Nat) : Mask := contributingWhere gs fun v => v == contribOf gs i

section
variable {w : Warp} {gs : List (Nat × Group × Collective)} {e : Nat} {g : Group} {k : Collective}
  {r : List (Nat × Group × Collective)} {f : FormV} (hgs : gs = (e, g, k) :: r)
include hgs

theorem runCollective_poll_any (hk : k.i = .poll f) (ho : f.opsAt 85 84 = 0) :
    w.runCollective gs = (w.afterMarks gs k.i).setPred f.dst.toNat (contributing gs)
      (if (contributingWhere gs (· != 0) != 0) = true then BitVec.allOnes 32 else 0) := by
  subst hgs
  simp only [Warp.runCollective, hk, ho]; rfl

theorem runCollective_poll_all (hk : k.i = .poll f) (ho : f.opsAt 85 84 = 1) :
    w.runCollective gs = (w.afterMarks gs k.i).setPred f.dst.toNat (contributing gs)
      (if (contributingWhere gs (· != 0) == contributing gs) = true then BitVec.allOnes 32 else 0) := by
  subst hgs
  simp only [Warp.runCollective, hk, ho]; rfl

theorem runCollective_poll_set (hk : k.i = .poll f) (ho : f.opsAt 85 84 = 2) :
    w.runCollective gs = (w.afterMarks gs k.i).setReg f.dst.toNat (contributing gs) (contributing gs == w.living)
      (.u (contributingWhere gs (· != 0))) := by
  subst hgs
  simp only [Warp.runCollective, hk, ho]; rfl

theorem runCollective_poll_same (hk : k.i = .poll f) (ho : f.opsAt 85 84 = 3) :
    w.runCollective gs = (w.afterMarks gs k.i).setPred f.dst.toNat (contributing gs)
      (if (contributingWhere gs (· != 0) == 0 || contributingWhere gs (· != 0) == contributing gs) = true
        then BitVec.allOnes 32 else 0) := by
  subst hgs
  simp only [Warp.runCollective, hk, ho]; rfl

/-- The reduction of fold over the contributing lanes. -/
theorem runCollective_fold (hk : k.i = .fold f) {x : DWord}
    (hx : foldInt (f.opsAt 86 84) f.type f.sat ((lanesOf (contributing gs)).map fun i => f.type.read (contribOf gs i)) = some x) :
    w.runCollective gs = (w.afterMarks gs k.i).setReg f.dst.toNat (contributing gs) (contributing gs == w.living) (.u (lo32 x)) := by
  subst hgs
  simp only [contributing] at hx
  simp only [Warp.runCollective, hk, hx]; rfl

theorem runCollective_fold_none (hk : k.i = .fold f)
    (hx : foldInt (f.opsAt 86 84) f.type f.sat ((lanesOf (contributing gs)).map fun i => f.type.read (contribOf gs i)) = none) :
    w.runCollective gs = w.afterMarks gs k.i := by
  subst hgs
  simp only [contributing] at hx
  simp only [Warp.runCollective, hk, hx]; rfl

theorem runCollective_peer_sets (hk : k.i = .peer f) (ho : f.opsAt 84 84 = 0) :
    w.runCollective gs = (w.afterMarks gs k.i).setLanes f.dst.toNat (contributing gs) (equalTo gs) := by
  subst hgs
  simp only [Warp.runCollective, hk, ho, if_true]; rfl

theorem runCollective_peer_all (hk : k.i = .peer f) (ho : f.opsAt 84 84 ≠ 0) :
    w.runCollective gs = (w.afterMarks gs k.i).setReg f.dst.toNat (contributing gs) (contributing gs == w.living)
      (.u (if ((lanesOf (contributing gs)).all fun i => contribOf gs i == contribOf gs ((lanesOf (contributing gs)).headD 0)) = true
        then contributing gs else 0)) := by
  subst hgs
  simp only [Warp.runCollective, hk, if_neg ho]; rfl

/-- Everything that a covered collective can do to its warp: the marks, then one predicate, or one register of those it writes,
whole only where every living lane contributes. -/
theorem runCollective_cases :
    w.runCollective gs = w.afterMarks gs k.i ∨
    (∃ p v, w.runCollective gs = (w.afterMarks gs k.i).setPred p (contributing gs) v) ∨
    (∃ n ∈ collectiveWrites k.i, ∃ full v, (full = true → contributing gs = w.living) ∧
      w.runCollective gs = (w.afterMarks gs k.i).setReg n (contributing gs) full v) := by
  have whole : (contributing gs == w.living) = true → contributing gs = w.living := by simp
  cases hk : k.i with
  | poll f =>
    rw [← hk]
    obtain ho | ho | ho | ho : f.opsAt 85 84 = 0 ∨ f.opsAt 85 84 = 1 ∨ f.opsAt 85 84 = 2 ∨ f.opsAt 85 84 = 3 := by
      have := opsAt_lt f 85 84
      omega
    · exact .inr (.inl ⟨_, _, runCollective_poll_any hgs hk ho⟩)
    · exact .inr (.inl ⟨_, _, runCollective_poll_all hgs hk ho⟩)
    · exact .inr (.inr ⟨f.dst.toNat, by simp [hk, collectiveWrites, ho], _, _, whole, runCollective_poll_set hgs hk ho⟩)
    · exact .inr (.inl ⟨_, _, runCollective_poll_same hgs hk ho⟩)
  | fold f =>
    rw [← hk]
    cases hx : foldInt (f.opsAt 86 84) f.type f.sat
        ((lanesOf (contributing gs)).map fun i => f.type.read (contribOf gs i)) with
    | none => exact .inl (runCollective_fold_none hgs hk hx)
    | some x => exact .inr (.inr ⟨f.dst.toNat, by simp [hk, collectiveWrites], _, _, whole, runCollective_fold hgs hk hx⟩)
  | peer f =>
    rw [← hk]
    have hdst : f.dst.toNat ∈ collectiveWrites k.i := by simp [hk, collectiveWrites]
    by_cases ho : f.opsAt 84 84 = 0
    · exact .inr (.inr ⟨f.dst.toNat, hdst, false, _, by simp, (runCollective_peer_sets hgs hk ho).trans (setLanes_eq ..)⟩)
    · exact .inr (.inr ⟨f.dst.toNat, hdst, _, _, whole, runCollective_peer_all hgs hk ho⟩)
  | _ => left; subst hgs; simp only [Warp.runCollective, hk]; rfl

/-- A living lane that does not contribute keeps every register that the marks leave (01 R34). -/
theorem runCollective_lane_kept {n i : Nat} (hi : i < 32) (hl : w.living.getLsbD i = true)
    (hc : (contributing gs).getLsbD i = false) (hd : ¬ w.marksKill gs k.i n) : (w.runCollective gs).lane n i = w.lane n i := by
  have hmarks : (w.afterMarks gs k.i).lane n i = w.lane n i := by simp only [Warp.lane, afterMarks_reg hd]
  rw [← hmarks]
  obtain h | ⟨p, v, h⟩ | ⟨m, -, full, v, hfull, h⟩ := runCollective_cases (w := w) hgs
  · rw [h]
  · rw [h, Warp.lane, setPred_reg]; rfl
  · rw [h]
    refine setReg_kept hi hc ?_
    cases full with
    | false => rfl
    | true => rw [hfull rfl, hl] at hc; cases hc

/-- A register that the marks name is D. -/
theorem runCollective_dead {n : Nat} (hd : w.marksKill gs k.i n) : (w.runCollective gs).reg n = .d := by
  rw [← afterMarks_dead hd]
  obtain h | ⟨p, v, h⟩ | ⟨m, hm, full, v, -, h⟩ := runCollective_cases (w := w) hgs
  · rw [h]
  · rw [h, setPred_reg]
  · have hne : n ≠ m := by rintro rfl; exact hd.2.2 hm
    rw [h, setReg_reg hne]

/-- A lane that does not contribute keeps its predicates, and p0 stays (01 R36). -/
theorem runCollective_pred_kept {n i : Nat} (hi : i < 32) (hc : (contributing gs).getLsbD i = false ∨ n = 0) :
    (w.runCollective gs).pred n i = w.pred n i := by
  have hmarks : (w.afterMarks gs k.i).pred n i = w.pred n i := by simp only [Warp.pred, afterMarks_preds]
  rw [← hmarks]
  obtain h | ⟨p, v, h⟩ | ⟨m, -, full, v, -, h⟩ := runCollective_cases (w := w) hgs
  · rw [h]
  · rw [h, setPred_kept hi hc]
  · rw [h]; simp only [Warp.pred, setReg_preds]

section
variable (hk : k.i = .poll f) (hp : w.preds.length = 7) (h8 : f.dst.toNat < 8) (h0 : f.dst.toNat ≠ 0)
include hk hp h8 h0

theorem poll_any {i : Nat} (hi : i < 32) (hc : (contributing gs).getLsbD i = true) (ho : f.opsAt 85 84 = 0) :
    (w.runCollective gs).pred f.dst.toNat i = true ↔ ∃ j, j < 32 ∧ (contributing gs).getLsbD j = true ∧ contribOf gs j ≠ 0 := by
  rw [setPred_together hp h8 h0 hi hc (runCollective_poll_any hgs hk ho), bne_iff_ne, contributingWhere_ne_zero]
  simp

theorem poll_all {i : Nat} (hi : i < 32) (hc : (contributing gs).getLsbD i = true) (ho : f.opsAt 85 84 = 1) :
    (w.runCollective gs).pred f.dst.toNat i = true ↔ ∀ j, j < 32 → (contributing gs).getLsbD j = true → contribOf gs j ≠ 0 := by
  rw [setPred_together hp h8 h0 hi hc (runCollective_poll_all hgs hk ho), beq_iff_eq, contributingWhere_eq]
  simp

theorem poll_same {i : Nat} (hi : i < 32) (hc : (contributing gs).getLsbD i = true) (ho : f.opsAt 85 84 = 3) :
    (w.runCollective gs).pred f.dst.toNat i = true ↔ ∀ j l, j < 32 → l < 32 → (contributing gs).getLsbD j = true →
      (contributing gs).getLsbD l = true → (contribOf gs j ≠ 0 ↔ contribOf gs l ≠ 0) := by
  have hnone : contributingWhere gs (· != 0) = 0 ↔ ∀ j, j < 32 → (contributing gs).getLsbD j = true → contribOf gs j = 0 := by
    rw [← Decidable.not_not (p := contributingWhere gs (· != 0) = 0), ← ne_eq, contributingWhere_ne_zero]
    simp only [bne_iff_ne, not_exists, not_and, ne_eq, Decidable.not_not]
  rw [setPred_together hp h8 h0 hi hc (runCollective_poll_same hgs hk ho), Bool.or_eq_true, beq_iff_eq, beq_iff_eq, hnone,
    contributingWhere_eq]
  simp only [bne_iff_ne]
  constructor
  · rintro (h | h) j l hj hl hcj hcl
    · simp [h j hj hcj, h l hl hcl]
    · exact iff_of_true (h j hj hcj) (h l hl hcl)
  · intro h
    by_cases hz : contribOf gs i = 0
    · exact .inl fun j hj hcj => Decidable.byContradiction fun hne => (h j i hj hi hcj hc).mp hne hz
    · exact .inr fun j hj hcj => (h j i hj hi hcj hc).mpr hz

end

/-- The set of the lanes whose bit is 1, in each contributing lane. -/
theorem poll_set (hk : k.i = .poll f) (ho : f.opsAt 85 84 = 2) (hn : f.dst.toNat < w.regs.length) {i j : Nat} (hi : i < 32)
    (hj : j < 32) (hc : (contributing gs).getLsbD i = true) :
    ((w.runCollective gs).lane f.dst.toNat i).getLsbD j = ((contributing gs).getLsbD j && contribOf gs j != 0) := by
  rw [runCollective_poll_set hgs hk ho, (setReg_lane (by rwa [afterMarks_length]) hi).1 hc]
  exact contributingWhere_bit (p := (· != 0)) hj

theorem fold_value (hk : k.i = .fold f) (hn : f.dst.toNat < w.regs.length) {x : DWord}
    (hx : foldInt (f.opsAt 86 84) f.type f.sat ((lanesOf (contributing gs)).map fun i => f.type.read (contribOf gs i)) = some x)
    {i : Nat} (hi : i < 32) (hc : (contributing gs).getLsbD i = true) : (w.runCollective gs).lane f.dst.toNat i = lo32 x := by
  rw [runCollective_fold hgs hk hx, (setReg_lane (by rwa [afterMarks_length]) hi).1 hc]; rfl

/-- The set of the lanes with an equal value. -/
theorem peer_sets (hk : k.i = .peer f) (ho : f.opsAt 84 84 = 0) (hn : f.dst.toNat < w.regs.length) {i j : Nat} (hi : i < 32)
    (hj : j < 32) (hc : (contributing gs).getLsbD i = true) :
    ((w.runCollective gs).lane f.dst.toNat i).getLsbD j = ((contributing gs).getLsbD j && contribOf gs j == contribOf gs i) := by
  rw [runCollective_peer_sets hgs hk ho, setLanes_lane (by rwa [afterMarks_length]) hi, if_pos hc]
  exact contributingWhere_bit (p := (· == contribOf gs i)) hj

/-- The contributing lanes where all their values are equal, and else 0. -/
theorem peer_all (hk : k.i = .peer f) (ho : f.opsAt 84 84 = 1) (hn : f.dst.toNat < w.regs.length) {i : Nat} (hi : i < 32)
    (hc : (contributing gs).getLsbD i = true) :
    ((∀ j, j < 32 → (contributing gs).getLsbD j = true → contribOf gs j = contribOf gs i) →
      (w.runCollective gs).lane f.dst.toNat i = contributing gs) ∧
    ((∃ j, j < 32 ∧ (contributing gs).getLsbD j = true ∧ contribOf gs j ≠ contribOf gs i) →
      (w.runCollective gs).lane f.dst.toNat i = 0) := by
  generalize hz : (lanesOf (contributing gs)).headD 0 = z
  have hlow : z < 32 ∧ (contributing gs).getLsbD z = true := by
    have hmem : i ∈ lanesOf (contributing gs) := mem_lanesOf.mpr ⟨hi, hc⟩
    rw [← mem_lanesOf, ← hz]
    cases hl : lanesOf (contributing gs) with
    | nil => rw [hl] at hmem; cases hmem
    | cons y ys => exact List.mem_cons_self
  rw [runCollective_peer_all hgs hk (by omega), (setReg_lane (by rwa [afterMarks_length]) hi).1 hc, hz]
  refine ⟨fun h => ?_, fun ⟨j, hj, hcj, hne⟩ => ?_⟩
  · have hall : ((lanesOf (contributing gs)).all fun i => contribOf gs i == contribOf gs z) = true := by
      rw [List.all_eq_true]
      intro j hj
      obtain ⟨hj, hcj⟩ := mem_lanesOf.mp hj
      simp [h j hj hcj, h z hlow.1 hlow.2]
    rw [if_pos hall]; rfl
  · have hall : ¬ ((lanesOf (contributing gs)).all fun i => contribOf gs i == contribOf gs z) = true := by
      rw [List.all_eq_true]
      intro h
      have h1 := h j (mem_lanesOf.mpr ⟨hj, hcj⟩)
      have h2 := h i (mem_lanesOf.mpr ⟨hi, hc⟩)
      rw [beq_iff_eq] at h1 h2
      exact hne (h1.trans h2.symm)
    rw [if_neg hall]; rfl

theorem poll_tag (hk : k.i = .poll f) (ho : f.opsAt 85 84 = 2) (hc : contributing gs ≠ 0) (hn : f.dst.toNat < w.regs.length) :
    ((w.runCollective gs).reg f.dst.toNat).code = if contributing gs = w.living then 0 else 2 := by
  rw [runCollective_poll_set hgs hk ho, setReg_u_code hc hn]

theorem fold_tag (hk : k.i = .fold f)
    (hx : foldInt (f.opsAt 86 84) f.type f.sat ((lanesOf (contributing gs)).map fun i => f.type.read (contribOf gs i)) ≠ none)
    (hc : contributing gs ≠ 0) (hn : f.dst.toNat < w.regs.length) :
    ((w.runCollective gs).reg f.dst.toNat).code = if contributing gs = w.living then 0 else 2 := by
  obtain ⟨x, hx⟩ := Option.ne_none_iff_exists'.mp hx
  rw [runCollective_fold hgs hk hx, setReg_u_code hc hn]

theorem peer_tag (hk : k.i = .peer f) (hc : contributing gs ≠ 0) (hn : f.dst.toNat < w.regs.length) :
    ((w.runCollective gs).reg f.dst.toNat).code = if f.opsAt 84 84 = 1 ∧ contributing gs = w.living then 0 else 2 := by
  obtain ho | ho : f.opsAt 84 84 = 0 ∨ f.opsAt 84 84 = 1 := by
    have := opsAt_lt f 84 84
    omega
  · rw [runCollective_peer_sets hgs hk ho, setLanes_code (by rwa [afterMarks_length]) hc, if_neg (by omega)]
  · rw [runCollective_peer_all hgs hk (by omega), setReg_u_code hc hn]
    simp [ho]

end

end Sys2Proof.Machine

namespace Sys2Proof.Proofs
open Sys2Proof.Machine

/-- Settles O23: an arrival by the branches of `arriveAt`, the effect by what a covered collective can do to its warp. -/
theorem collectives : Obligations.Collectives := by
  refine ⟨fun s c f g => ?_, fun w gs e g k r => ?_⟩
  · intro arrives pending pm dead rs
    refine ⟨fun h hd => ?_, fun h hd hm => ?_, fun h hl ha h1 h2 h3 h4 => ?_⟩
    · obtain ⟨hpoll, hfold, hpeer⟩ := class1_arrive h hd
      refine ⟨fun hm hall => ?_, fun hm hall hp hne => ?_⟩
      · have hempty : ∀ i vals, exec i s = .next (s.arriveAt c (FormV.members f c) (f.opsAt 95 95 == 1) vals i) →
            ∃ v : Warp, exec i s = .next (s.finish c v) ∧ { v with regs := c.w.regs } = c.w ∧
              ∀ n, v.reg n = if c.full = true ∧ n ∈ collectiveMarks i ∧ n ∉ collectiveWrites i then .d else c.w.reg n := by
          intro i vals hx
          rw [arriveAt_empty hm hall] at hx
          exact ⟨_, hx, empty_completes c i⟩
        exact ⟨hempty _ _ hpoll, hempty _ _ hfold, hempty _ _ hpeer⟩
      · rw [hpoll, hfold, hpeer]
        exact ⟨congrArg _ (arriveAt_mismatch hm hall hp hne), congrArg _ (arriveAt_mismatch hm hall hp hne),
          congrArg _ (arriveAt_mismatch hm hall hp hne)⟩
    · intro m all hp
      obtain ⟨hpoll, hfold, hpeer⟩ := class1_arrive h hd
      have hm' : FormV.members f c ≠ 0 ∨ (f.opsAt 95 95 == 1) = true := by simpa using hm
      rw [hpoll, hfold, hpeer]
      exact ⟨congrArg _ (arriveAt_arrives hm' hp), congrArg _ (arriveAt_arrives hm' hp), congrArg _ (arriveAt_arrives hm' hp)⟩
    · intro m hm hp
      have arrive : ∀ reads i, c.matrixDead g reads = none → s.matrixArrive g reads i
          = .next (arrives m g.allLanes (fun _ => 0) i) := fun reads i hd =>
        (matrixArrive_arrives h hl ha hd i).trans (congrArg _ (arriveAt_arrives hm hp))
      exact ⟨arrive _ _ h1, arrive _ _ h2, arrive _ _ h3, arrive _ _ h4⟩
  · intro c v dead tagged hgs hp
    refine ⟨fun f hk h8 h0 i hi hc => ⟨?_, ?_, ?_⟩, ?_, ?_, ?_, ?_, ?_, ?_, ?_, ?_, ?_, ?_⟩
    · exact poll_any hgs hk hp h8 h0 hi hc
    · exact poll_all hgs hk hp h8 h0 hi hc
    · exact poll_same hgs hk hp h8 h0 hi hc
    · exact fun f x hk hn hx i hi hc => fold_value hgs hk hn hx hi hc
    · exact fun f hk ho hn i j hi hj hc => poll_set hgs hk ho hn hi hj hc
    · exact fun f hk ho hn i j hi hj hc => peer_sets hgs hk ho hn hi hj hc
    · exact fun f hk ho hn i hi hc => peer_all hgs hk ho hn hi hc
    · exact fun f hk ho hc hn => poll_tag hgs hk ho hc hn
    · exact fun f hk hx hc hn => fold_tag hgs hk hx hc hn
    · exact fun f hk hc hn => peer_tag hgs hk hc hn
    · exact fun n i hi hl hc hd => runCollective_lane_kept hgs hi hl hc hd
    · exact fun n hd => runCollective_dead hgs hd
    · exact fun n i _ hi hc => runCollective_pred_kept hgs hi hc

end Sys2Proof.Proofs

namespace Sys2Proof

/-! ### The fields of a word and the word of fields (02 R50 to R63) -/

theorem getLsbD_eq_extract (w : Slot96) (i : Nat) : w.getLsbD i = (w.extractLsb' i 1)[0] := by simp

theorem bit1_getElem (b : Bool) : (bit1 b)[0] = b := by cases b <;> rfl

theorem bit1_getLsbD (w : Slot96) (i : Nat) : bit1 (w.getLsbD i) = w.extractLsb' i 1 := by
  ext j
  obtain rfl : j = 0 := by omega
  cases h : w.getLsbD i <;> simp [h]

theorem extract_operands_append (b : BitVec 86) (op : BitVec 10) : (b ++ op : Slot96).extractLsb' 10 86 = b := by
  rw [BitVec.extractLsb'_append_eq_of_le (Nat.le_refl 10), Nat.sub_self, BitVec.extractLsb'_eq_self]

theorem FormV.ofWord_append (f : FormV) (op : BitVec 10) : FormV.ofWord (f.toBits ++ op) = f := by
  cases f
  simp (disch := omega) only [FormV.ofWord, FormV.toBits, fieldOf, getLsbD_eq_extract, bit1_getElem, Nat.reduceSub,
    BitVec.extractLsb'_append_eq_of_le, BitVec.extractLsb'_append_eq_of_add_le, BitVec.extractLsb'_eq_self]

theorem FormV.toBits_ofWord (w : Slot96) : (FormV.ofWord w).toBits = w.extractLsb' 10 86 := by
  simp only [FormV.ofWord, FormV.toBits, fieldOf, bit1_getLsbD, BitVec.extractLsb'_append_extractLsb'_eq_extractLsb']

theorem FormI.ofWord_append (f : FormI) (op : BitVec 10) : FormI.ofWord (f.toBits ++ op) = f := by
  cases f
  simp (disch := omega) only [FormI.ofWord, FormI.toBits, fieldOf, getLsbD_eq_extract, bit1_getElem, Nat.reduceSub,
    BitVec.extractLsb'_append_eq_of_le, BitVec.extractLsb'_append_eq_of_add_le, BitVec.extractLsb'_eq_self]

theorem FormI.toBits_ofWord (w : Slot96) : (FormI.ofWord w).toBits = w.extractLsb' 10 86 := by
  simp only [FormI.ofWord, FormI.toBits, fieldOf, bit1_getLsbD, BitVec.extractLsb'_append_extractLsb'_eq_extractLsb']

theorem FormM.ofWord_append (f : FormM) (op : BitVec 10) : FormM.ofWord (f.toBits ++ op) = f := by
  cases f
  simp (disch := omega) only [FormM.ofWord, FormM.toBits, fieldOf, getLsbD_eq_extract, bit1_getElem, Nat.reduceSub,
    BitVec.extractLsb'_append_eq_of_le, BitVec.extractLsb'_append_eq_of_add_le, BitVec.extractLsb'_eq_self]

theorem FormM.toBits_ofWord (w : Slot96) : (FormM.ofWord w).toBits = w.extractLsb' 10 86 := by
  simp only [FormM.ofWord, FormM.toBits, fieldOf, bit1_getLsbD, BitVec.extractLsb'_append_extractLsb'_eq_extractLsb']

theorem FormB.ofWord_append (f : FormB) (op : BitVec 10) : FormB.ofWord (f.toBits ++ op) = f := by
  cases f
  simp (disch := omega) only [FormB.ofWord, FormB.toBits, fieldOf, getLsbD_eq_extract, bit1_getElem, Nat.reduceSub,
    BitVec.extractLsb'_append_eq_of_le, BitVec.extractLsb'_append_eq_of_add_le, BitVec.extractLsb'_eq_self]

theorem FormB.toBits_ofWord (w : Slot96) : (FormB.ofWord w).toBits = w.extractLsb' 10 86 := by
  simp only [FormB.ofWord, FormB.toBits, fieldOf, bit1_getLsbD, BitVec.extractLsb'_append_extractLsb'_eq_extractLsb']

theorem FormX.ofWord_append (f : FormX) (op : BitVec 10) : FormX.ofWord (f.toBits ++ op) = f := by
  cases f
  simp (disch := omega) only [FormX.ofWord, FormX.toBits, fieldOf, getLsbD_eq_extract, bit1_getElem, Nat.reduceSub,
    BitVec.extractLsb'_append_eq_of_le, BitVec.extractLsb'_append_eq_of_add_le, BitVec.extractLsb'_eq_self]

theorem FormX.toBits_ofWord (w : Slot96) : (FormX.ofWord w).toBits = w.extractLsb' 10 86 := by
  simp only [FormX.ofWord, FormX.toBits, fieldOf, bit1_getLsbD, BitVec.extractLsb'_append_extractLsb'_eq_extractLsb']

theorem operands_append_opcode (w : Slot96) : w.extractLsb' 10 86 ++ BitVec.ofNat 10 (w.toNat % 1024) = w := by
  have hop : BitVec.ofNat 10 (w.toNat % 1024) = w.extractLsb' 0 10 := by
    apply BitVec.eq_of_toNat_eq
    simp
  rw [hop, BitVec.extractLsb'_append_extractLsb'_eq_extractLsb' (by rfl)]
  exact BitVec.extractLsb'_eq_self

/-- What the lemmas of a format give together: its fields and its operand bits determine each other. -/
theorem ofWord_eq_iff {α : Type} {ofWord : Slot96 → α} {toBits : α → BitVec 86}
    (h1 : ∀ f (op : BitVec 10), ofWord (toBits f ++ op) = f) (h2 : ∀ w, toBits (ofWord w) = w.extractLsb' 10 86)
    (w : Slot96) (f : α) : ofWord w = f ↔ toBits f = w.extractLsb' 10 86 := by
  refine ⟨fun h => h ▸ h2 w, fun h => ?_⟩
  rw [← operands_append_opcode w, ← h, h1]

/-! ### The opcode selects the constructor (Table 2-11) -/

theorem ofOpcode_some {op : Nat} {w : Slot96} {i : Instr} (h : ofOpcode op w = some i) : i.opcode = some op ∧ op < 1024 := by
  unfold ofOpcode at h
  split at h
  all_goals cases h
  all_goals exact ⟨rfl, by decide⟩

/-- An opcode gives its instruction from exactly the words with that instruction's operand bits: in each format fields and operand
bits determine each other; the steps of other agents have no opcode. -/
theorem ofOpcode_eq_some_iff {i : Instr} {op : Nat} (ho : i.opcode = some op) (w : Slot96) :
    ofOpcode op w = some i ↔ i.operandBits = w.extractLsb' 10 86 := by
  cases i with
  | nop f | exit_ f | yield f | poll f | fold f | peer f | pcomb f | iadd f | isub f | imul f | imulh f | imad f | imadw f
  | idiv f | irem f | imin f | imax f | iabs f | ineg f | icmp f | sel f | mov f | and_ f | or_ f | xor_ f | andn f | orn f
  | shl f | shr f | sar f | rol f | ror f | popc f | clz f | ctz f | brev f | bfe f | bfi f | prmb f | fadd f | fsub f | fmul f
  | ffma f | fmin f | fmax f | fminn f | fmaxn f | fabs f | fneg f | fcmp f | fclass f | fcvt f | icvt f | fcvti f | frcp f
  | frsq f | fsqrt f | fdiv f | fex2 f | flg2 f | fsin f | fcos f | ftanh f | quant f | deq f | plsplit f | pljoin f | bar f
  | barc f | bard f | pbar f | trigger f | waitdep f | step_ f | stamp f | hnow f | tret f | bkpt f =>
    obtain rfl := Option.some.inj ho
    refine Iff.trans ⟨fun h => ?_, fun h => ?_⟩ (ofWord_eq_iff FormV.ofWord_append FormV.toBits_ofWord w f)
    · cases h; rfl
    · subst h; rfl
  | sleep f | trap f | iaddI f | isubI f | imulI f | imulhI f | idivI f | iremI f | iminI f | imaxI f | icmpI f | selI f
  | movi f | lea f | andI f | orI f | xorI f | andnI f | ornI f | shlI f | shrI f | sarI f | rolI f | rorI f | bfeI f | bfiI f
  | prmbI f | faddI f | fsubI f | fmulI f | fminI f | fmaxI f | fminnI f | fmaxnI f | fcmpI f | sread f | swrite f =>
    obtain rfl := Option.some.inj ho
    refine Iff.trans ⟨fun h => ?_, fun h => ?_⟩ (ofWord_eq_iff FormI.ofWord_append FormI.toBits_ofWord w f)
    · cases h; rfl
    · subst h; rfl
  | bra f | brx f | call f | ret f =>
    obtain rfl := Option.some.inj ho
    refine Iff.trans ⟨fun h => ?_, fun h => ?_⟩ (ofWord_eq_iff FormB.ofWord_append FormB.toBits_ofWord w f)
    · cases h; rfl
    · subst h; rfl
  | mma f | mloop f | mldf f | mstf f | mfmt f | cpy f | cpy2d f | publish f | abinit f | abexp f | abarv f | abwait f
  | abtest f | tkwait f | tktest f | tkcancel f | tkget f | tkset f | board f | alight f | catchTile f | replace f | lineq f
  | launch f | segq f | htrim f =>
    obtain rfl := Option.some.inj ho
    refine Iff.trans ⟨fun h => ?_, fun h => ?_⟩ (ofWord_eq_iff FormX.ofWord_append FormX.toBits_ofWord w f)
    · cases h; rfl
    · subst h; rfl
  | ld f | st f | prefetch f | cctl f | atom f | atomf f | red f | fence f | waitval f | ldAsof f | stStamp f | hfloor f =>
    obtain rfl := Option.some.inj ho
    refine Iff.trans ⟨fun h => ?_, fun h => ?_⟩ (ofWord_eq_iff FormM.ofWord_append FormM.toBits_ofWord w f)
    · cases h; rfl
    · subst h; rfl
  | _ => exact nomatch ho

/-! ### Decode and encode -/

theorem readWord_of_encode {i : Instr} {w : Slot96} (h : encode i = some w) : readWord w = some i := by
  obtain ⟨op, ho, rfl⟩ := Option.map_eq_some_iff.mp h
  have hi : ofOpcode op (i.operandBits ++ BitVec.ofNat 10 op) = some i :=
    (ofOpcode_eq_some_iff ho _).mpr (extract_operands_append ..).symm
  obtain ⟨-, v, hv, hmod⟩ : op < 1024 ∧ ∃ v, encode i = some v ∧ v.toNat % 1024 = op := by
    simpa only [Laws.OpcodeBits.Statement, ho] using Laws.OpcodeBits.of_some ho (ofOpcode_some hi).2
  obtain rfl := Option.some.inj (h.symm.trans hv)
  rwa [readWord, hmod]

theorem encode_of_readWord {i : Instr} {w : Slot96} (h : readWord w = some i) : encode i = some w := by
  obtain ⟨ho, -⟩ := ofOpcode_some h
  rw [encode, ho, Option.map_some, (ofOpcode_eq_some_iff ho w).mp h, operands_append_opcode]

theorem decode_eq_ok_iff (w : Slot96) (i : Instr) : decode w = .ok i ↔ readWord w = some i ∧ i.wellFormed = true := by
  refine ⟨fun h => ?_, fun ⟨hr, hw⟩ => ?_⟩
  · unfold decode at h
    split at h
    · cases h
    · next j hr =>
      split at h
      · cases h
      · next hf =>
        cases h
        exact ⟨hr, by rw [Instr.wellFormed, hf]; rfl⟩
  · simp only [decode, hr, Option.isNone_iff_eq_none.mp hw]

/-- A table word decodes to the well-formed instruction it is the word of. -/
theorem decodeTableWord_of_encode {i : Instr} {n : Nat} (hw : i.wellFormed = true) (he : encode i = some (BitVec.ofNat 96 n)) :
    decodeTableWord 96 n = some i := by
  have hn : BitVec.ofNat 96 (n % 2 ^ min 96 96) = BitVec.ofNat 96 n := by
    apply BitVec.eq_of_toNat_eq
    simp
  simp only [decodeTableWord, hn, (decode_eq_ok_iff _ i).mpr ⟨readWord_of_encode he, hw⟩]

end Sys2Proof

namespace Sys2Proof.Proofs

/-- Settles O2: a word's fields and its opcode determine it, and the order 4 check is the same on both sides. -/
theorem decodeEncode : Obligations.DecodeEncode := by
  refine ⟨fun i w hw he => ?_, fun i w hd => ?_⟩
  · exact (decode_eq_ok_iff w i).mpr ⟨readWord_of_encode he, hw⟩
  · obtain ⟨hr, hw⟩ := (decode_eq_ok_iff w i).mp hd
    exact ⟨hw, encode_of_readWord hr⟩

/-- Settles O1: each word is the word of its instruction, which is well formed. -/
theorem decodedWords : Obligations.DecodedWords :=
  ⟨decodeTableWord_of_encode (by decide) (by decide), decodeTableWord_of_encode (by decide) (by decide),
   decodeTableWord_of_encode (by decide) (by decide), decodeTableWord_of_encode (by decide) (by decide),
   decodeTableWord_of_encode (by decide) (by decide), decodeTableWord_of_encode (by decide) (by decide)⟩

end Sys2Proof.Proofs

namespace Sys2Proof.Machine

/-! ### pcomb, nop, prefetch and cctl (04 R107; 08 R220, R221) -/

theorem exec_nop (f : FormV) (s : State) : exec (.nop f) s = s.alu (0, false) [] [] [] fun c => .ok c.w := rfl
theorem exec_pcomb (f : FormV) (s : State) : exec (.pcomb f) s = execPcomb f s := rfl
theorem exec_prefetch (f : FormM) (s : State) : exec (.prefetch f) s = execPrefetch f s := rfl
theorem exec_cctl (f : FormM) (s : State) : exec (.cctl f) s = execCctl f s := rfl

theorem nop_goes_on {s : State} {c : Ctx} (h : s.Issues (0, false) c) (f : FormV) : exec (.nop f) s = .next (s.after c c.w) := by
  have hd : c.deadRead [] = none := by simp [Ctx.deadRead, least]
  rw [exec_nop, alu_completes h hd rfl rfl rfl rfl rfl rfl rfl, kill_nil]

/-- An instruction that does nothing but make its marked registers D. -/
theorem marks_complete {s : State} {c : Ctx} {g : Nat × Bool} {i : Instr} {marks : List Nat} (h : s.Issues g c)
    (hexec : exec i s = .next (s.finish c (c.w.kill c.full marks []))) : s.Completes c i fun v => c.Wrote v [] marks :=
  ⟨_, hexec.trans (congrArg _ (finish_regsOnly h (kill_regsOnly ..))), kill_wrote c marks⟩

theorem prefetch_kills {s : State} {c : Ctx} {f : FormM} (h : s.ctx? f.guard = some c) :
    exec (.prefetch f) s = .next (s.finish c (c.w.kill c.full (f.marked [] []) [])) := by
  simp only [exec_prefetch, execPrefetch, h]

theorem cctl_kills {s : State} {c : Ctx} {f : FormM} (h : s.ctx? f.guard = some c) :
    exec (.cctl f) s = .next (s.finish c (c.w.kill c.full (f.marked [] []) [])) := by
  simp only [exec_cctl, execCctl, h]

/-! ### From a scheduler's choice to the issue stage (02 R48, R66 to R68; 06 R154, R155) -/

theorem least_mem {l : List Nat} {k : Nat} (h : least l = some k) : k ∈ l := by
  induction l generalizing k with
  | nil => cases h
  | cons a r ih =>
    cases hr : least r with
    | none =>
      obtain rfl : a = k := by simpa [least, hr] using h
      exact List.mem_cons_self
    | some b =>
      obtain rfl : min a b = k := by simpa [least, hr] using h
      rcases Nat.le_total a b with hab | hab
      · simp [hab]
      · simp [hab, ih hr]

theorem nextScheduler_fresh {s : State} {k : Nat} (h : s.nextScheduler = some k) : s.hasIssued k = false := by
  obtain ⟨-, hk⟩ := List.mem_filter.mp (least_mem h)
  simp only [Bool.and_eq_true, Bool.not_eq_true'] at hk
  obtain ⟨⟨-, hfresh⟩, -⟩ := hk
  exact hfresh

theorem slotCheck_ok {nreg slot : Nat} {word : Slot96} {i : Instr} (hd : decode word = .ok i) (hb : (uses i).beyond nreg = none) :
    slotCheck nreg false slot word = .ok i := by
  obtain ⟨hr, hw⟩ := (decode_eq_ok_iff word i).mp hd
  simp [slotCheck, hr, Option.isNone_iff_eq_none.mp hw, hb]

theorem lineCheck_alone {nreg line slot : Nat} {i : Instr} (hrsv : bitsOf (lineWord line) 9 7 = 0)
    (hpair : (bitsOf (lineWord line) 5 4).testBit slot = false) (hover : overlapAt (bitsOf (lineWord line) 5 4) slot = none)
    (hi : slotCheck nreg false slot (lineSlot line slot) = .ok i) : lineCheck nreg false line slot = .ok (i, none) := by
  simp [lineCheck, hrsv, hi, hpair, illegalPair, hover]

theorem sequentialFault_plain {s : State} {l : Launch} (h : l.packet.travel = false) (w : Warp) (e : Nat) (pc : PC) (i : Instr) :
    s.sequentialFault l w e pc i none = none := by
  simp only [State.sequentialFault, departCheck_none (leaving_plain h), ite_self]

theorem front_alone {s t : State} {w : Warp} {l : Launch} {g : Workgroup} {e line : Nat} {i : Instr}
    (hf : s.fetchLine w (s.asidOf w) e (w.entry e).pc = (t, .line line)) (ht : l.packet.travel = false)
    (hc : lineCheck w.nreg false line ((w.entry e).pc.toNat % 8) = .ok (i, none)) :
    s.front w l g e = { t.noteIssue w.uid e with
      issue := some { warp := w.uid, entry := e, pc := (w.entry e).pc, instr := i, second := none } } := by
  simp [State.front, hf, ht, hc, sequentialFault_plain ht]

theorem issueAt_choice {s : State} {k : Nat} {w : Warp} {e : Nat} {l : Launch} {g : Workgroup} (hk : s.hasIssued k = false)
    (hc : s.choose k = some (w, e)) (hl : s.launch? w.launch = some l) (hg : s.wg? w.wg = some g) :
    s.issueAt k = s.front w l g e := by
  simp [State.issueAt, hk, hc, hl, hg]

/-! ### What a step runs (log 2) -/

theorem step_scheduler {s : State} {k : Nat} {x : Issue} (hi : s.issue = none) (ha : s.agenda = []) (ht : s.turn ≠ 0)
    (hk : s.nextScheduler = some k) (hx : (s.issueAt k).issue = some x) :
    step s = exec x.instr { s.issueAt k with turn := k + 2 } := by
  simp [step, State.stepWith, State.turnStep, hi, ha, ht, hk, hx]

theorem step_issued {s : State} {x : Issue} (hi : s.issue = some x) (hc : (s.ctx? x.instr.guard).isSome = true)
    (hm : x.marked = []) : step s = exec x.instr s := by
  have hn : (s.ctx? x.instr.guard).isNone = false := by simpa using hc
  simp only [step, State.stepWith, hi, hn, hm]
  cases exec x.instr s <;> rfl

theorem step_agenda {s : State} {i : Instr} {r : List Instr} (hi : s.issue = none) (ha : s.agenda = i :: r) :
    step s = exec i { s with agenda := r } := by
  simp only [step, State.stepWith, hi, ha]

/-- The first of a pair leaves its second at the issue stage (02 R67). -/
theorem finish_second {s : State} {c : Ctx} {j : Instr} (h : c.second = some j) (z : Warp) :
    ∃ x : Issue, (s.finish c z).issue = some x ∧ x.instr = j ∧ x.pc = nextSlot c.pc ∧ x.second = none ∧
      (s.finish c z).mem = s.mem := by
  simp [State.finish, State.finishTo, h]

/-! ### Every arm answers a next state (02 R68; 06 R164; log 4) -/

/-- The answer is a next state: neither a fault nor a refusal. -/
def Goes (r : Result) : Prop := ∃ t, r = .next t

theorem goes_next (t : State) : Goes (.next t) := ⟨t, rfl⟩

theorem alu_goes (s : State) (g : Nat × Bool) (reads marks writes : List Nat) (body : Ctx → Except (Nat × DWord) Warp) :
    Goes (s.alu g reads marks writes body) := by
  unfold State.alu
  repeat' split
  all_goals exact goes_next _

theorem branch_goes (s : State) (c : Ctx) (w : Warp) (checks : List PC) (dest : List (PC × Mask)) (j : PC) :
    Goes (s.branch c w checks dest j) := by
  unfold State.branch
  repeat' split
  all_goals exact goes_next _

theorem indirect_goes (s : State) (f : FormB) : Goes (s.indirect f) := by
  simp only [State.indirect]
  split
  · exact goes_next _
  · split
    · exact goes_next _
    · split
      · exact goes_next _
      · exact branch_goes ..

theorem collective_goes (s : State) (f : FormV) (reads : List Nat) (vals : Ctx → Nat → DWord) (i : Instr) :
    Goes (s.collective f reads vals i) := by
  simp only [State.collective]
  repeat' split
  all_goals exact goes_next _

theorem atomic_goes (s : State) (f : FormM) (op : AccOp) (ret : Bool) (aux : List Nat) : Goes (s.atomic f op ret aux) := by
  simp only [State.atomic]
  repeat' split
  all_goals exact goes_next _

theorem barrier_goes (s : State) (f : FormV) (kind : GroupKind) : Goes (s.barrier f kind) := by
  unfold State.barrier
  repeat' split
  all_goals exact goes_next _

theorem matrixArrive_goes (s : State) (f : FormX) (reads : List Nat) (i : Instr) : Goes (s.matrixArrive f reads i) := by
  unfold State.matrixArrive
  repeat' split
  all_goals exact goes_next _

theorem issueCopy_goes (s : State) (f : FormX) (two : Bool) : Goes (s.issueCopy f two) := by
  unfold State.issueCopy
  repeat' split
  all_goals exact goes_next _

theorem abInstr_goes (s : State) (f : FormX) (q : AbAsk) (k : Ctx → Nat → State) : Goes (s.abInstr f q k) := by
  unfold State.abInstr
  repeat' split
  all_goals exact goes_next _

theorem lineInstr_goes (s : State) (f : FormX) (q : LineAsk) (go : Ctx → State) : Goes (s.lineInstr f q go) := by
  unfold State.lineInstr
  repeat' split
  all_goals exact goes_next _

theorem command_goes (s : State) (p : Packet) (op : Nat) : Goes (s.command p op) := by
  simp only [State.command]
  repeat' split
  all_goals exact goes_next _

/-- Every instruction and every event: those of an operation they share go on by its lemma; of the others, listed by chapter, every
branch of the definition is a next state. -/
theorem exec_goes (i : Instr) (s : State) : Goes (exec i s) := by
  cases i with
  | nop f | pcomb f =>
    simp only [exec, execNop, execPcomb]
    exact alu_goes ..
  | iadd f | iaddI f | isub f | isubI f | imul f | imulI f | imulh f | imulhI f | imad f | imadw f | idiv f | idivI f
  | irem f | iremI f | imin f | iminI f | imax f | imaxI f | iabs f | ineg f =>
    simp only [exec, execIadd, execIaddI, execIsub, execIsubI, execImul, execImulI, execImulh, execImulhI, execImad, execImadw,
      execIdiv, execIdivI, execIrem, execIremI, execImin, execIminI, execImax, execImaxI, execIabs, execIneg, FormV.int2,
      State.int2, FormI.int2, FormV.intDiv, State.intDiv, FormI.intDiv, FormV.int1]
    exact alu_goes ..
  | icmp f | icmpI f | sel f | selI f | mov f | movi f | lea f =>
    simp only [exec, execIcmp, execIcmpI, execSel, execSelI, execMov, execMovi, execLea, State.compare, State.select]
    exact alu_goes ..
  | and_ f | andI f | or_ f | orI f | xor_ f | xorI f | andn f | andnI f | orn f | ornI f | shl f | shlI f | shr f | shrI f
  | sar f | sarI f | rol f | rolI f | ror f | rorI f | popc f | clz f | ctz f | brev f | bfe f | bfeI f | bfi f | bfiI f
  | prmb f | prmbI f =>
    simp only [exec, execAnd, execAndI, execOr, execOrI, execXor, execXorI, execAndn, execAndnI, execOrn, execOrnI, execShl,
      execShlI, execShr, execShrI, execSar, execSarI, execRol, execRolI, execRor, execRorI, execPopc, execClz, execCtz,
      execBrev, execBfe, execBfeI, execBfi, execBfiI, execPrmb, execPrmbI, FormV.nat2, State.nat2, FormI.nat2, FormV.control,
      State.control, FormI.control, FormV.count1, State.bfi]
    exact alu_goes ..
  | fadd f | faddI f | fsub f | fsubI f | fmul f | fmulI f | ffma f | fmin f | fminI f | fmax f | fmaxI f | fminn f
  | fminnI f | fmaxn f | fmaxnI f | fabs f | fneg f | fcmp f | fcmpI f | fclass f =>
    simp only [exec, execFadd, execFaddI, execFsub, execFsubI, execFmul, execFmulI, execFfma, execFmin, execFminI, execFmax,
      execFmaxI, execFminn, execFminnI, execFmaxn, execFmaxnI, execFabs, execFneg, execFcmp, execFcmpI, execFclass,
      FormV.float2, State.float2, FormI.float2, FormV.float1, State.floatCmp]
    exact alu_goes ..
  | fcvt f | icvt f | fcvti f | frcp f | frsq f | fsqrt f | fdiv f | fex2 f | flg2 f | fsin f | fcos f | ftanh f =>
    simp only [exec, execFcvt, execIcvt, execFcvti, execFrcp, execFrsq, execFsqrt, execFdiv, execFex2, execFlg2, execFsin,
      execFcos, execFtanh, FormV.special, FormV.float1, FormV.float2, State.float2]
    exact alu_goes ..
  | quant f | deq f | plsplit f | pljoin f =>
    simp only [exec, execQuant, execDeq, execPlsplit, execPljoin]
    exact alu_goes ..
  | mfmt f | sread f =>
    simp only [exec, execMfmt, execSread]
    exact alu_goes ..
  | brx f | ret f =>
    simp only [exec]
    exact indirect_goes ..
  | poll f | fold f | peer f =>
    simp only [exec]
    exact collective_goes ..
  | atom f | atomf f | red f =>
    simp only [exec]
    exact atomic_goes ..
  | bar f | barc f | bard f =>
    simp only [exec]
    exact barrier_goes ..
  | mma f | mloop f | mldf f | mstf f =>
    simp only [exec]
    exact matrixArrive_goes ..
  | cpy f | cpy2d f =>
    simp only [exec]
    exact issueCopy_goes ..
  | abinit f | abexp f | abarv f | abwait f | abtest f =>
    simp only [exec, execAbinit, execAbexp, execAbarv, execAbwait, execAbtest]
    exact abInstr_goes ..
  | board f | alight f | catchTile f | replace f =>
    simp only [exec]
    exact lineInstr_goes ..
  | evWrite p | evRead p | evSubmit p | evReadc p | evGrant p | evNegotiate p | evBoot p | evAttest p =>
    simp only [exec]
    exact command_goes ..
  | bra f =>
    rw [exec_bra, execBra]
    split
    · exact goes_next _
    · exact branch_goes ..
  | call f =>
    rw [exec_call, execCall]
    split
    · exact goes_next _
    · exact branch_goes ..
  | pbar f =>
    simp only [exec, execPbar]
    split
    · exact goes_next _
    · split
      · exact barrier_goes ..
      · split
        all_goals exact goes_next _
  -- One effect, whatever the state.
  | evPreemptionRequest launches | evStationTick | evFrontierArrival die core | evSample die core sched
  | evSampleDrain die cluster | evThermalEmergencyGate die cluster | evReadcMatch tag | evWindowAccessReply acc lane data
  | evWindowTimeout acc lane | evFabricPortDown port | evFrontDieReset => exact goes_next _
  -- Control and traps (04 R95 to R98; 06 R161 to R165).
  | exit_ f | yield f | sleep f | trap f | step_ f | swrite f | tret f | bkpt f =>
    simp only [exec, execExit, execYield, execSleep, execTrap, execStep, execSwrite, execTret, execBkpt]
    repeat' split
    all_goals exact goes_next _
  -- Memory and its fences (08).
  | ld f | st f | prefetch f | cctl f | fence f | waitval f | evGlWritePerformed acc lane | evAccessReply acc
  | evWaitvalWake wid entry | evWaitvalLimit wid entry | evWaitvalReread wid entry lane | evSleepExpiry wid entry =>
    simp only [exec, execLd, execSt, execPrefetch, execCctl, execFence, execWaitval, execEvGlWritePerformed, execEvAccessReply,
      execEvWaitvalWake, execEvWaitvalLimit, execEvWaitvalReread, execEvSleepExpiry]
    repeat' split
    all_goals exact goes_next _
  -- Tickets, copies and publication (09).
  | tkwait f | tktest f | tkcancel f | tkget f | tkset f | publish f | evCopyEngineStart op | evCopySectorDelivery op sector
  | evCopyEnd op | evPublishSwap wid entry | evTicketResolve wid reg | evAbwaitWake wid entry =>
    simp only [exec, execTkwait, execTktest, execTkcancel, execTkget, execTkset, execPublish, execEvCopyEngineStart,
      execEvCopySectorDelivery, execEvCopyEnd, execEvPublishSwap, execEvTicketResolve, execEvAbwaitWake]
    repeat' split
    all_goals exact goes_next _
  -- The circle line (18).
  | lineq f | evSlotAdvance | evStationRequest op | evStationSourceRead op | evBoardPayloadWrite op | evReplaceSwap op
  | evCatchDelivery op | evAlightRemoval op | evReboard slot | evStationBridge die | evRegionCoachRemoval node
  | evFirmwareAlight slot =>
    simp only [exec, execLineq, execEvSlotAdvance, execEvStationRequest, execEvStationSourceRead, execEvBoardPayloadWrite,
      execEvReplaceSwap, execEvCatchDelivery, execEvAlightRemoval, execEvReboard, execEvStationBridge, execEvRegionCoachRemoval,
      execEvFirmwareAlight]
    repeat' split
    all_goals exact goes_next _
  -- Launches, travel and distribution (11, 12, 14).
  | launch f | trigger f | waitdep f | segq f | evThreadRecordShip die core tid | evWarpFormation die core
  | evPbarRelease launch inst | evWaitdepRelease wid entry | evQueuePacketTake node queue | evDeviceLaunchRead seq
  | evDeal launch | evLaunchCompletion launch | evStepBoundary launch | evPreemptionHint launch lower | evSaveComplete wg
  | evRestore wg die core =>
    simp only [exec, execLaunch, execTrigger, execWaitdep, execSegq, execEvThreadRecordShip, execEvWarpFormation,
      execEvPbarRelease, execEvWaitdepRelease, execEvQueuePacketTake, execEvDeviceLaunchRead, execEvDeal,
      execEvLaunchCompletion, execEvStepBoundary, execEvPreemptionHint, execEvSaveComplete, execEvRestore]
    repeat' split
    all_goals exact goes_next _
  -- History memory (16).
  | ldAsof f | stStamp f | stamp f | hnow f | hfloor f | htrim f | evAsofReply acc | evHistoryOwner asid va node
  | evFrontierGather | evFloorInEffect index =>
    simp only [exec, execLdAsof, execStStamp, execStamp, execHnow, execHfloor, execHtrim, execEvAsofReply, execEvHistoryOwner,
      execEvFrontierGather, execEvFloorInEffect]
    repeat' split
    all_goals exact goes_next _
  -- The matrix unit and issue (06, 07).
  | evMatrixSliceStart die core sched | evMloopStep wid | evSchedulerIssue die core sched =>
    simp only [exec, execEvMatrixSliceStart, execEvMloopStep, execEvSchedulerIssue]
    repeat' split
    all_goals exact goes_next _
  -- The dies, firmware and the host (11, 13, 19, 20).
  | evTranslationWalk die asid va kind | evFaultServiceComplete asid va served | evFirmwareDecision wid entry key resume
  | evInvalidation scope | evRegionUpdate node | evRegionAllocation node die units | evRootRegisterWrite asid value
  | evSampleRingWrite die value | evFabricWindowWrite window value | evSvnRaise value | evDieStateWrite die state
  | evLoseCommand die | evRegisterWrite reg value | evDieFatalError die why | evDieLost die pathServes | evMempathFail die
  | evPageMove asid va dest | evDieOffline die | evSubnetPowerUp die subnet | evSubnetPowerDown die subnet
  | evClusterPowerGate die cluster | evClusterUngate die cluster | evReadcTimeout tag | evBootVerify
  | evFabricRemoteRequest r | evOperatingPointChange millivolts =>
    simp only [exec, execEvTranslationWalk, execEvFaultServiceComplete, execEvFirmwareDecision, execEvInvalidation,
      execEvRegionUpdate, execEvRegionAllocation, execEvRootRegisterWrite, execEvSampleRingWrite, execEvFabricWindowWrite,
      execEvSvnRaise, execEvDieStateWrite, execEvLoseCommand, execEvRegisterWrite, execEvDieFatalError, execEvDieLost,
      execEvMempathFail, execEvPageMove, execEvDieOffline, execEvSubnetPowerUp, execEvSubnetPowerDown, execEvClusterPowerGate,
      execEvClusterUngate, execEvReadcTimeout, execEvBootVerify, execEvFabricRemoteRequest, execEvOperatingPointChange]
    repeat' split
    all_goals exact goes_next _

theorem turnStep_goes {ex : Instr → State → Result} (h : ∀ i s, Goes (ex i s)) (s : State) : Goes (s.turnStep ex) := by
  simp only [State.turnStep]
  split
  · exact goes_next _
  · split
    · exact goes_next _
    · exact h ..

theorem stepWith_goes {ex : Instr → State → Result} (h : ∀ i s, Goes (ex i s)) (s : State) : Goes (s.stepWith ex) := by
  unfold State.stepWith
  cases s.issue with
  | some x =>
    have hr : Goes (if (s.ctx? x.instr.guard).isNone then .next { s with issue := none } else ex x.instr s) := by
      split
      · exact goes_next _
      · exact h ..
    obtain ⟨t, ht⟩ := hr
    simp only [ht]
    exact goes_next _
  | none =>
    cases s.agenda with
    | cons i r => exact h ..
    | nil =>
      dsimp only
      split
      · cases s.lineTurn with
        | some i => exact h ..
        | none => exact goes_next _
      · exact turnStep_goes h s

end Sys2Proof.Machine

namespace Sys2Proof.Proofs
open Sys2Proof.Machine

/-- Settles O18: pcomb writes its predicate from the lanes' bits; the hints leave the state after the marks they carry. -/
theorem predicatesAndHints : Obligations.PredicatesAndHints := by
  intro s c f m
  refine ⟨?_, fun h => nop_goes_on h f, fun h => ⟨?_, ?_⟩⟩
  · exact givesPred_alu (exec_pcomb f s) rfl rfl fun _ hi _ => maskOf_bit hi
  · exact marks_complete h (prefetch_kills h.ctx)
  · exact marks_complete h (cctl_kills h.ctx)

/-- Settles O3: the front end passes a legal instruction to the issue stage, and a step runs what stands there. -/
theorem stepRunsTheInstruction : Obligations.StepRunsTheInstruction := by
  intro s t k line w e l g i pc lw slot issued
  refine ⟨?_, fun x => step_issued, fun r => step_agenda, fun c z j h => finish_second h z⟩
  intro hi ha hturn hk hc hl hg hf hrsv hpair hover hd hb ht
  have hfront := front_alone (g := g) hf ht (lineCheck_alone hrsv hpair hover (slotCheck_ok hd hb))
  have hissue := (issueAt_choice (nextScheduler_fresh hk) hc hl hg).trans hfront
  rw [step_scheduler (x := issued) hi ha hturn hk (by rw [hissue]), hissue]

/-- Settles O6: every branch of every meaning is a next state, and a step runs one meaning or moves the machine itself. -/
theorem nothingStops : Obligations.NothingStops := ⟨exec_goes, stepWith_goes exec_goes⟩

end Sys2Proof.Proofs

/-! SUPPORT. The proofs of family 03, number formats: how an exact integer result is written and read back (03 R73, R74), and the
exact sum of a matrix group (03 R90, R91). The laws each part needs stand before it. -/

namespace Sys2Proof

/-! ### An integer held in a lane reads back as it wraps (03 R73, R74) -/

theorem satInt_mem {lo hi : Int} (h : lo ≤ hi) (x : Int) : lo ≤ satInt x lo hi ∧ satInt x lo hi ≤ hi := by
  unfold satInt
  split
  · exact ⟨Int.le_refl lo, h⟩
  · split <;> omega

namespace Ty

/-- A type fits one register, or fills a pair. -/
theorem width_le_or_eq (t : Ty) : t.width ≤ 32 ∨ t.width = 64 := by cases t <;> decide

/-- A power of two is positive, at whatever width. -/
theorem two_pow_pos (n : Nat) : (0 : Int) < 2 ^ n := Int.pow_pos (by decide)

/-- 2^w is twice the sign bit's weight, the form in which the linear steps below use it. -/
theorem two_pow_width (t : Ty) : (2 ^ t.width : Int) = 2 * 2 ^ (t.width - 1) := by
  have hpos : 0 < t.width := by cases t <;> decide
  rw [← Int.pow_succ', Nat.sub_add_cancel hpos]

theorem lo_signed {t : Ty} (h : t.signed = true) : t.lo = -2 ^ (t.width - 1) := by simp [lo, h]
theorem lo_natural {t : Ty} (h : t.signed = false) : t.lo = 0 := by simp [lo, h]
theorem hi_signed {t : Ty} (h : t.signed = true) : t.hi = 2 ^ (t.width - 1) - 1 := by simp [hi, h]
theorem hi_natural {t : Ty} (h : t.signed = false) : t.hi = 2 ^ t.width - 1 := by simp [hi, h]

theorem wrap_natural {t : Ty} (h : t.signed = false) (x : Int) : t.wrap x = x % 2 ^ t.width := by simp [wrap, h]
theorem wrap_signed {t : Ty} (h : t.signed = true) (x : Int) :
    t.wrap x = if 2 ^ (t.width - 1) ≤ x % 2 ^ t.width then x % 2 ^ t.width - 2 ^ t.width else x % 2 ^ t.width := by
  simp [wrap, h]

theorem lo_le_hi (t : Ty) : t.lo ≤ t.hi := by
  have hw := two_pow_pos t.width
  have hs := two_pow_pos (t.width - 1)
  cases h : t.signed with
  | false => rw [lo_natural h, hi_natural h]; omega
  | true => rw [lo_signed h, hi_signed h]; omega

/-- What is taken mod 2^w lies within the limits. -/
theorem wrap_mem_limits (t : Ty) (x : Int) : t.lo ≤ t.wrap x ∧ t.wrap x ≤ t.hi := by
  have hn : 0 ≤ x % 2 ^ t.width := Int.emod_nonneg x (Int.ne_of_gt (two_pow_pos t.width))
  have hlt : x % 2 ^ t.width < 2 ^ t.width := Int.emod_lt_of_pos x (two_pow_pos t.width)
  cases h : t.signed with
  | false => rw [wrap_natural h, lo_natural h, hi_natural h]; exact ⟨hn, by omega⟩
  | true =>
    have hw := t.two_pow_width
    rw [wrap_signed h, lo_signed h, hi_signed h]
    split <;> constructor <;> omega

theorem wrap_sub_emod (t : Ty) (x : Int) : (t.wrap x - x) % 2 ^ t.width = 0 := by
  cases h : t.signed with
  | false => rw [wrap_natural h]; simp
  | true =>
    rw [wrap_signed h]
    split <;> simp [Int.sub_emod]

/-- An integer within the limits wraps to itself. -/
theorem wrap_of_mem_limits {t : Ty} {x : Int} (hlo : t.lo ≤ x) (hhi : x ≤ t.hi) : t.wrap x = x := by
  have hw := t.two_pow_width
  cases h : t.signed with
  | false =>
    rw [lo_natural h] at hlo
    rw [hi_natural h] at hhi
    rw [wrap_natural h, Int.emod_eq_of_lt hlo (by omega)]
  | true =>
    rw [lo_signed h] at hlo
    rw [hi_signed h] at hhi
    rw [wrap_signed h]
    rcases Int.lt_or_le x 0 with hneg | hpos
    · have he : x % 2 ^ t.width = x + 2 ^ t.width := by
        rw [← Int.add_emod_right, Int.emod_eq_of_lt (by omega) (by omega)]
      rw [he, if_pos (by omega)]
      omega
    · rw [Int.emod_eq_of_lt hpos (by omega), if_neg (by omega)]

/-- A lane keeps an integer up to multiples of 2^w, whether the type fits its word or fills a pair. -/
theorem hold_toNat_emod (t : Ty) (x : Int) : ((t.hold x).toNat : Int) % 2 ^ t.width = x % 2 ^ t.width := by
  rcases t.width_le_or_eq with hw | hw
  · have hhold : t.hold x = (BitVec.ofInt 32 x).setWidth 64 := by rw [hold, if_neg (by omega)]
    rw [hhold, BitVec.toNat_setWidth_of_le (by decide), BitVec.toNat_ofInt, Int.toNat_of_nonneg (Int.emod_nonneg x (by decide))]
    exact Int.emod_emod_of_dvd x (by exact_mod_cast Nat.pow_dvd_pow 2 hw)
  · have hhold : t.hold x = BitVec.ofInt 64 x := by rw [hold, if_pos hw]
    rw [hhold, hw, BitVec.toNat_ofInt, Int.toNat_of_nonneg (Int.emod_nonneg x (by decide))]
    exact Int.emod_emod_of_dvd x (by decide)

/-- Reading a lane wraps the natural number it holds. -/
theorem read_eq_wrap (t : Ty) (v : DWord) : t.read v = t.wrap v.toNat := by
  simp only [read, wrap]
  norm_cast

theorem wrap_congr {t : Ty} {x y : Int} (h : x % 2 ^ t.width = y % 2 ^ t.width) : t.wrap x = t.wrap y := by
  simp only [wrap, h]

theorem read_hold (t : Ty) (x : Int) : t.read (t.hold x) = t.wrap x :=
  (t.read_eq_wrap _).trans (wrap_congr (t.hold_toNat_emod x))

theorem read_result_wrapped (t : Ty) (x : Int) : t.read (t.result false x) = t.wrap x := by
  obtain ⟨hlo, hhi⟩ := t.wrap_mem_limits x
  simpa [result] using (t.read_hold (t.wrap x)).trans (wrap_of_mem_limits hlo hhi)

theorem read_result_saturated (t : Ty) (x : Int) : t.read (t.result true x) = satInt x t.lo t.hi := by
  obtain ⟨hlo, hhi⟩ := satInt_mem t.lo_le_hi x
  simpa [result] using (t.read_hold (satInt x t.lo t.hi)).trans (wrap_of_mem_limits hlo hhi)

end Ty

end Sys2Proof

namespace Sys2Proof.Proofs

/-- Settles O10: what a lane holds reads back wrapped, and an integer within the limits wraps to itself. -/
theorem resultRule : Obligations.ResultRule := by
  intro t x _
  rw [Ty.read_result_wrapped]
  obtain ⟨hlo, hhi⟩ := t.wrap_mem_limits x
  exact ⟨t.read_result_saturated x, t.wrap_sub_emod x, hlo, hhi⟩

end Sys2Proof.Proofs

namespace Sys2Proof.Machine

/-! ### The exact sum of a group's products (03 R90) -/

/-- A nonzero number. -/
def FVal.isNonzero : FVal → Bool
  | .num _ m _ => m != 0
  | _ => false

/-- A number with its sign set. -/
def FVal.isMinus : FVal → Bool
  | .num n _ _ => n
  | _ => false

/-- R90's floor(log2(|p|)). -/
def FVal.exponent : FVal → Int
  | .num _ m e => floorLog2 m e
  | _ => 0

/-- A product cut to a multiple of 2^u, in units of 2^u: R90's sign(p) * floor(|p| / u). -/
def FVal.cut (u : Int) : FVal → Int
  | .num n m x =>
    let k : Nat := match x - u with
      | .ofNat k => m * 2 ^ k
      | .negSucc k => m / 2 ^ (k + 1)
    if n then -(k : Int) else k
  | _ => 0

/-- R90's u as a power of two: the last bit kept of nonzero products, `w` bits from the largest of them down. -/
def groupUnit (w : Nat) (nz : List FVal) : Int := (nz.map FVal.exponent).max?.getD 0 - w + 1

/-- R90's S in units of 2^u: the exact sum of the products cut there. -/
def cutSum (u : Int) (nz : List FVal) : Int := nz.foldl (fun a v => a + v.cut u) 0

/-- What a group of finite products adds to the accumulator: S, or z where every product is zero. -/
def groupValue (w : Nat) (ps : List FVal) : FVal :=
  let nz := ps.filter FVal.isNonzero
  let u := groupUnit w nz
  if nz = [] then .num (ps.all FVal.isMinus) 0 0 else .num (cutSum u nz < 0) (cutSum u nz).natAbs u

/-- A group's value added to the accumulator with R90's one rounding; an accumulator that is no number stays. -/
def accumulate (acc : Ty) (c v : FVal) : FVal :=
  match c with
  | .num .. => decodeF acc (encodeF acc .rne (addF .rne c v))
  | _ => c

/-- The largest exponent as the model folds it. -/
theorem groupUnit_cons (w : Nat) (p : FVal) (r : List FVal) :
    groupUnit w (p :: r) = r.foldl (fun a v => max a v.exponent) p.exponent - w + 1 := by
  rw [groupUnit, List.map_cons, List.max?_cons', List.foldl_map, Option.getD_some]

/-- R90's `group_add`: the products that are not finite first, then one rounding of the group's value. -/
theorem groupAdd_eq (acc : Ty) (w : Nat) (c : FVal) (ps : List FVal) :
    groupAdd acc w c ps =
      if c == .nan || ps.contains .nan then .nan
      else if ps.contains (.inf true) && ps.contains (.inf false) then .nan
      else if ps.contains (.inf true) then (if c == .inf false then .nan else .inf true)
      else if ps.contains (.inf false) then (if c == .inf true then .nan else .inf false)
      else accumulate acc c (groupValue w ps) := by
  refine ite_congr rfl (fun _ => rfl) fun _ => ite_congr rfl (fun _ => rfl) fun _ =>
    ite_congr rfl (fun _ => rfl) fun _ => ite_congr rfl (fun _ => rfl) fun _ => ?_
  cases c with
  | nan => rfl
  | inf n => rfl
  | num n m e =>
    simp only [accumulate]
    split
    next hnz =>
      have hnz : ps.filter FVal.isNonzero = [] := hnz
      rw [groupValue, if_pos hnz]
      rfl
    next p r hnz =>
      have hnz : ps.filter FVal.isNonzero = p :: r := hnz
      rw [groupValue, if_neg (by rw [hnz]; exact List.cons_ne_nil p r), hnz, groupUnit_cons, ← hnz]
      rfl

/-! ### It is a function of the multiset alone (03 R92) -/

theorem max?_perm {l r : List Int} (h : l.Perm r) : l.max? = r.max? := by
  ext a
  simp only [List.max?_eq_some_iff, h.mem_iff]

theorem groupUnit_perm {w : Nat} {ps qs : List FVal} (h : ps.Perm qs) : groupUnit w ps = groupUnit w qs := by
  rw [groupUnit, groupUnit, max?_perm (h.map _)]

theorem cutSum_perm {u : Int} {ps qs : List FVal} (h : ps.Perm qs) : cutSum u ps = cutSum u qs :=
  h.foldl_eq' (fun p _ q _ a => Int.add_right_comm a (p.cut u) (q.cut u)) 0

theorem groupValue_perm {w : Nat} {ps qs : List FVal} (h : ps.Perm qs) : groupValue w ps = groupValue w qs := by
  have hnz : (ps.filter FVal.isNonzero).Perm (qs.filter FVal.isNonzero) := h.filter _
  have hempty : ps.filter FVal.isNonzero = [] ↔ qs.filter FVal.isNonzero = [] := by
    rw [← List.length_eq_zero_iff, hnz.length_eq, List.length_eq_zero_iff]
  simp only [groupValue, hempty, groupUnit_perm hnz, cutSum_perm hnz, h.all_eq]

theorem groupAdd_perm (acc : Ty) (w : Nat) (c : FVal) {ps qs : List FVal} (h : ps.Perm qs) :
    groupAdd acc w c ps = groupAdd acc w c qs := by
  simp only [groupAdd_eq, h.contains_eq, groupValue_perm h]

/-! ### The worked values -/

/-- The products of Table 3-10. -/
def tableGroup : List FVal :=
  [.num false 1 0, .num false 1 (-30), .num true 1 0, .num false 1 (-40)] ++ List.replicate 28 (.num false 0 0)

/-- Table 3-10: u is 2^-39, and S is 2^9 of it, for 2^-40 is cut to zero and the two ones cancel. -/
theorem groupValue_tableGroup : groupValue 40 tableGroup = .num false (2 ^ 9) (-39) := by decide

theorem groupAdd_tableGroup : groupAdd .f32 40 (.num false 0 0) tableGroup = decodeF .f32 0x30800000 := by
  have hfinite : tableGroup.contains .nan = false ∧ tableGroup.contains (.inf true) = false ∧
      tableGroup.contains (.inf false) = false := by decide
  obtain ⟨hnan, hminus, hplus⟩ := hfinite
  have hround : accumulate .f32 (.num false 0 0) (.num false (2 ^ 9) (-39)) = decodeF .f32 0x30800000 := by decide
  rw [groupAdd_eq, hnan, hminus, hplus, groupValue_tableGroup]
  exact hround

/-- R91's running example: 16 × 2^8 × 2^-11. -/
theorem planeAdd_runningExample : planeAdd (.num false 0 0) 127 128 16 4 4 = decodeF .f32 0x40000000 := by decide

end Sys2Proof.Machine

namespace Sys2Proof.Proofs

open Sys2Proof.Machine

/-- Settles O26: the largest exponent, the sum and the tests of a group are those of its multiset. -/
theorem matrixGroups : Obligations.MatrixGroups :=
  ⟨fun acc w c _ _ h => groupAdd_perm acc w c h, groupAdd_tableGroup, planeAdd_runningExample⟩

end Sys2Proof.Proofs

/-! SUPPORT. The proofs of family 04, control and integer: integer arithmetic and division (04 R109 to R111), compares and moves
(04 R112 to R115), bits, shifts and fields (04 R116 to R120). One lemma per register skeleton says what it gives, and each
instruction is then the skeleton at its operation. -/

namespace Sys2Proof.Machine

/-! ### The words of a pair (00 R6) -/

@[simp] theorem lo32_pair64 (x y : Word) : lo32 (pair64 x y) = x := BitVec.extractLsb'_append_eq_right

@[simp] theorem hi32_pair64 (x y : Word) : hi32 (pair64 x y) = y := BitVec.extractLsb'_append_eq_left

theorem toNat_lo32 (x : DWord) : (lo32 x).toNat = x.toNat % 2 ^ 32 := by simp [lo32]

theorem lo32_eq_setWidth (x : DWord) : lo32 x = x.setWidth 32 :=
  BitVec.eq_of_toNat_eq (by rw [toNat_lo32, BitVec.toNat_setWidth])

@[simp] theorem lo32_setWidth (x : Word) : lo32 (x.setWidth 64) = x := by
  rw [lo32_eq_setWidth, BitVec.setWidth_setWidth_of_le _ (by decide), BitVec.setWidth_eq]

theorem lo32_add (x y : DWord) : lo32 (x + y) = lo32 x + lo32 y := by
  simp only [lo32_eq_setWidth]
  exact BitVec.setWidth_add x y (by decide)

theorem lo32_and_mask (x : DWord) : lo32 (x &&& 0xFFFFFFFF) = lo32 x := by
  have hones : BitVec.setWidth 32 (0xFFFFFFFF : DWord) = BitVec.allOnes 32 := by decide
  rw [lo32_eq_setWidth, BitVec.setWidth_and, hones, BitVec.and_allOnes, lo32_eq_setWidth]

/-! ### Operands as a result counts them (01 R33; 02 R57) -/

/-- The affine value of a counted source, `v` being what it holds where it counts as U. -/
def Count.affine (v : Word) : Count → Option (Word × Word)
  | .u => some (v, 0)
  | .a b s => some (b, s)
  | .g => none

theorem opd_affine_eq (o : Opd) (c : Ctx) : o.affine c = (o.count c).affine (lo32 (o.val c c.low)) := by
  cases h : o.count c with
  | u => exact opd_affine_u h
  | a b s => exact opd_affine_a h
  | g => cases o with
    | imm v => cases h
    | src r => simp only [Opd.count] at h; simp only [Opd.affine, Src.affine, h, Count.affine]

/-- An immediate is no register, so it is no dead read. -/
theorem gives_imm {s : State} {c : Ctx} {g : Nat × Bool} {i : Instr} {dst : Nat} {wide : Bool} {a : Src} {v : DWord}
    {marks : List Nat} {tag : Nat → Nat} {val : Nat → DWord} (h : Gives s c g i dst wide [.src a, .imm v] marks tag val) :
    Gives s c g i dst wide [.src a] marks tag val := h

theorem gives_val_congr {s : State} {c : Ctx} {g : Nat × Bool} {i : Instr} {dst : Nat} {wide : Bool} {srcs : List Opd}
    {marks : List Nat} {tag : Nat → Nat} {val val' : Nat → DWord} (hval : ∀ k, val k = val' k)
    (h : Gives s c g i dst wide srcs marks tag val) : Gives s c g i dst wide srcs marks tag val' :=
  (funext hval : val = val') ▸ h

theorem givesPred_imm {s : State} {c : Ctx} {g : Nat × Bool} {i : Instr} {pd : Nat} {a : Src} {v : DWord} {marks : List Nat}
    {val : Nat → Bool} (h : GivesPred s c g i pd [.src a, .imm v] marks val) :
    GivesPred s c g i pd [.src a] marks val := h

theorem allU_pair (c : Ctx) (a b : Opd) : allU c [a, b] = (a.count c == .u && b.count c == .u) := by simp [allU]

theorem regs_pair (a b : Opd) : a.regs ++ b.regs = [a, b].flatMap (·.regs) := by simp

theorem mem_dstRegs_narrow {dst n : Nat} {t : Ty} (hw : t.width = 32) (h : n ∈ dstRegs dst t.wide) : n = dst := by
  simpa [dstRegs, Ty.wide, hw] using h

section
variable {s : State} {c : Ctx} {g : Nat × Bool} {i : Instr} {dst : Nat} {wide : Bool} {marks : List Nat} {a b d : Opd}

/-- A result that each lane computes from one operand. -/
theorem gives_of_one {val : DWord → DWord}
    (hexec : exec i s = s.alu g a.regs marks (dstRegs dst wide) fun c =>
      .ok (c.w.writeResult dst wide c.eff c.full (allU c [a]) none fun k => val (a.val c k))) :
    Gives s c g i dst wide [a] marks (fun _ => c.tagU [a]) fun k => val (a.val c k) :=
  gives_uniform hexec (by simp) rfl fun j k h => by rw [h a (by simp)]

/-- One computed from two operands. -/
theorem gives_of_two {val : DWord → DWord → DWord}
    (hexec : exec i s = s.alu g (a.regs ++ b.regs) marks (dstRegs dst wide) fun c =>
      .ok (c.w.writeResult dst wide c.eff c.full (allU c [a, b]) none fun k => val (a.val c k) (b.val c k))) :
    Gives s c g i dst wide [a, b] marks (fun _ => c.tagU [a, b]) fun k => val (a.val c k) (b.val c k) :=
  gives_uniform hexec (regs_pair a b) rfl fun j k h => by rw [h a (by simp), h b (by simp)]

/-- One computed from three operands. -/
theorem gives_of_three {val : DWord → DWord → DWord → DWord}
    (hexec : exec i s = s.alu g (a.regs ++ b.regs ++ d.regs) marks (dstRegs dst wide) fun c =>
      .ok (c.w.writeResult dst wide c.eff c.full (allU c [a, b, d]) none
        fun k => val (a.val c k) (b.val c k) (d.val c k))) :
    Gives s c g i dst wide [a, b, d] marks (fun _ => c.tagU [a, b, d]) fun k => val (a.val c k) (b.val c k) (d.val c k) :=
  gives_uniform hexec (by simp) rfl fun j k h => by rw [h a (by simp), h b (by simp), h d (by simp)]

/-- A result of 32 bits computed from two operands under an affine rule, which gives the values of the operation. -/
theorem gives_of_two_affine {t : Ty} {aff : Ctx → Option (Word × Word)} {val : DWord → DWord → DWord} {tag : Nat}
    (hexec : exec i s = s.alu g (a.regs ++ b.regs) marks (dstRegs dst t.wide) fun c =>
      .ok (c.w.writeResult dst t.wide c.eff c.full (allU c [a, b]) (aff c) fun k => val (a.val c k) (b.val c k)))
    (hw : t.width = 32)
    (haff : c.full = true → ∀ x p, aff c = some (x, p) → ∀ j, j < 32 → c.eff.getLsbD j = true →
      lo32 (val (a.val c j) (b.val c j)) = x + BitVec.ofNat 32 j * p)
    (htag : tag = resultTag dst (allU c [a, b]) (aff c) dst) :
    Gives s c g i dst t.wide [a, b] marks (fun _ => tag) fun k => val (a.val c k) (b.val c k) := by
  refine gives_alu hexec (regs_pair a b) rfl (fun _ _ _ => ⟨rfl, fun _ => rfl⟩) ?_ (fun hf _ => haff hf) ?_
  · intro hf hu j k hj hk ej ek
    have same (o : Opd) (ho : o ∈ [a, b]) : o.val c j = o.val c k := allU_uniform hf hu ho hj hk ej ek
    show val (a.val c j) (b.val c j) = val (a.val c k) (b.val c k)
    rw [same a (by simp), same b (by simp)]
  · intro _ n hn
    rw [mem_dstRegs_narrow hw hn, htag]

end

end Sys2Proof.Machine

namespace Sys2Proof.Ty
open Sys2Proof.Machine

theorem width_pos (t : Ty) : 0 < t.width := by cases t <;> decide

/-! ### A 32-bit result is the integer mod 2^32 (03 R74) -/

theorem ofInt_wrap {t : Ty} (h : t.width = 32) (x : Int) : BitVec.ofInt 32 (t.wrap x) = BitVec.ofInt 32 x := by
  have hsub := t.wrap_sub_emod x
  rw [h] at hsub
  apply BitVec.eq_of_toNat_eq
  simp only [BitVec.toNat_ofInt]
  congr 1
  exact Int.emod_eq_emod_iff_emod_sub_eq_zero.mpr hsub

theorem lo32_result {t : Ty} (h : t.width = 32) (x : Int) : lo32 (t.result false x) = BitVec.ofInt 32 x := by
  have hhold : t.result false x = (BitVec.ofInt 32 (t.wrap x)).setWidth 64 := by simp [result, hold, h]
  rw [hhold, ofInt_wrap h, lo32_setWidth]

theorem ofInt_read {t : Ty} (h : t.width = 32) (v : DWord) : BitVec.ofInt 32 (t.read v) = lo32 v := by
  rw [read_eq_wrap, ofInt_wrap h, BitVec.ofInt_natCast, lo32_eq_setWidth]
  exact BitVec.eq_of_toNat_eq (by simp)

end Sys2Proof.Ty

namespace Sys2Proof.Machine

/-! ### Two-operand integer instructions (04 R109, Table 4-7) -/

theorem tagAdd_eq_resultTag (c : Ctx) (a b : Opd) (dst : Nat) :
    c.tagAdd a b = resultTag dst (allU c [a, b]) (affineOf 0 c a b) dst := by
  simp only [Ctx.tagAdd, resultTag, allU_pair, affineOf, opd_affine_eq]
  cases a.count c <;> cases b.count c <;> simp [Count.affine]

theorem tagSub_eq_resultTag (c : Ctx) (a b : Opd) (dst : Nat) :
    c.tagSub a b = resultTag dst (allU c [a, b]) (affineOf 1 c a b) dst := by
  simp only [Ctx.tagSub, resultTag, allU_pair, affineOf, opd_affine_eq]
  cases a.count c with
  | a _ p => cases b.count c with
    | a _ q => by_cases h : p = q <;> simp [Count.affine, h]
    | u => simp [Count.affine]
    | g => simp
  | u => cases b.count c <;> simp [Count.affine]
  | g => simp

theorem tagMul_eq_resultTag (c : Ctx) (a b : Opd) (dst : Nat) :
    c.tagMul a b = resultTag dst (allU c [a, b]) (affineOf 2 c a b) dst := by
  simp only [Ctx.tagMul, Ctx.tagAdd, resultTag, allU_pair, affineOf, opd_affine_eq]
  cases a.count c <;> cases b.count c <;> simp [Count.affine]

/-- The operation on words that affine rule `k` of R33 follows: sum, difference, product. -/
def affineWord (k : Nat) (x y : Word) : Word := if k = 0 then x + y else if k = 1 then x - y else x * y

theorem ofInt_add_word (x y : Int) : BitVec.ofInt 32 (x + y) = affineWord 0 (BitVec.ofInt 32 x) (BitVec.ofInt 32 y) :=
  BitVec.ofInt_add x y

theorem ofInt_sub_word (x y : Int) : BitVec.ofInt 32 (x - y) = affineWord 1 (BitVec.ofInt 32 x) (BitVec.ofInt 32 y) := by
  rw [Int.sub_eq_add_neg, BitVec.ofInt_add, BitVec.ofInt_neg, ← BitVec.sub_eq_add_neg]; rfl

theorem ofInt_mul_word (x y : Int) : BitVec.ofInt 32 (x * y) = affineWord 2 (BitVec.ofInt 32 x) (BitVec.ofInt 32 y) :=
  BitVec.ofInt_mul x y

/-- Affine rule `k` is that of `op`: on words it is `op` mod 2^32, and its tags are the row `tag` of Table 4-7. -/
structure AffineRule (k : Nat) (op : Int → Int → Int) (tag : Ctx → Opd → Opd → Nat) : Prop where
  word : ∀ x y, BitVec.ofInt 32 (op x y) = affineWord k (BitVec.ofInt 32 x) (BitVec.ofInt 32 y)
  tags : ∀ c a b dst, tag c a b = resultTag dst (allU c [a, b]) (affineOf k c a b) dst

theorem affineRule_add : AffineRule 0 (· + ·) Ctx.tagAdd := ⟨ofInt_add_word, tagAdd_eq_resultTag⟩
theorem affineRule_sub : AffineRule 1 (· - ·) Ctx.tagSub := ⟨ofInt_sub_word, tagSub_eq_resultTag⟩
theorem affineRule_mul : AffineRule 2 (· * ·) Ctx.tagMul := ⟨ofInt_mul_word, tagMul_eq_resultTag⟩

section
variable {s : State} {c : Ctx} {g : Nat × Bool} {i : Instr} {t : Ty} {sat : Bool} {dst : Nat} {a b : Opd} {marks : List Nat}
  {op : Int → Int → Int}

/-- Without an affine rule the operands alone decide the tag. -/
theorem int2_gives (hexec : exec i s = s.int2 g t sat dst a b marks none op) :
    Gives s c g i dst t.wide [a, b] marks (fun _ => c.tagU [a, b])
      fun k => t.result sat (op (t.read (a.val c k)) (t.read (b.val c k))) :=
  gives_of_two (val := fun x y => t.result sat (op (t.read x) (t.read y))) hexec

/-- With one, a 32-bit result without .sat follows it. -/
theorem int2_gives_affine {k : Nat} {tag : Ctx → Opd → Opd → Nat} (r : AffineRule k op tag)
    (hexec : exec i s = s.int2 g t sat dst a b marks (some k) op) :
    Gives s c g i dst t.wide [a, b] marks (fun _ => t.affine sat tag c a b)
      fun k => t.result sat (op (t.read (a.val c k)) (t.read (b.val c k))) := by
  by_cases h : t.width = 32 ∧ sat = false
  · obtain ⟨hw, rfl⟩ := h
    refine gives_of_two_affine (val := fun x y => t.result false (op (t.read x) (t.read y))) (aff := fun c => affineOf k c a b)
      ?_ hw ?_ (by simpa [Ty.affine, hw] using r.tags c a b dst)
    · simpa [State.int2, hw] using hexec
    · intro hf x p haff j hj he
      rw [affineOf_value hf haff hj he]
      simp only [Ty.lo32_result hw, r.word, Ty.ofInt_read hw, affineWord]
  · have hrule : ¬(decide (t.width = 32) && !sat) = true := by simpa using h
    simp only [Ty.affine, if_neg h]
    refine gives_of_two (val := fun x y => t.result sat (op (t.read x) (t.read y))) ?_
    simpa only [State.int2, if_neg hrule] using hexec

end

section
variable {s : State} {c : Ctx} {i : Instr} {op : Int → Int → Int}

theorem FormV.int2_gives2 {f : FormV} (h : exec i s = FormV.int2 f s none op) :
    f.gives2 s c i fun a b => f.type.result f.sat (op (f.type.read a) (f.type.read b)) := int2_gives h

theorem FormI.int2_gives2 {f : FormI} (h : exec i s = FormI.int2 f s none op) :
    f.gives2 s c i fun a b => f.type.result f.sat (op (f.type.read a) (f.type.read b)) := gives_imm (int2_gives h)

theorem FormV.int2_gives2_affine {f : FormV} {k : Nat} {tag : Ctx → Opd → Opd → Nat} (r : AffineRule k op tag)
    (h : exec i s = FormV.int2 f s (some k) op) :
    f.gives2 s c i (fun a b => f.type.result f.sat (op (f.type.read a) (f.type.read b))) (f.type.affine f.sat tag) :=
  int2_gives_affine r h

theorem FormI.int2_gives2_affine {f : FormI} {k : Nat} {tag : Ctx → Opd → Opd → Nat} (r : AffineRule k op tag)
    (h : exec i s = FormI.int2 f s (some k) op) :
    f.gives2 s c i (fun a b => f.type.result f.sat (op (f.type.read a) (f.type.read b))) (f.type.affine f.sat tag) :=
  gives_imm (int2_gives_affine r h)

/-- One source (04 R111). -/
theorem FormV.int1_gives1 {f : FormV} {op : Int → Int} (h : exec i s = FormV.int1 f s op) :
    f.gives1 s c i f.type.wide fun a => f.type.result f.sat (op (f.type.read a)) :=
  gives_of_one (val := fun a => f.type.result f.sat (op (f.type.read a))) h

end

/-- iabs gives the absolute value (04 R111). -/
theorem exec_iabs (f : FormV) (s : State) : exec (.iabs f) s = FormV.int1 f s fun a => (a.natAbs : Int) := by
  have habs (x : Int) : (if x < 0 then -x else x) = (x.natAbs : Int) := by split <;> omega
  have hexec : exec (.iabs f) s = FormV.int1 f s fun a => if a < 0 then -a else a := rfl
  simpa only [habs] using hexec

end Sys2Proof.Machine

namespace Sys2Proof.Proofs
open Sys2Proof.Machine

/-- Settles O8: each instruction is the two-operand skeleton at its operation, with its affine rule where Table 4-7 gives one. -/
theorem integerArithmetic : Obligations.IntegerArithmetic := by
  refine ⟨fun s c f g => ⟨?_, ?_, ?_, ?_, ?_, ?_, ?_, ?_, ?_, ?_, ?_, ?_⟩, fun s c f => ⟨?_, ?_, ?_, ?_⟩⟩
  · exact FormV.int2_gives2_affine affineRule_add rfl
  · exact FormI.int2_gives2_affine affineRule_add rfl
  · exact FormV.int2_gives2_affine affineRule_sub rfl
  · exact FormI.int2_gives2_affine affineRule_sub rfl
  · exact FormV.int2_gives2_affine affineRule_mul rfl
  · exact FormI.int2_gives2_affine affineRule_mul rfl
  · exact FormV.int2_gives2 (op := mulHigh f.type) rfl
  · exact FormI.int2_gives2 (op := mulHigh g.type) rfl
  · exact FormV.int2_gives2 rfl
  · exact FormI.int2_gives2 rfl
  · exact FormV.int2_gives2 rfl
  · exact FormI.int2_gives2 rfl
  · exact gives_of_three (val := fun a b d => f.type.result f.sat (f.type.read a * f.type.read b + f.type.read d)) rfl
  · exact gives_of_three (val := fun a b d => (if f.type == .i32 then Ty.i64 else .n64).result f.sat
      (f.type.read a * f.type.read b + (if f.type == .i32 then Ty.i64 else .n64).read d)) rfl
  · exact FormV.int1_gives1 (op := fun a => (a.natAbs : Int)) (exec_iabs f s)
  · exact FormV.int1_gives1 (op := fun a => -a) rfl

end Sys2Proof.Proofs

namespace Sys2Proof.Machine

/-! ### idiv and irem (04 R109) -/

/-- The effective lanes whose divisor is zero. -/
def Ctx.zeroDivisors (c : Ctx) (t : Ty) (b : Opd) : Mask := maskOf fun i => c.eff.getLsbD i && t.read (b.val c i) == 0

section
variable {s : State} {c : Ctx} {g : Nat × Bool} {i : Instr} {t : Ty} {sat : Bool} {dst : Nat} {a b : Opd} {marks : List Nat}
  {op : Int → Int → Int}

theorem zeroDivisors_bit {k : Nat} (hk : k < 32) :
    (c.zeroDivisors t b).getLsbD k = (c.eff.getLsbD k && t.read (b.val c k) == 0) := maskOf_bit hk

theorem zeroDivisors_eq_zero (h : ∀ k, k < 32 → c.eff.getLsbD k = true → t.read (b.val c k) ≠ 0) :
    c.zeroDivisors t b = 0 := by
  apply BitVec.eq_of_getLsbD_eq
  intro k hk
  rw [zeroDivisors_bit hk]
  cases he : c.eff.getLsbD k with
  | false => simp
  | true => simp [h k hk he]

theorem zeroDivisors_ne_zero {k : Nat} (hk : k < 32) (he : c.eff.getLsbD k = true) (h : t.read (b.val c k) = 0) :
    c.zeroDivisors t b ≠ 0 := by
  intro hz
  have hbit := zeroDivisors_bit (c := c) (t := t) (b := b) hk
  simp [hz, he, h] at hbit

/-- A zero immediate is the divisor of every effective lane. -/
theorem zeroDivisors_imm {v : DWord} (h : t.read v = 0) : c.zeroDivisors t (.imm v) = c.eff := by
  apply BitVec.eq_of_getLsbD_eq
  intro k hk
  simp [zeroDivisors_bit hk, Opd.val, h]

theorem intDiv_gives (hexec : exec i s = s.intDiv g t sat dst a b marks op) (h : c.zeroDivisors t b = 0) :
    Gives s c g i dst t.wide [a, b] marks (fun _ => c.tagU [a, b])
      fun k => t.result sat (op (t.read (a.val c k)) (t.read (b.val c k))) := by
  refine gives_uniform hexec (regs_pair a b) ?_ fun j k hsame => by rw [hsame a (by simp), hsame b (by simp)]
  have hno : ¬(c.zeroDivisors t b != 0) = true := by simp [h]
  exact if_neg hno

theorem intDiv_traps (hctx : s.ctx? g = some c) (hd : c.deadRead (a.regs ++ b.regs) = none)
    (h : c.zeroDivisors t b ≠ 0) :
    s.intDiv g t sat dst a b marks op = .next (s.trapHere c 0x30 ((c.zeroDivisors t b).setWidth 64)) := by
  have hsome : (c.zeroDivisors t b != 0) = true := by simpa using h
  simp only [Ctx.zeroDivisors] at hsome ⊢
  simp only [State.intDiv, State.alu, hctx, hd, if_pos hsome]

theorem FormV.intDiv_gives2 {f : FormV} (hexec : exec i s = FormV.intDiv f s op)
    (h : ∀ k, k < 32 → c.eff.getLsbD k = true → f.type.read ((f.b f.type.wide).val c k) ≠ 0) :
    f.gives2 s c i fun a b => f.type.result f.sat (op (f.type.read a) (f.type.read b)) :=
  intDiv_gives hexec (zeroDivisors_eq_zero h)

theorem FormI.intDiv_gives2 {f : FormI} (hexec : exec i s = FormI.intDiv f s op) (h : f.type.read f.immVal ≠ 0) :
    f.gives2 s c i fun a b => f.type.result f.sat (op (f.type.read a) (f.type.read b)) :=
  gives_imm (intDiv_gives hexec (zeroDivisors_eq_zero fun _ _ _ => h))

theorem FormI.intDiv_traps {f : FormI} (hctx : s.ctx? f.guard = some c) (hd : c.deadRead (f.a f.type.wide).regs = none)
    (he : c.eff ≠ 0) (h : f.type.read f.immVal = 0) :
    FormI.intDiv f s op = .next (s.trapHere c 0x30 (c.eff.setWidth 64)) := by
  have himm := zeroDivisors_imm (c := c) h
  have htrap := Machine.intDiv_traps (a := .src (f.a f.type.wide)) (b := .imm f.immVal) (sat := f.sat) (dst := f.dst.toNat)
    (marks := f.marked (f.a f.type.wide)) (op := op) hctx (by simpa [Opd.regs] using hd) (himm ▸ he)
  rw [himm] at htrap
  exact htrap

end

end Sys2Proof.Machine

namespace Sys2Proof.Proofs
open Sys2Proof.Machine

/-- Settles O9: the set of the zero divisors is empty, or it is the trap value; of a zero immediate it is the effective mask. -/
theorem integerDivision : Obligations.IntegerDivision := by
  refine ⟨fun s c f g => ⟨fun h => ⟨?_, ?_⟩, fun h => ⟨?_, ?_⟩⟩, fun s c f g => ⟨?_, fun hctx hd he h => ⟨?_, ?_⟩⟩⟩
  · exact FormV.intDiv_gives2 (op := Int.tdiv) rfl h
  · exact FormV.intDiv_gives2 (op := Int.tmod) rfl h
  · exact FormI.intDiv_gives2 (op := Int.tdiv) rfl h
  · exact FormI.intDiv_gives2 (op := Int.tmod) rfl h
  · intro k hctx hd hk he h
    have hne := zeroDivisors_ne_zero (b := .src (f.b f.type.wide)) hk he h
    exact ⟨c.zeroDivisors f.type (.src (f.b f.type.wide)), fun _ => zeroDivisors_bit, intDiv_traps hctx hd hne,
      intDiv_traps hctx hd hne⟩
  · exact FormI.intDiv_traps hctx hd he h
  · exact FormI.intDiv_traps hctx hd he h

end Sys2Proof.Proofs

namespace Sys2Proof.Machine

/-! ### Compares and sel (04 R112, R113; 05 R129) -/

section
variable {s : State} {c : Ctx} {g : Nat × Bool} {i : Instr} {a b : Opd} {marks : List Nat}

theorem compare_gives {pd : Nat} {op : DWord → DWord → Bool} (hexec : exec i s = s.compare g pd a b marks op) :
    GivesPred s c g i pd [a, b] marks fun k => op (a.val c k) (b.val c k) :=
  givesPred_alu hexec (regs_pair a b) rfl fun _ hk _ => maskOf_bit hk

theorem floatCmp_gives {t : Ty} {pd ops : Nat} (hexec : exec i s = s.floatCmp g t pd a b marks ops) :
    GivesPred s c g i pd [a, b] marks fun k => cmpF t (ops % 8) (ops.testBit 3) (t.bits (a.val c k)) (t.bits (b.val c k)) :=
  givesPred_alu hexec (regs_pair a b) rfl fun k hk he => by rw [maskOf_bit hk, he, Bool.true_and]

theorem select_gives {dst ops : Nat} {wide : Bool} (hexec : exec i s = s.select g dst wide a b marks ops) :
    Gives s c g i dst wide [a, b] marks (fun _ => 2)
      fun k => if c.w.pred (ops / 2 % 8) k != (ops % 2 == 1) then a.val c k else b.val c k :=
  gives_general (body := fun c => .ok (c.w.writeResult dst wide c.eff c.full false none
    fun k => if c.w.pred (ops / 2 % 8) k != (ops % 2 == 1) then a.val c k else b.val c k)) hexec (regs_pair a b) rfl

end

/-! ### A pair written register by register (04 R114, R115) -/

/-- Register `n` now holds `r`: its values in the effective lanes, the other living lanes as before, tagged `tag` under a full
effective mask and G under a partial one; under an empty one it is as before, tag and all (01 R33, R34). -/
structure Ctx.Holds (c : Ctx) (n : Nat) (r : VReg) (f : Nat → Word) (tag : Nat) : Prop where
  value  : ∀ i, i < 32 → c.eff.getLsbD i = true → r.lane i = f i
  kept   : ∀ i, i < 32 → c.w.living.getLsbD i = true → c.eff.getLsbD i = false → r.lane i = c.w.lane n i
  tagged : c.eff ≠ 0 → r.code = if c.full = true then tag else 2
  none   : c.eff = 0 → r = c.w.reg n

/-- A warp whose written registers hold their results, and that is as before elsewhere but for the marks. -/
theorem wrote_of_holds {c : Ctx} {v : Warp} {dsts : List (Nat × (Nat → Word))} {marks : List Nat} {tag : Nat → Nat}
    (honly : c.w.regsOnly v) (hdsts : ∀ p ∈ dsts, c.Holds p.1 (v.reg p.1) p.2 (tag p.1))
    (hrest : ∀ n, n ∉ dsts.map (·.1) → v.reg n = if c.full = true ∧ n ∈ marks then .d else c.w.reg n) :
    c.Wrote v dsts marks tag :=
  ⟨honly.1, fun p hp => (hdsts p hp).value, fun p hp => (hdsts p hp).kept, fun he p hp => (hdsts p hp).tagged he,
    fun he p hp => (hdsts p hp).none he, hrest⟩

/-- A lane that lives and is not effective makes the mask partial. -/
theorem full_eq_false {c : Ctx} {i : Nat} (hl : c.w.living.getLsbD i = true) (he : c.eff.getLsbD i = false) :
    c.full = false := by
  cases hf : c.full with
  | false => rfl
  | true =>
    simp only [Ctx.full, beq_iff_eq] at hf
    rw [hf, hl] at he
    cases he

/-- What a warp is given to write to one register: whether it counts as U, its affine value, its lanes. -/
structure RegWrite where
  uni : Bool
  aff : Option (Word × Word)
  f   : Nat → DWord

/-- The register `n` written. -/
def Ctx.writeReg (c : Ctx) (w : Warp) (n : Nat) (x : RegWrite) : Warp := w.writeResult n false c.eff c.full x.uni x.aff x.f

/-- The tag of the register written. -/
def RegWrite.tag (x : RegWrite) : Nat := if x.uni then 0 else if x.aff.isSome then 1 else 2

theorem resultTag_self (n : Nat) (x : RegWrite) : resultTag n x.uni x.aff n = x.tag := by simp [resultTag, RegWrite.tag]

/-- Under a full mask what counts as U has one value, and what counts as A has an affine one (01 R33). -/
structure Ctx.Sound (c : Ctx) (x : RegWrite) : Prop where
  uniform : c.full = true → x.uni = true → ∀ j k, j < 32 → k < 32 → c.eff.getLsbD j = true → c.eff.getLsbD k = true →
    x.f j = x.f k
  affine  : c.full = true → x.uni = false → ∀ b s, x.aff = some (b, s) → ∀ j, j < 32 → c.eff.getLsbD j = true →
    lo32 (x.f j) = b + BitVec.ofNat 32 j * s

/-- What a register holds that is written to a warp in which it is as at issue. -/
theorem writeReg_holds {c : Ctx} {w : Warp} {n : Nat} {x : RegWrite} (hreg : w.reg n = c.w.reg n) (hn : n < w.regs.length)
    (hx : c.Sound x) : c.Holds n ((c.writeReg w n x).reg n) (fun k => lo32 (x.f k)) x.tag := by
  have hdst : ∀ m ∈ dstRegs n false, m < w.regs.length := by simpa [dstRegs] using hn
  have hmem : n ∈ dstRegs n false := by simp [dstRegs]
  refine ⟨fun i hi he => writeResult_low hn hi he hx.uniform hx.affine, fun i hi hl he => ?_, fun he => ?_, fun he => ?_⟩
  · rw [Ctx.writeReg, full_eq_false hl he, Warp.lane, ← hreg]
    exact writeResult_kept hdst hmem hi he
  · rw [← resultTag_self n x]
    exact writeResult_code hdst hmem he
  · rw [← hreg]
    simp [Ctx.writeReg, Warp.writeResult, he]

theorem writeReg_regsOnly (c : Ctx) (w : Warp) (n : Nat) (x : RegWrite) : w.regsOnly (c.writeReg w n x) :=
  writeResult_regsOnly ..

theorem writeReg_reg {c : Ctx} {w : Warp} {m n : Nat} {x : RegWrite} (h : m ≠ n) : (c.writeReg w n x).reg m = w.reg m :=
  writeResult_reg (by simpa [dstRegs] using h)

/-- Two registers written one after the other, with the marks that go with them. -/
theorem writeReg_pair_wrote {c : Ctx} {dst : Nat} {x y : RegWrite} {marks : List Nat} {val : Nat → DWord} (hn : c.holds dst true)
    (hx : c.Sound x) (hy : c.Sound y) (hlo : ∀ k, lo32 (x.f k) = lo32 (val k)) (hhi : ∀ k, lo32 (y.f k) = hi32 (val k)) :
    c.Wrote ((c.writeReg (c.writeReg c.w dst x) (dst + 1) y).kill c.full marks (dstRegs dst true)) (resultOf dst true val) marks
      fun n => if n = dst then x.tag else y.tag := by
  have hne : dst ≠ dst + 1 := by omega
  have hd : dst < c.w.regs.length := hn dst (by simp [dstRegs])
  have hd1 : dst + 1 < c.w.regs.length := hn (dst + 1) (by simp [dstRegs])
  have hlow := writeReg_holds rfl hd hx
  have hhigh := writeReg_holds (w := c.writeReg c.w dst x) (writeReg_reg hne.symm)
    (by rw [(writeReg_regsOnly ..).2]; exact hd1) hy
  refine wrote_of_holds ?_ ?_ ?_
  · exact Warp.regsOnly_trans (Warp.regsOnly_trans (writeReg_regsOnly ..) (writeReg_regsOnly ..)) (kill_regsOnly ..)
  · intro p hp
    simp only [resultOf, if_true, List.mem_cons, List.not_mem_nil, or_false] at hp
    rcases hp with rfl | rfl
    · rw [kill_reg, if_neg (by simp [dstRegs]), writeReg_reg hne]
      simpa only [hlo, if_true] using hlow
    · rw [kill_reg, if_neg (by simp [dstRegs]), if_neg hne.symm]
      simpa only [hhi] using hhigh
  · intro n hnot
    obtain ⟨h0, h1⟩ : n ≠ dst ∧ n ≠ dst + 1 := by simpa [resultOf] using hnot
    rw [kill_reg, writeReg_reg h1, writeReg_reg h0]
    simp [dstRegs, h0, h1]

section
variable {s : State} {c : Ctx} {g : Nat × Bool} {i : Instr} {dst : Nat} {reads marks : List Nat} {srcs : List Opd}
  {body : Ctx → Except (Nat × DWord) Warp} {x y : RegWrite} {val : Nat → DWord} {tag : Nat → Nat}

/-- A register instruction that writes one register gives it. -/
theorem gives_of_reg (hexec : exec i s = s.alu g reads marks (dstRegs dst false) body) (hreads : reads = srcs.flatMap (·.regs))
    (hbody : body c = .ok (c.writeReg c.w dst x)) (hx : c.Sound x) (hval : ∀ k, lo32 (x.f k) = lo32 (val k))
    (htag : tag dst = x.tag) : Gives s c g i dst false srcs marks tag val := by
  refine gives_alu hexec hreads hbody (fun k _ _ => ⟨hval k, nofun⟩) hx.uniform hx.affine fun _ n hn => ?_
  obtain rfl : n = dst := by simpa [dstRegs] using hn
  rw [htag, resultTag_self]

/-- One that writes its pair register by register. -/
theorem gives_of_regs (hexec : exec i s = s.alu g reads marks (dstRegs dst true) body) (hreads : reads = srcs.flatMap (·.regs))
    (hbody : body c = .ok (c.writeReg (c.writeReg c.w dst x) (dst + 1) y)) (hx : c.Sound x) (hy : c.Sound y)
    (hlo : ∀ k, lo32 (x.f k) = lo32 (val k)) (hhi : ∀ k, lo32 (y.f k) = hi32 (val k))
    (htag : tag dst = x.tag) (htag1 : tag (dst + 1) = y.tag) : Gives s c g i dst true srcs marks tag val := by
  intro hi hn hd
  have hw := writeReg_pair_wrote (marks := marks) hn hx hy hlo hhi
  have honly := Warp.regsOnly_trans (writeReg_regsOnly c c.w dst x) (writeReg_regsOnly c _ (dst + 1) y)
  obtain ⟨huid, hlaunch, hdie, hcore, hliving, hentries, -⟩ := Warp.regsOnly_same honly
  refine ⟨_, ?_, hw.only, hw.value, hw.kept, fun he p hp => ?_, hw.none, hw.rest⟩
  · rw [hexec]
    exact alu_completes hi (hreads ▸ hd) hbody huid hlaunch hdie hcore hliving hentries
  · have htagged := hw.tagged he p hp
    simp only [resultOf, if_true, List.mem_cons, List.not_mem_nil, or_false] at hp
    rcases hp with rfl | rfl
    · simpa only [htag, if_true] using htagged
    · simpa only [htag1, if_neg (Nat.succ_ne_self dst)] using htagged

end

/-! ### mov (04 R114) -/

/-- The affine value of a count. -/
def Count.aff? : Count → Option (Word × Word)
  | .a b s => some (b, s)
  | _ => none

/-- What a counted register moved through a route writes. -/
def Ctx.moved (c : Ctx) (r : Src) : RegWrite := ⟨r.count c == .u, (r.count c).aff?, fun i => r.val c i⟩

theorem moved_tag (c : Ctx) (r : Src) : (c.moved r).tag = (r.count c).tag := by
  cases h : r.count c <;> simp [Ctx.moved, RegWrite.tag, Count.aff?, Count.tag, h]

theorem moved_sound (c : Ctx) (r : Src) : c.Sound (c.moved r) where
  uniform hf hu j k hj hk ej ek := opd_uniform (o := .src r) hf (by simpa [Ctx.moved, Opd.count] using hu) hj hk ej ek
  affine _ _ b s haff j _ _ := by
    refine src_affine ?_ j
    simp only [Ctx.moved] at haff
    cases h : r.count c <;> simp_all [Count.aff?]

theorem movReg_eq (c : Ctx) (w : Warp) (dst n : Nat) (rt : Route) (fill : Bool) :
    c.movReg w dst n rt fill = c.writeReg w dst (c.moved { n := n, rt := rt, fill := fill }) := by
  simp only [Ctx.movReg, Ctx.writeReg, Ctx.moved]
  cases Src.count { n := n, rt := rt, fill := fill } c <;> rfl

/-- A pair seen through a route is the pair of its registers seen through it. -/
theorem val_wide (c : Ctx) (n : Nat) (rt : Route) (fill : Bool) (i : Nat) :
    Src.val { n := n, wide := true, rt := rt, fill := fill } c i
      = pair64 (lo32 (Src.val { n := n, rt := rt, fill := fill } c i))
          (lo32 (Src.val { n := n + 1, rt := rt, fill := fill } c i)) := by
  have hrouted (r : Route) : routed c.w c.run r fill (fun j => c.w.pair n j) i
      = pair64 (lo32 (routed c.w c.run r fill (fun j => (c.w.lane n j).setWidth 64) i))
          (lo32 (routed c.w c.run r fill (fun j => (c.w.lane (n + 1) j).setWidth 64) i)) := by
    simp only [routed]
    repeat' split
    · simp [Warp.pair]
    · simp [Warp.pair]
    · rfl
  cases rt with
  | none => simp [Src.val, Src.own, Warp.pair]
  | rot k => exact hrouted (.rot k)
  | bc k => exact hrouted (.bc k)
  | bfly k => exact hrouted (.bfly k)
  | ix k => exact hrouted (.ix k)
  | reserved => exact hrouted .reserved

/-- mov writes each register of its destination with the counted tag of its source register. -/
theorem move_gives {s : State} {c : Ctx} {g : Nat × Bool} {i : Instr} {dst : Nat} {marks : List Nat} (a : Src)
    (hexec : exec i s = s.alu g a.regs marks (dstRegs dst a.wide) fun c =>
      .ok (if a.wide then c.movReg (c.movReg c.w dst a.n a.rt a.fill) (dst + 1) (a.n + 1) a.rt a.fill
        else c.movReg c.w dst a.n a.rt a.fill)) :
    Gives s c g i dst a.wide [.src a] marks (fun n => (countReg c a.rt a.fill (a.n + (n - dst))).tag) fun k => a.val c k := by
  obtain ⟨n, wide, rt, fill⟩ := a
  cases wide with
  | false =>
    refine gives_of_reg hexec (by simp [Opd.regs]) (congrArg Except.ok (movReg_eq ..)) (moved_sound ..) (fun _ => rfl) ?_
    simp [moved_tag, Src.count]
  | true =>
    refine gives_of_regs hexec (by simp [Opd.regs]) (x := c.moved { n := n, rt := rt, fill := fill })
      (y := c.moved { n := n + 1, rt := rt, fill := fill }) ?_ (moved_sound ..) (moved_sound ..) ?_ ?_ ?_ ?_
    · simp only [if_true, movReg_eq]
    · intro k
      simp [val_wide, Ctx.moved]
    · intro k
      simp [val_wide, Ctx.moved]
    · simp [moved_tag, Src.count]
    · simp [moved_tag, Src.count]

/-! ### movi and lea (04 R114, R115) -/

/-- An instruction without sources writes one value, U. -/
theorem constant_gives {s : State} {c : Ctx} {g : Nat × Bool} {i : Instr} {dst : Nat} {wide : Bool} {v : DWord}
    (hexec : exec i s = s.alu g [] [] (dstRegs dst wide) fun c =>
      .ok (c.w.writeResult dst wide c.eff c.full true none fun _ => v)) :
    Gives s c g i dst wide [] [] (fun _ => 0) fun _ => v := by
  refine gives_alu (f := fun _ => v) (uni := true) (aff := none) hexec rfl rfl (fun _ _ _ => ⟨rfl, fun _ => rfl⟩) ?_ ?_
    fun _ _ _ => rfl
  · intros; rfl
  · intro _ h
    cases h

/-- The affine value of a sum of a uniform word and a counted source. -/
def Count.plus (x : Word) : Count → Option (Word × Word)
  | .a b s => some (x + b, s)
  | _ => none

/-- The sum that lea gives a lane: the base and, where `off`, the offset register's word. -/
def Ctx.leaSum (c : Ctx) (base : DWord) (off : Bool) (a : Src) (k : Nat) : DWord :=
  base + if off then a.val c k &&& 0xFFFFFFFF else 0

/-- What lea writes to its low register, and to its high one. -/
def Ctx.leaLow (c : Ctx) (base : DWord) (off : Bool) (a : Src) : RegWrite :=
  ⟨!off || a.count c == .u, if off then (a.count c).plus (lo32 base) else none, c.leaSum base off a⟩
def Ctx.leaHigh (c : Ctx) (base : DWord) (off : Bool) (a : Src) : RegWrite :=
  ⟨!off || a.count c == .u, none, fun k => (hi32 (c.leaSum base off a k)).setWidth 64⟩

theorem leaSum_uniform {c : Ctx} {base : DWord} {off : Bool} {a : Src} (hf : c.full = true)
    (hu : (!off || a.count c == .u) = true) {j k : Nat} (hj : j < 32) (hk : k < 32) (ej : c.eff.getLsbD j = true)
    (ek : c.eff.getLsbD k = true) : c.leaSum base off a j = c.leaSum base off a k := by
  cases off with
  | false => simp [Ctx.leaSum]
  | true =>
    have hval : a.val c j = a.val c k := opd_uniform (o := .src a) hf (by simpa [Opd.count] using hu) hj hk ej ek
    simp only [Ctx.leaSum, hval]

theorem leaLow_sound (c : Ctx) (base : DWord) (off : Bool) (a : Src) : c.Sound (c.leaLow base off a) where
  uniform hf hu _ _ hj hk ej ek := leaSum_uniform hf hu hj hk ej ek
  affine _ hno b s haff j _ _ := by
    simp only [Ctx.leaLow, Ctx.leaSum] at haff hno ⊢
    cases off with
    | false => cases hno
    | true =>
      cases h : a.count c with
      | u => simp [h, Count.plus] at haff
      | g => simp [h, Count.plus] at haff
      | a b' s' =>
        obtain ⟨rfl, rfl⟩ : lo32 base + b' = b ∧ s' = s := by simpa [h, Count.plus] using haff
        rw [if_pos rfl, lo32_add, lo32_and_mask, src_affine h, BitVec.add_assoc]

theorem leaHigh_sound (c : Ctx) (base : DWord) (off : Bool) (a : Src) : c.Sound (c.leaHigh base off a) where
  uniform hf hu j k hj hk ej ek := by simp only [Ctx.leaHigh, leaSum_uniform hf hu hj hk ej ek]
  affine _ _ _ _ h := by cases h

theorem leaLow_tag (c : Ctx) (base : DWord) (off : Bool) (a : Src) :
    (c.leaLow base off a).tag = if off then (a.count c).tag else 0 := by
  cases off with
  | false => simp [Ctx.leaLow, RegWrite.tag]
  | true => cases h : a.count c <;> simp [Ctx.leaLow, RegWrite.tag, Count.plus, Count.tag, h]

theorem leaHigh_tag (c : Ctx) (base : DWord) (off : Bool) (a : Src) :
    (c.leaHigh base off a).tag = if (if off then (a.count c).tag else 0) = 0 then 0 else 2 := by
  cases off with
  | false => simp [Ctx.leaHigh, RegWrite.tag]
  | true => cases h : a.count c <;> simp [Ctx.leaHigh, RegWrite.tag, Count.tag, h]

/-- lea's address before the offset: its line's, and the displacement. -/
def Ctx.leaBase (c : Ctx) (imm : Word) : DWord := BitVec.ofNat 64 (c.pc.toNat / 64 * 64) + imm.signExtend 64

/-- lea writes its pair register by register. -/
theorem exec_lea (f : FormI) (s : State) :
    let off := f.ops.toNat % 2 == 1; let a := f.a false
    exec (.lea f) s = s.alu f.guard (if off then a.regs else []) (if off then f.marked a else [])
      (dstRegs f.dst.toNat true) fun c => .ok (c.writeReg (c.writeReg c.w f.dst.toNat (c.leaLow (c.leaBase f.imm) off a))
        (f.dst.toNat + 1) (c.leaHigh (c.leaBase f.imm) off a)) := rfl

theorem lea_gives (s : State) (c : Ctx) (f : FormI) (off : Bool) (hoff : (f.ops.toNat % 2 == 1) = off) :
    Gives s c f.guard (.lea f) f.dst.toNat true (if off then [.src (f.a false)] else [])
      (if off then f.marked (f.a false) else [])
      (fun n => if n = f.dst.toNat then if off then ((f.a false).count c).tag else 0
        else if (if off then ((f.a false).count c).tag else 0) = 0 then 0 else 2)
      (c.leaSum (c.leaBase f.imm) off (f.a false)) := by
  subst hoff
  refine gives_of_regs (exec_lea f s) ?_ rfl (leaLow_sound ..) (leaHigh_sound ..) (fun _ => rfl) ?_ ?_ ?_
  · split <;> simp [Opd.regs]
  · exact fun k => lo32_setWidth _
  · rw [leaLow_tag, if_pos rfl]
  · rw [leaHigh_tag, if_neg (Nat.succ_ne_self _)]

end Sys2Proof.Machine

namespace Sys2Proof.Proofs
open Sys2Proof.Machine

/-- Settles O11: the compares set the bits of their lanes; the moves write what they count, mov and lea register by register. -/
theorem comparesAndMoves : Obligations.ComparesAndMoves := by
  refine ⟨fun s c f g => ⟨?_, ?_, ?_, ?_⟩, fun s c f g => ⟨?_, ?_, ?_, ?_, ?_⟩⟩
  · exact compare_gives (op := fun x y => cmpInt (f.opsAt 86 84) (f.type.read x) (f.type.read y)) rfl
  · exact givesPred_imm (compare_gives (op := fun x y => cmpInt (g.opsAt 86 84) (g.type.read x) (g.type.read y)) rfl)
  · exact floatCmp_gives rfl
  · exact givesPred_imm (floatCmp_gives rfl)
  · exact select_gives rfl
  · exact gives_imm (select_gives rfl)
  · exact move_gives (f.a f.type.wide) rfl
  · exact constant_gives rfl
  · exact lea_gives s c g _ rfl

end Sys2Proof.Proofs

namespace Sys2Proof.Machine

/-! ### The bitwise instructions (04 R116) -/

theorem natOf_lt (t : Ty) (v : DWord) : natOf t v < 2 ^ t.width := Nat.mod_lt _ (Nat.two_pow_pos _)

/-- The complement over a width flips each of its bits. -/
theorem notNat_eq_xor {t : Ty} {b : Nat} (hb : b < 2 ^ t.width) : notNat t b = (2 ^ t.width - 1) ^^^ b := by
  apply Nat.eq_of_testBit_eq
  intro k
  rw [notNat, Nat.sub_sub, Nat.add_comm 1 b, Nat.testBit_two_pow_sub_succ hb, Nat.testBit_xor, Nat.testBit_two_pow_sub_one]
  by_cases hk : k < t.width
  · simp [hk]
  · simp [hk, Nat.testBit_lt_two_pow (Nat.lt_of_lt_of_le hb (Nat.pow_le_pow_right (by decide) (Nat.le_of_not_lt hk)))]

/-- An operation on numbers of `w` bits gives one of `w` bits. -/
def StaysWithin (w : Nat) (op : Nat → Nat → Nat) : Prop := ∀ x y, x < 2 ^ w → y < 2 ^ w → op x y < 2 ^ w

theorem and_staysWithin (w : Nat) : StaysWithin w (· &&& ·) := fun x _ _ hy => Nat.and_lt_two_pow x hy
theorem or_staysWithin (w : Nat) : StaysWithin w (· ||| ·) := fun _ _ hx hy => Nat.or_lt_two_pow hx hy
theorem xor_staysWithin (w : Nat) : StaysWithin w (· ^^^ ·) := fun _ _ hx hy => Nat.xor_lt_two_pow hx hy

theorem notNat_lt (t : Ty) (b : Nat) : notNat t b < 2 ^ t.width := by
  have hpos := Nat.two_pow_pos t.width
  simp only [notNat]
  omega

/-- So does the same operation with its second operand complemented. -/
theorem StaysWithin.complement {t : Ty} {op : Nat → Nat → Nat} (h : StaysWithin t.width op) :
    StaysWithin t.width fun a b => op a (notNat t b) := fun _ y hx _ => h _ _ hx (notNat_lt t y)

section
variable {s : State} {c : Ctx} {g : Nat × Bool} {i : Instr} {t : Ty} {dst : Nat} {a b : Opd} {marks : List Nat}

/-- The value of an operation on w-bit operands that stays within w bits. -/
theorem nat2_gives {op : Nat → Nat → Nat} (hexec : exec i s = s.nat2 g t dst a b marks op)
    (hop : StaysWithin t.width op) :
    Gives s c g i dst t.wide [a, b] marks (fun _ => c.tagU [a, b])
      fun k => BitVec.ofNat 64 (op (natOf t (a.val c k)) (natOf t (b.val c k))) := by
  have h := gives_of_two (c := c) (val := fun x y => BitVec.ofNat 64 (op (natOf t x) (natOf t y) % 2 ^ t.width)) hexec
  simpa only [Nat.mod_eq_of_lt (hop _ _ (natOf_lt t _) (natOf_lt t _))] using h

theorem FormV.nat2_gives2 {f : FormV} {op : Nat → Nat → Nat} (hexec : exec i s = FormV.nat2 f s op)
    (hop : StaysWithin f.type.width op) :
    f.gives2 s c i fun a b => BitVec.ofNat 64 (op (natOf f.type a) (natOf f.type b)) := nat2_gives hexec hop

theorem FormI.nat2_gives2 {f : FormI} {op : Nat → Nat → Nat} (hexec : exec i s = FormI.nat2 f s op)
    (hop : StaysWithin f.type.width op) :
    f.gives2 s c i fun a b => BitVec.ofNat 64 (op (natOf f.type a) (natOf f.type b)) := gives_imm (nat2_gives hexec hop)

end

end Sys2Proof.Machine

namespace Sys2Proof.Proofs
open Sys2Proof.Machine

/-- Settles O12: the operations stay within the width, and the complement over it flips each bit. -/
theorem bitwise : Obligations.Bitwise := by
  intro s c f g n ones out
  have hnot (t : Ty) (v : DWord) : ones t ^^^ n t v = notNat t (natOf t v) := (notNat_eq_xor (natOf_lt t v)).symm
  simp only [hnot]
  refine ⟨?_, ?_, ?_, ?_, ?_, ?_, ?_, ?_, ?_, ?_⟩
  · exact FormV.nat2_gives2 rfl (and_staysWithin _)
  · exact FormI.nat2_gives2 rfl (and_staysWithin _)
  · exact FormV.nat2_gives2 rfl (or_staysWithin _)
  · exact FormI.nat2_gives2 rfl (or_staysWithin _)
  · exact FormV.nat2_gives2 rfl (xor_staysWithin _)
  · exact FormI.nat2_gives2 rfl (xor_staysWithin _)
  · exact FormV.nat2_gives2 rfl (and_staysWithin _).complement
  · exact FormI.nat2_gives2 rfl (and_staysWithin _).complement
  · exact FormV.nat2_gives2 rfl (or_staysWithin _).complement
  · exact FormI.nat2_gives2 rfl (or_staysWithin _).complement

end Sys2Proof.Proofs

namespace Sys2Proof.Machine

/-! ### Instructions with a control operand (04 R108, Table 4-7) -/

theorem shlAffine_of_ne {t : Ty} {a b : Opd} {c : Ctx} (h : t.width ≠ 32) : shlAffine t a b c = none := by
  unfold shlAffine
  split
  · contradiction
  · rfl

theorem tagShl_eq_resultTag {t : Ty} (hw : t.width = 32) (c : Ctx) (a b : Opd) (dst : Nat) :
    c.tagShl a b = resultTag dst (allU c [a, b]) (shlAffine t a b c) dst := by
  simp only [Ctx.tagShl, resultTag, allU_pair, shlAffine, hw]
  cases a.count c <;> cases b.count c <;> simp

theorem ofNat_shlNat (x : Word) (n : Nat) : BitVec.ofNat 32 (shlNat 32 x.toNat n) = x <<< n := by
  by_cases hn : n ≥ 32
  · rw [shlNat, if_pos hn, BitVec.shiftLeft_eq_zero hn]
  · rw [shlNat, if_neg hn]
    apply BitVec.eq_of_toNat_eq
    simp [Nat.shiftLeft_eq]

theorem lo32_shlNat {t : Ty} (hw : t.width = 32) (x : DWord) (n : Nat) :
    lo32 (BitVec.ofNat 64 (shlNat t.width (natOf t x) n % 2 ^ t.width)) = lo32 x <<< n := by
  rw [← ofNat_shlNat, toNat_lo32, natOf, hw]
  apply BitVec.eq_of_toNat_eq
  simp [toNat_lo32]

/-- The affine rule of R33 for a shift by a uniform count gives the values of the shift. -/
theorem shlAffine_value {c : Ctx} {t : Ty} {a b : Opd} {x p : Word} (hf : c.full = true)
    (h : shlAffine t a b c = some (x, p)) {j : Nat} (hj : j < 32) (he : c.eff.getLsbD j = true) :
    x + BitVec.ofNat 32 j * p = lo32 (a.val c j) <<< (lo32 (b.val c j)).toNat := by
  obtain ⟨hl, hle⟩ := low_eff hj he
  unfold shlAffine at h
  split at h
  · rename_i y q _ ha hb
    cases h
    rw [opd_uniform hf hb hl hj hle he, opd_affine ha, ← toNat_lo32, ofNat_shlNat, ofNat_shlNat,
      BitVec.shiftLeft_add_distrib]
    simp only [BitVec.shiftLeft_eq_mul_twoPow, BitVec.mul_assoc]
  · cases h

section
variable {s : State} {c : Ctx} {g : Nat × Bool} {i : Instr} {t : Ty} {dst : Nat} {a b : Opd} {marks : List Nat}
  {op : Nat → Nat → Nat} {val : DWord → Nat → DWord}

/-- Without an affine rule the operands alone decide the tag. -/
theorem control_gives (hval : ∀ v n, BitVec.ofNat 64 (op (natOf t v) n % 2 ^ t.width) = val v n)
    (hexec : exec i s = s.control g t dst a b marks (noAffine a b) op) :
    Gives s c g i dst t.wide [a, b] marks (fun _ => c.tagU [a, b]) fun k => val (a.val c k) (lo32 (b.val c k)).toNat := by
  have h := gives_of_two (c := c)
    (val := fun x y => BitVec.ofNat 64 (op (natOf t x) (y.toNat % 2 ^ 32) % 2 ^ t.width)) hexec
  exact gives_val_congr (fun k => by rw [hval, toNat_lo32]) h

/-- shl has one at 32 bits. -/
theorem shl_gives (hval : ∀ v n, BitVec.ofNat 64 (shlNat t.width (natOf t v) n % 2 ^ t.width) = val v n)
    (hexec : exec i s = s.control g t dst a b marks (shlAffine t a b) (shlNat t.width)) :
    Gives s c g i dst t.wide [a, b] marks (fun _ => t.affine false Ctx.tagShl c a b)
      fun k => val (a.val c k) (lo32 (b.val c k)).toNat := by
  by_cases hw : t.width = 32
  · have h := gives_of_two_affine (c := c) (tag := c.tagShl a b)
      (val := fun x y => BitVec.ofNat 64 (shlNat t.width (natOf t x) (y.toNat % 2 ^ 32) % 2 ^ t.width)) hexec hw
      (fun hf x p haff j hj he => by rw [shlAffine_value hf haff hj he, ← toNat_lo32, lo32_shlNat hw])
      (tagShl_eq_resultTag hw ..)
    simp only [Ty.affine, hw, and_self, if_true]
    exact gives_val_congr (fun k => by rw [hval, toNat_lo32]) h
  · have hnone : shlAffine t a b = noAffine a b := funext fun _ => shlAffine_of_ne hw
    simp only [Ty.affine, hw, false_and, if_false]
    exact control_gives hval (hnone ▸ hexec)

/-- The control of format I is the immediate as it stands. -/
theorem FormI.givesCtl_of_word {f : FormI} {tag : Ctx → Opd → Opd → Nat}
    (h : Gives s c f.guard i f.dst.toNat f.type.wide [.src (f.a f.type.wide), .imm (f.imm.setWidth 64)]
      (f.marked (f.a f.type.wide)) (fun _ => tag c (.src (f.a f.type.wide)) (.imm (f.imm.setWidth 64)))
      fun k => val ((f.a f.type.wide).val c k) (lo32 (f.imm.setWidth 64)).toNat) : f.givesCtl s c i val tag :=
  gives_val_congr (fun k => by rw [lo32_setWidth]) (gives_imm h)

theorem FormV.control_givesCtl {f : FormV} (hval : ∀ v n, BitVec.ofNat 64 (op (natOf f.type v) n % 2 ^ f.type.width) = val v n)
    (hexec : exec i s = FormV.control f s noAffine op) : f.givesCtl s c i val := control_gives hval hexec

theorem FormI.control_givesCtl {f : FormI} (hval : ∀ v n, BitVec.ofNat 64 (op (natOf f.type v) n % 2 ^ f.type.width) = val v n)
    (hexec : exec i s = FormI.control f s noAffine op) : f.givesCtl s c i val :=
  FormI.givesCtl_of_word (control_gives hval hexec)

end

/-! ### Shifts and rotates over w bits (04 R117) -/

theorem shlNat_mod (w a n : Nat) : shlNat w a n % 2 ^ w = if n ≥ w then 0 else a * 2 ^ n % 2 ^ w := by
  simp only [shlNat]
  split
  · exact Nat.zero_mod _
  · exact Nat.mod_mod _ _

theorem shrNat_mod {w a : Nat} (ha : a < 2 ^ w) (n : Nat) : shrNat w a n % 2 ^ w = if n ≥ w then 0 else a / 2 ^ n := by
  simp only [shrNat]
  split
  · exact Nat.zero_mod _
  · exact Nat.mod_eq_of_lt (Nat.lt_of_le_of_lt (Nat.div_le_self ..) ha)

/-- Shifted right by its whole width, a signed number leaves its sign. -/
theorem ediv_two_pow_sign {x : Int} {w : Nat} (hlo : -2 ^ w ≤ x) (hhi : x < 2 ^ w) : x / 2 ^ w = if x < 0 then -1 else 0 := by
  have hpos : (0 : Int) < 2 ^ w := Ty.two_pow_pos w
  split
  · rename_i hneg
    apply Int.le_antisymm
    · have := Int.ediv_neg_of_neg_of_pos hneg hpos
      omega
    · rw [Int.le_ediv_iff_mul_le hpos]
      omega
  · rename_i hge
    exact Int.ediv_eq_zero_of_lt (by omega) hhi

/-- A natural number of `w` bits read as a signed one. -/
def signedNat (w a : Nat) : Int := if a ≥ 2 ^ (w - 1) then (a : Int) - 2 ^ w else a

theorem signedNat_bounds {w a : Nat} (ha : a < 2 ^ w) : -2 ^ w ≤ signedNat w a ∧ signedNat w a < 2 ^ w := by
  have hcast : (a : Int) < 2 ^ w := by exact_mod_cast ha
  simp only [signedNat]
  split <;> constructor <;> omega

theorem sarNat_mod {w a : Nat} (ha : a < 2 ^ w) (n : Nat) :
    sarNat w a n % 2 ^ w
      = ((if n ≥ w then (if signedNat w a < 0 then -1 else 0) else signedNat w a / 2 ^ n) % 2 ^ w).toNat := by
  obtain ⟨hlo, hhi⟩ := signedNat_bounds ha
  have hshift : signedNat w a / 2 ^ min n w
      = if n ≥ w then (if signedNat w a < 0 then -1 else 0) else signedNat w a / 2 ^ n := by
    split
    · rename_i hn
      rw [Nat.min_eq_right hn, ediv_two_pow_sign hlo hhi]
    · rename_i hn
      rw [Nat.min_eq_left (by omega)]
  have hsar : sarNat w a n = (signedNat w a / 2 ^ min n w % 2 ^ w).toNat := rfl
  rw [hsar, hshift, Nat.mod_eq_of_lt]
  rw [Int.toNat_lt' (Nat.two_pow_pos w)]
  exact_mod_cast Int.emod_lt_of_pos _ (Ty.two_pow_pos w)

/-- What a rotation shifts out at the top comes in at the bottom, where nothing else stands. -/
theorem rotate_mod {w a k : Nat} (hk : k ≤ w) (ha : a < 2 ^ w) :
    (a * 2 ^ k + a / 2 ^ (w - k)) % 2 ^ w = a * 2 ^ k % 2 ^ w + a / 2 ^ (w - k) := by
  have hsplit : 2 ^ w = 2 ^ k * 2 ^ (w - k) := by rw [← Nat.pow_add, Nat.add_sub_cancel' hk]
  have hout : a / 2 ^ (w - k) < 2 ^ k := Nat.div_lt_of_lt_mul (by rwa [Nat.mul_comm, ← hsplit])
  have hkept : a * 2 ^ k % 2 ^ w = 2 ^ k * (a % 2 ^ (w - k)) := by
    rw [hsplit, Nat.mul_comm a, Nat.mul_mod_mul_left]
  have hroom : 2 ^ k * (a % 2 ^ (w - k)) + 2 ^ k ≤ 2 ^ w := by
    rw [hsplit, ← Nat.mul_succ]
    exact Nat.mul_le_mul_left _ (Nat.mod_lt _ (Nat.two_pow_pos _))
  rw [← Nat.mod_add_mod, Nat.mod_eq_of_lt]
  omega

theorem rolNat_mod {w a : Nat} (hw : 0 < w) (ha : a < 2 ^ w) (n : Nat) :
    rolNat w a n % 2 ^ w = a * 2 ^ (n % w) % 2 ^ w + a / 2 ^ (w - n % w) := by
  simp only [rolNat, Nat.mod_mod]
  exact rotate_mod (Nat.le_of_lt (Nat.mod_lt n hw)) ha

theorem rorNat_mod {w a : Nat} (hw : 0 < w) (ha : a < 2 ^ w) (n : Nat) :
    rorNat w a n % 2 ^ w = a / 2 ^ (n % w) + a * 2 ^ (w - n % w) % 2 ^ w := by
  have hk : n % w ≤ w := Nat.le_of_lt (Nat.mod_lt n hw)
  have h := rotate_mod (Nat.sub_le w (n % w)) ha
  rw [Nat.sub_sub_self hk] at h
  simp only [rorNat, Nat.mod_mod]
  rw [Nat.add_comm, h, Nat.add_comm]

end Sys2Proof.Machine

namespace Sys2Proof.Proofs
open Sys2Proof.Machine

/-- Settles O13: each shift over w bits is the model's, and shl of an affine register by a uniform count is affine. -/
theorem shifts : Obligations.Shifts := by
  intro s c f g n shl shr signed sar rol ror
  have hshl (t : Ty) (v : DWord) (k : Nat) : BitVec.ofNat 64 (shlNat t.width (natOf t v) k % 2 ^ t.width) = shl t v k :=
    congrArg _ (shlNat_mod ..)
  have hshr (t : Ty) (v : DWord) (k : Nat) : BitVec.ofNat 64 (shrNat t.width (natOf t v) k % 2 ^ t.width) = shr t v k :=
    congrArg _ (shrNat_mod (natOf_lt t v) k)
  have hsar (t : Ty) (v : DWord) (k : Nat) : BitVec.ofNat 64 (sarNat t.width (natOf t v) k % 2 ^ t.width) = sar t v k :=
    congrArg _ (sarNat_mod (natOf_lt t v) k)
  have hrol (t : Ty) (v : DWord) (k : Nat) : BitVec.ofNat 64 (rolNat t.width (natOf t v) k % 2 ^ t.width) = rol t v k :=
    congrArg _ (rolNat_mod (t.width_pos) (natOf_lt t v) k)
  have hror (t : Ty) (v : DWord) (k : Nat) : BitVec.ofNat 64 (rorNat t.width (natOf t v) k % 2 ^ t.width) = ror t v k :=
    congrArg _ (rorNat_mod (t.width_pos) (natOf_lt t v) k)
  refine ⟨?_, ?_, ?_, ?_, ?_, ?_, ?_, ?_, ?_, ?_⟩
  · exact shl_gives (hshl _) rfl
  · exact FormI.givesCtl_of_word (shl_gives (hshl _) rfl)
  · exact FormV.control_givesCtl (hshr _) rfl
  · exact FormI.control_givesCtl (hshr _) rfl
  · exact FormV.control_givesCtl (hsar _) rfl
  · exact FormI.control_givesCtl (hsar _) rfl
  · exact FormV.control_givesCtl (hrol _) rfl
  · exact FormI.control_givesCtl (hrol _) rfl
  · exact FormV.control_givesCtl (hror _) rfl
  · exact FormI.control_givesCtl (hror _) rfl

end Sys2Proof.Proofs

namespace Sys2Proof.Machine

/-! ### Counts, bit fields and prmb (04 R118 to R120) -/

section
variable {s : State} {c : Ctx} {i : Instr}

theorem FormV.count1_gives1 {f : FormV} {wide : Bool} {op : Nat → Nat → Nat} (hexec : exec i s = FormV.count1 f s wide op) :
    f.gives1 s c i wide fun a => BitVec.ofNat 64 (op f.type.width (natOf f.type a)) :=
  gives_of_one (val := fun a => BitVec.ofNat 64 (op f.type.width (natOf f.type a))) hexec

/-- A bit field mod 2^w is the word that holds it. -/
theorem ofNat_bfeOp (t : Ty) (a ctl : Nat) :
    BitVec.ofNat 64 (bfeOp t a ctl % 2 ^ t.width) = BitVec.ofInt 64 (bfeNat t a ctl % 2 ^ t.width) := by
  have hpos : (0 : Int) < 2 ^ t.width := Ty.two_pow_pos t.width
  have hcast : ((bfeOp t a ctl : Nat) : Int) = bfeNat t a ctl % 2 ^ t.width :=
    Int.toNat_of_nonneg (Int.emod_nonneg _ (by omega))
  have hlt : bfeOp t a ctl < 2 ^ t.width := by
    have h := Int.emod_lt_of_pos (bfeNat t a ctl) hpos
    rw [← hcast] at h
    exact_mod_cast h
  rw [Nat.mod_eq_of_lt hlt, ← hcast, BitVec.ofInt_natCast]

/-- An immediate counts as U. -/
theorem tagU_imm (c : Ctx) (a old : Opd) (v : DWord) : c.tagU [a, .imm v, old] = c.tagU [a, old] := by
  simp [Ctx.tagU, Opd.count]

/-- bfi reads its destination unrouted, beside its operand and its control. -/
theorem bfi_gives {g : Nat × Bool} {t : Ty} {dst : Nat} {a b : Opd} {marks : List Nat}
    (hexec : exec i s = s.bfi g t dst a b marks) :
    let old : Src := { n := dst, wide := t.wide }
    Gives s c g i dst t.wide [a, b, .src old] marks (fun _ => c.tagU [a, b, .src old]) fun k =>
      BitVec.ofNat 64 (bfiNat t (natOf t (a.val c k)) (natOf t (old.val c k)) (lo32 (b.val c k)).toNat) := by
  intro old
  have h := gives_of_three (c := c) (d := .src old)
    (val := fun x y z => BitVec.ofNat 64 (bfiNat t (natOf t x) (natOf t z) (y.toNat % 2 ^ 32))) hexec
  exact gives_val_congr (fun k => by rw [toNat_lo32]; rfl) h

end

end Sys2Proof.Machine

namespace Sys2Proof.Proofs
open Sys2Proof.Machine

/-- Settles O14: the counts by the skeleton of one source, the fields by the one with a control, bfi with its destination. -/
theorem bitFields : Obligations.BitFields := by
  intro s c f g n
  refine ⟨?_, ?_, ?_, ?_, ?_, ?_, ?_, ?_, ?_, ?_⟩
  · exact FormV.count1_gives1 rfl
  · exact FormV.count1_gives1 rfl
  · exact FormV.count1_gives1 rfl
  · exact FormV.count1_gives1 rfl
  · exact FormV.control_givesCtl (fun v => ofNat_bfeOp f.type (natOf f.type v)) rfl
  · exact FormI.control_givesCtl (fun v => ofNat_bfeOp g.type (natOf g.type v)) rfl
  · exact bfi_gives rfl
  · have h := bfi_gives (s := s) (c := c) (i := .bfiI g) (g := g.guard) (t := g.type) (dst := g.dst.toNat)
      (a := .src (g.a g.type.wide)) (b := .imm (g.imm.setWidth 64)) (marks := g.marked (g.a g.type.wide)) rfl
    simp only [tagU_imm] at h
    exact gives_val_congr (fun k => by simp only [Opd.val, lo32_setWidth]; rfl) h
  · exact FormV.control_givesCtl (fun _ _ => rfl) rfl
  · exact FormI.control_givesCtl (fun _ _ => rfl) rfl

end Sys2Proof.Proofs

/-! SUPPORT. The proofs of family 05, floating point and bit planes: float arithmetic (05 R126 to R131), conversions and special
functions (05 R133 to R138), plane words and exponents (05 R143 to R148). -/

namespace Sys2Proof.Machine

/-! ### The skeletons of class 0x4 (05 R131) -/

section
variable {s : State} {c : Ctx} {i : Instr}

theorem float2_gives {g : Nat × Bool} {t : Ty} {dst : Nat} {a b : Opd} {marks : List Nat} {op : Nat → Nat → Nat}
    (hexec : exec i s = s.float2 g t dst a b marks op) :
    Gives s c g i dst t.wide [a, b] marks (fun _ => c.tagU [a, b])
      fun k => BitVec.ofNat 64 (op (t.bits (a.val c k)) (t.bits (b.val c k))) :=
  gives_of_two (val := fun x y => BitVec.ofNat 64 (op (t.bits x) (t.bits y))) hexec

theorem FormV.float2_gives2 {f : FormV} {op : Nat → Nat → Nat} (hexec : exec i s = FormV.float2 f s op) :
    f.gives2 s c i fun a b => BitVec.ofNat 64 (op (f.type.bits a) (f.type.bits b)) := float2_gives hexec

theorem FormI.float2_gives2 {f : FormI} {op : Nat → Nat → Nat} (hexec : exec i s = FormI.float2 f s op) :
    f.gives2 s c i fun a b => BitVec.ofNat 64 (op (f.type.bits a) (f.type.bits b)) := gives_imm (float2_gives hexec)

theorem FormV.float1_gives1 {f : FormV} {wide : Bool} {op : Nat → Nat} (hexec : exec i s = FormV.float1 f s wide op) :
    f.gives1 s c i wide fun a => BitVec.ofNat 64 (op (f.type.bits a)) :=
  gives_of_one (val := fun a => BitVec.ofNat 64 (op (f.type.bits a))) hexec

end

end Sys2Proof.Machine

namespace Sys2Proof.Proofs
open Sys2Proof.Machine

/-- Settles O15: each instruction is the skeleton of its sources at its operation on bit patterns. -/
theorem floatArithmetic : Obligations.FloatArithmetic := by
  refine ⟨fun s c f g => ⟨?_, ?_, ?_, ?_, ?_, ?_, ?_, ?_, ?_, ?_, ?_, ?_, ?_, ?_⟩, fun s c f => ⟨?_, ?_, ?_, ?_⟩⟩
  · exact FormV.float2_gives2 (op := arithF f.type (FormV.mode f) (addF (FormV.mode f))) rfl
  · exact FormI.float2_gives2 (op := arithF g.type (FormI.mode g) (addF (FormI.mode g))) rfl
  · exact FormV.float2_gives2 (op := arithF f.type (FormV.mode f) fun a b => addF (FormV.mode f) a (negF b)) rfl
  · exact FormI.float2_gives2 (op := arithF g.type (FormI.mode g) fun a b => addF (FormI.mode g) a (negF b)) rfl
  · exact FormV.float2_gives2 (op := arithF f.type (FormV.mode f) mulF) rfl
  · exact FormI.float2_gives2 (op := arithF g.type (FormI.mode g) mulF) rfl
  · exact FormV.float2_gives2 (op := pickF f.type false false) rfl
  · exact FormI.float2_gives2 (op := pickF g.type false false) rfl
  · exact FormV.float2_gives2 (op := pickF f.type true false) rfl
  · exact FormI.float2_gives2 (op := pickF g.type true false) rfl
  · exact FormV.float2_gives2 (op := pickF f.type false true) rfl
  · exact FormI.float2_gives2 (op := pickF g.type false true) rfl
  · exact FormV.float2_gives2 (op := pickF f.type true true) rfl
  · exact FormI.float2_gives2 (op := pickF g.type true true) rfl
  · exact gives_of_three (val := fun a b d => BitVec.ofNat 64 (encodeF f.type (FormV.mode f) (addF (FormV.mode f)
      (mulF (decodeF f.type (f.type.bits a)) (decodeF f.type (f.type.bits b))) (decodeF f.type (f.type.bits d))))) rfl
  · exact FormV.float1_gives1 (op := f.type.mag) rfl
  · exact FormV.float1_gives1 (op := fun a => f.type.withSign (!f.type.neg a) (f.type.mag a)) rfl
  · exact FormV.float1_gives1 (op := fun a => 2 ^ classF f.type a) rfl

end Sys2Proof.Proofs

namespace Sys2Proof.Machine

/-! ### Conversions (05 R133 to R136) -/

/-- What fcvt places in its destination register of the source `x` and the old value `o` (05 R133, R134). -/
def FormV.placed (f : FormV) (x o : Nat) : Nat :=
  let y := cvtBits f.type f.stype (FormV.mode f) f.sat ((if f.opsAt 90 90 = 1 then x / 2 ^ 16 else x) % 2 ^ f.stype.width)
  if f.opsAt 89 88 = 1 then o / 2 ^ 16 * 2 ^ 16 + y else if f.opsAt 89 88 = 2 then y * 2 ^ 16 + o % 2 ^ 16 else y

/-- The source operands of fcvt: its destination too where the result fills one half. -/
def FormV.cvtOpds (f : FormV) : List Opd :=
  .src (f.a f.stype.wide) :: if f.opsAt 89 88 == 1 || f.opsAt 89 88 == 2 then [.src { n := f.dst.toNat }] else []

theorem FormV.cvtOpds_eq (f : FormV) : FormV.cvtOpds f =
    if f.opsAt 89 88 == 1 || f.opsAt 89 88 == 2 then [.src (f.a f.stype.wide), .src { n := f.dst.toNat }]
    else [.src (f.a f.stype.wide)] := by
  simp only [FormV.cvtOpds]
  split <;> rfl

/-- A result that fills its register does not look at the old value. -/
theorem FormV.placed_whole {f : FormV} (h : ¬(f.opsAt 89 88 == 1 || f.opsAt 89 88 == 2) = true) (x o p : Nat) :
    FormV.placed f x o = FormV.placed f x p := by
  simp only [Bool.or_eq_true, beq_iff_eq, not_or] at h
  obtain ⟨hlow, hhigh⟩ := h
  simp only [FormV.placed, if_neg hlow, if_neg hhigh]

theorem exec_fcvt (f : FormV) (s : State) : exec (.fcvt f) s =
    s.alu f.guard ((FormV.cvtOpds f).flatMap (·.regs)) (f.marked [(0, f.a f.stype.wide)])
        (dstRegs f.dst.toNat f.type.wide) fun c =>
      .ok (c.w.writeResult f.dst.toNat f.type.wide c.eff c.full (allU c (FormV.cvtOpds f)) none fun k =>
        BitVec.ofNat 64 (FormV.placed f ((f.a f.stype.wide).val c k).toNat (Src.val { n := f.dst.toNat } c k).toNat)) := by
  have hregs : (FormV.cvtOpds f).flatMap (·.regs) = (f.a f.stype.wide).regs ++
      if f.opsAt 89 88 == 1 || f.opsAt 89 88 == 2 then Src.regs { n := f.dst.toNat } else [] := by
    simp only [FormV.cvtOpds, List.flatMap_cons, Opd.regs]
    split <;> simp
  rw [hregs]
  simp only [FormV.placed, ← beq_iff_eq (a := f.opsAt 90 90)]
  rfl

theorem fcvt_gives {s : State} {c : Ctx} (f : FormV) :
    Gives s c f.guard (.fcvt f) f.dst.toNat f.type.wide (FormV.cvtOpds f) (f.marked [(0, f.a f.stype.wide)])
      (fun _ => c.tagU (FormV.cvtOpds f)) fun k =>
        BitVec.ofNat 64 (FormV.placed f ((f.a f.stype.wide).val c k).toNat (Src.val { n := f.dst.toNat } c k).toNat) := by
  refine gives_uniform (exec_fcvt f s) rfl rfl fun j k hsame => ?_
  have hsrc : (f.a f.stype.wide).val c j = (f.a f.stype.wide).val c k := hsame (.src (f.a f.stype.wide)) (by simp [FormV.cvtOpds])
  by_cases h : (f.opsAt 89 88 == 1 || f.opsAt 89 88 == 2) = true
  · have hold : Src.val { n := f.dst.toNat } c j = Src.val { n := f.dst.toNat } c k :=
      hsame (.src { n := f.dst.toNat }) (by simp [FormV.cvtOpds, h])
    rw [hsrc, hold]
  · rw [hsrc, FormV.placed_whole h]

/-! ### The special functions (05 R137, R138) -/

namespace SpecialFn

theorem bits_of_special {fn : SpecialFn} {t : Ty} {b r : Nat} (h : fn.special t (decodeF t b) = some r) : fn.bits t b = r := by
  simp only [SpecialFn.bits, h]

/-- The exact result rounded to nearest. -/
def nearest (fn : SpecialFn) (t : Ty) (neg : Bool) (m : Nat) (e : Int) : Nat :=
  roundBits t .rne (fn.exact neg m e).neg (fn.exact neg m e).m (fn.exact neg m e).e (fn.exact neg m e).sticky

/-- `r` are the bits of a number within the bound of Table 5-5. -/
def withinBound (fn : SpecialFn) (t : Ty) (neg : Bool) (m : Nat) (e : Int) (r : Nat) : Prop :=
  ∃ cn cm ce, decodeF t r = .num cn cm ce ∧
    (fn.exact neg m e).within (if cn then -(cm : Int) else cm) ce (fn.bound t m e (fn.exact neg m e)).1
      (fn.bound t m e (fn.exact neg m e)).2 = true

/-- Of an operand without a special value: the open bits are taken at f32 and f64 alone, and only within the bound (log 7). -/
theorem bits_of_number {fn : SpecialFn} {t : Ty} {b m : Nat} {n : Bool} {e : Int} (hnum : decodeF t b = .num n m e)
    (hnone : fn.special t (.num n m e) = none) :
    fn.bits t b = fn.nearest t n m e ∨ (t ≠ .f16 ∧ t ≠ .bf16 ∧ fn.withinBound t n m e (fn.bits t b)) := by
  simp only [SpecialFn.bits, hnum, hnone]
  split
  · exact .inl rfl
  next hwide =>
    obtain ⟨hf16, hbf16⟩ : t ≠ .f16 ∧ t ≠ .bf16 := by
      constructor <;> rintro rfl <;> simp at hwide
    split
    next cn cm ce hopen =>
      generalize hx : (if cn = true then -(cm : Int) else cm) = x
      split
      next hin => exact .inr ⟨hf16, hbf16, cn, cm, ce, hopen, hx ▸ hin⟩
      · exact .inl rfl
    · exact .inl rfl

end SpecialFn

end Sys2Proof.Machine

namespace Sys2Proof.Proofs
open Sys2Proof.Machine

/-- Settles O16: fcvt reads its destination where it keeps a half of it; the rest are skeletons of their sources at their values,
and the bits of a special function are its special value, the nearest number or a number within the bound. -/
theorem conversionsAndFunctions : Obligations.ConversionsAndFunctions := by
  refine ⟨fun s c f => ⟨?_, ?_, ?_⟩, fun s c f => ⟨?_, ?_, ?_, ?_, ?_, ?_, ?_, ?_, ?_, ?_, ?_⟩⟩
  · have h := fcvt_gives (s := s) (c := c) f
    rw [FormV.cvtOpds_eq] at h
    exact h
  · exact gives_of_one (val := fun x =>
      if f.type.isFloat then BitVec.ofNat 64 (encodeF f.type (FormV.mode f) (intF (f.stype.read x)))
      else f.type.result f.sat (f.stype.read x)) rfl
  · exact gives_of_one (val := fun x => cvtInt f.type f.stype (FormV.mode f) f.sat (f.stype.bits x)) rfl
  · exact FormV.float1_gives1 (op := fun a => sqrtBits f.type (FormV.mode f) (decodeF f.type a)) rfl
  · exact FormV.float2_gives2 (op := fun a b => divBits f.type (FormV.mode f) (decodeF f.type a) (decodeF f.type b)) rfl
  · exact FormV.float1_gives1 (op := SpecialFn.bits .rcp f.type) rfl
  · exact FormV.float1_gives1 (op := SpecialFn.bits .rsq f.type) rfl
  · exact FormV.float1_gives1 (op := SpecialFn.bits .ex2 f.type) rfl
  · exact FormV.float1_gives1 (op := SpecialFn.bits .lg2 f.type) rfl
  · exact FormV.float1_gives1 (op := SpecialFn.bits .sin f.type) rfl
  · exact FormV.float1_gives1 (op := SpecialFn.bits .cos f.type) rfl
  · exact FormV.float1_gives1 (op := SpecialFn.bits .tanh f.type) rfl
  · exact fun _ _ _ => SpecialFn.bits_of_special
  · exact fun _ _ _ _ _ => SpecialFn.bits_of_number

end Sys2Proof.Proofs

namespace Sys2Proof.Machine

/-! ### Registers written one after another -/

/-- The lanes that a write gives its register. -/
def RegWrite.lanes (x : RegWrite) : Nat → Word := fun k => lo32 (x.f k)

/-- The writes `ws`, each to the register it names, in their order. -/
def Ctx.writeRegs (c : Ctx) (w : Warp) (ws : List (Nat × RegWrite)) : Warp := ws.foldl (fun w p => c.writeReg w p.1 p.2) w

theorem writeRegs_cons (c : Ctx) (w : Warp) (p : Nat × RegWrite) (ws : List (Nat × RegWrite)) :
    c.writeRegs w (p :: ws) = c.writeRegs (c.writeReg w p.1 p.2) ws := rfl

theorem writeRegs_append (c : Ctx) (w : Warp) (ws us : List (Nat × RegWrite)) :
    c.writeRegs w (ws ++ us) = c.writeRegs (c.writeRegs w ws) us := List.foldl_append

theorem writeRegs_regsOnly (c : Ctx) (w : Warp) (ws : List (Nat × RegWrite)) : w.regsOnly (c.writeRegs w ws) := by
  induction ws generalizing w with
  | nil => exact w.regsOnly_refl
  | cons p ws ih => exact Warp.regsOnly_trans (writeReg_regsOnly ..) (ih _)

theorem writeRegs_reg {c : Ctx} {w : Warp} {ws : List (Nat × RegWrite)} {m : Nat} (h : m ∉ ws.map (·.1)) :
    (c.writeRegs w ws).reg m = w.reg m := by
  induction ws generalizing w with
  | nil => rfl
  | cons p ws ih =>
    obtain ⟨hp, hws⟩ : m ≠ p.1 ∧ m ∉ ws.map (·.1) := by simpa only [List.map_cons, List.mem_cons, not_or] using h
    rw [writeRegs_cons, ih hws, writeReg_reg hp]

/-- Each register of distinct ones holds what was written to it. -/
theorem writeRegs_holds {c : Ctx} {w : Warp} {ws : List (Nat × RegWrite)} (hdistinct : (ws.map (·.1)).Nodup)
    (hreg : ∀ p ∈ ws, w.reg p.1 = c.w.reg p.1 ∧ p.1 < w.regs.length) (hsound : ∀ p ∈ ws, c.Sound p.2) :
    ∀ p ∈ ws, c.Holds p.1 ((c.writeRegs w ws).reg p.1) p.2.lanes p.2.tag := by
  induction ws generalizing w with
  | nil => intro p hp; cases hp
  | cons x ws ih =>
    obtain ⟨hx, hws⟩ := List.nodup_cons.mp hdistinct
    intro p hp
    rw [writeRegs_cons]
    rcases List.mem_cons.mp hp with rfl | hp
    · obtain ⟨hsame, hlt⟩ := hreg p List.mem_cons_self
      rw [writeRegs_reg hx]
      exact writeReg_holds hsame hlt (hsound p List.mem_cons_self)
    · refine ih hws (fun q hq => ?_) (fun q hq => hsound q (List.mem_cons_of_mem x hq)) p hp
      obtain ⟨hsame, hlt⟩ := hreg q (List.mem_cons_of_mem x hq)
      have hne : q.1 ≠ x.1 := fun h => hx (List.mem_map.mpr ⟨q, hq, h⟩)
      rw [writeReg_reg hne, (writeReg_regsOnly ..).2]
      exact ⟨hsame, hlt⟩

/-- They are all that the writes change, but for the marks. -/
theorem writeRegs_wrote {c : Ctx} {ws : List (Nat × RegWrite)} {marks : List Nat} {tag : Nat → Nat}
    (hdistinct : (ws.map (·.1)).Nodup) (hin : ∀ p ∈ ws, p.1 < c.w.regs.length) (hsound : ∀ p ∈ ws, c.Sound p.2)
    (htag : ∀ p ∈ ws, tag p.1 = p.2.tag) :
    c.Wrote ((c.writeRegs c.w ws).kill c.full marks (ws.map (·.1))) (ws.map fun p => (p.1, p.2.lanes)) marks tag := by
  refine wrote_of_holds (Warp.regsOnly_trans (writeRegs_regsOnly ..) (kill_regsOnly ..)) ?_ ?_
  · intro q hq
    obtain ⟨p, hp, rfl⟩ := List.mem_map.mp hq
    rw [kill_reg, if_neg fun ⟨_, _, hnot⟩ => hnot (List.mem_map_of_mem hp), htag p hp]
    exact writeRegs_holds hdistinct (fun p hp => ⟨rfl, hin p hp⟩) hsound p hp
  · intro n hn
    have hn : n ∉ ws.map (·.1) := by simpa only [List.map_map, Function.comp_def] using hn
    rw [kill_reg, writeRegs_reg hn]
    simp only [hn, not_false_eq_true, and_true]

/-- A register instruction whose body is such a sequence of writes completes with them. -/
theorem alu_completes_writes {s : State} {c : Ctx} {g : Nat × Bool} {i : Instr} {reads marks writes : List Nat}
    {ws : List (Nat × RegWrite)} {tag : Nat → Nat} {body : Ctx → Except (Nat × DWord) Warp}
    (hexec : exec i s = s.alu g reads marks writes body) (hwrites : writes = ws.map (·.1))
    (hbody : body c = .ok (c.writeRegs c.w ws))
    (hissue : s.Issues g c) (hread : c.deadRead reads = none) (hdistinct : (ws.map (·.1)).Nodup)
    (hin : ∀ p ∈ ws, p.1 < c.w.regs.length) (hsound : ∀ p ∈ ws, c.Sound p.2) (htag : ∀ p ∈ ws, tag p.1 = p.2.tag) :
    s.Completes c i fun v => c.Wrote v (ws.map fun p => (p.1, p.2.lanes)) marks tag := by
  obtain ⟨huid, hlaunch, hdie, hcore, hliving, hentries, -⟩ := Warp.regsOnly_same (writeRegs_regsOnly c c.w ws)
  refine ⟨_, ?_, writeRegs_wrote hdistinct hin hsound htag⟩
  rw [hexec, ← hwrites]
  exact alu_completes hissue hread hbody huid hlaunch hdie hcore hliving hentries

/-! ### Plane words (05 R143, R148) -/

/-- A word for the whole warp, which counts as U. -/
def RegWrite.uniform (v : DWord) : RegWrite := ⟨true, none, fun _ => v⟩

theorem uniform_sound (c : Ctx) (v : DWord) : c.Sound (.uniform v) where
  uniform _ _ _ _ _ _ _ _ := rfl
  affine _ hu := by cases hu

theorem uniform_lanes (v : DWord) : (RegWrite.uniform v).lanes = fun _ => lo32 v := rfl

/-- The writes of the plane words of the codes `q` to the 8 registers from `d`. -/
def planeWrites (eff : Mask) (d : Nat) (q : Nat → Int) : List (Nat × RegWrite) :=
  (List.range 8).map fun k => (d + k, .uniform ((planeWord eff q k).setWidth 64))

theorem writePlanes_eq (c : Ctx) (w : Warp) (d : Nat) (q : Nat → Int) :
    w.writePlanes c d q = c.writeRegs w (planeWrites c.eff d q) := by
  rw [Ctx.writeRegs, planeWrites, List.foldl_map]
  rfl

theorem planeWrites_regs (eff : Mask) (d : Nat) (q : Nat → Int) : (planeWrites eff d q).map (·.1) = planeRegs d 8 := by
  rw [planeWrites, List.map_map]; rfl

theorem planeWrites_lanes (eff : Mask) (d : Nat) (q : Nat → Int) :
    ((planeWrites eff d q).map fun p => (p.1, p.2.lanes)) = (List.range 8).map fun k => (d + k, fun _ => planeWord eff q k) := by
  simp only [planeWrites, List.map_map, Function.comp_def, uniform_lanes, lo32_setWidth]

theorem mem_planeWrites {eff : Mask} {d : Nat} {q : Nat → Int} {p : Nat × RegWrite} (h : p ∈ planeWrites eff d q) :
    p.1 < d + 8 ∧ ∃ v, p.2 = .uniform v := by
  obtain ⟨k, hk, rfl⟩ := List.mem_map.mp h
  exact ⟨by have := List.mem_range.mp hk; simp only; omega, _, rfl⟩

theorem planeRegs_nodup (n k : Nat) : (planeRegs n k).Nodup :=
  List.Pairwise.map (n + ·) (fun _ _ hne h => hne (Nat.add_left_cancel h)) List.nodup_range

theorem planeRegs_succ (n k : Nat) : planeRegs n (k + 1) = planeRegs n k ++ [n + k] := by
  simp only [planeRegs, List.range_succ, List.map_append, List.map_cons, List.map_nil]

theorem planeWrites_sound {c : Ctx} {d : Nat} {q : Nat → Int} : ∀ p ∈ planeWrites c.eff d q, c.Sound p.2 := by
  intro p hp
  obtain ⟨-, v, hv⟩ := mem_planeWrites hp
  exact hv ▸ uniform_sound c v

theorem planeWrites_tag {eff : Mask} {d : Nat} {q : Nat → Int} : ∀ p ∈ planeWrites eff d q, p.2.tag = 0 := by
  intro p hp
  obtain ⟨-, v, hv⟩ := mem_planeWrites hp
  rw [hv]
  rfl

/-! ### plsplit and quant (05 R143, R144, R146) -/

theorem exec_plsplit (f : FormV) (s : State) : exec (.plsplit f) s =
    s.alu f.guard (f.a false).regs (f.marked [(0, f.a false)]) (planeRegs f.dst.toNat 8) fun c =>
      .ok (c.writeRegs c.w (planeWrites c.eff f.dst.toNat fun j => Ty.i8.read ((f.a false).val c j))) := by
  simp only [← writePlanes_eq]
  rfl

theorem plsplit_completes {s : State} {c : Ctx} {f : FormV} (hissue : s.Issues f.guard c)
    (hin : f.dst.toNat + 8 ≤ c.w.regs.length)
    (hread : c.deadRead (f.a false).regs = none) :
    s.Completes c (.plsplit f) fun v => c.Wrote v
      ((List.range 8).map fun k => (f.dst.toNat + k, fun _ => planeWord c.eff (fun j => Ty.i8.read ((f.a false).val c j)) k))
      (f.marked [(0, f.a false)]) := by
  rw [← planeWrites_lanes]
  have hregs := planeWrites_regs c.eff f.dst.toNat fun j => Ty.i8.read ((f.a false).val c j)
  refine alu_completes_writes (exec_plsplit f s) hregs.symm rfl hissue hread (hregs ▸ planeRegs_nodup ..) (fun p hp => ?_)
    planeWrites_sound fun p hp => (planeWrites_tag p hp).symm
  have hlt := (mem_planeWrites hp).1
  omega

/-- The bits of a block's element: +0 where the lane is not effective (05 R143). -/
def Ctx.element (c : Ctx) (t : Ty) (r : Src) (j : Nat) : Nat := if c.eff.getLsbD j then t.bits (r.val c j) else 0

/-- The exponent at which quant takes lane `j`: vb's, or its block's (05 R143, R144). -/
def FormV.quantExpAt (f : FormV) (c : Ctx) (j : Nat) : Nat :=
  if f.opsAt 90 90 == 1 then ((f.b false).val c j).toNat % 256
  else quantExp f.stype (f.opsAt 89 88) (c.element f.stype (f.a false)) (c.element f.stype (f.b false)) j

/-- Its code there. -/
def FormV.quantCode (f : FormV) (c : Ctx) (j : Nat) : Int :=
  planeCodeOf (FormV.quantExpAt f c j) (decodeF f.stype (c.element f.stype (f.a false) j))

/-- What quant writes to its exponent register: with .xe lane by lane, else the block exponents packed in one word. -/
def FormV.exponentWrite (f : FormV) (c : Ctx) : RegWrite :=
  let e := FormV.quantExpAt f c
  if f.opsAt 90 90 == 1 then ⟨(Opd.src (f.b false)).count c == .u, none, fun i => BitVec.ofNat 64 (e i)⟩
  else .uniform (BitVec.ofNat 64 (if f.opsAt 89 88 = 0 then e 0 + e 16 * 256 else e 0))

/-- All that quant writes: the planes of the codes, then the exponents. -/
def FormV.quantWrites (f : FormV) (c : Ctx) : List (Nat × RegWrite) :=
  planeWrites c.eff f.dst.toNat (FormV.quantCode f c) ++ [(f.dst.toNat + 8, FormV.exponentWrite f c)]

theorem mem_quantWrites {f : FormV} {c : Ctx} {p : Nat × RegWrite} (h : p ∈ FormV.quantWrites f c) :
    p ∈ planeWrites c.eff f.dst.toNat (FormV.quantCode f c) ∨ p = (f.dst.toNat + 8, FormV.exponentWrite f c) :=
  (List.mem_append.mp h).imp_right List.mem_singleton.mp

theorem quantWrites_regs (f : FormV) (c : Ctx) : (FormV.quantWrites f c).map (·.1) = planeRegs f.dst.toNat 9 := by
  rw [FormV.quantWrites, List.map_append, planeWrites_regs, planeRegs_succ _ 8]
  rfl

/-- The exponent register is written after the planes, as a register of its own form with .xe. -/
theorem writeRegs_quantWrites (f : FormV) (c : Ctx) : c.writeRegs c.w (FormV.quantWrites f c) =
    let w := c.w.writePlanes c f.dst.toNat (FormV.quantCode f c); let e := FormV.quantExpAt f c
    if f.opsAt 90 90 == 1 then
      w.writeResult (f.dst.toNat + 8) false c.eff c.full ((Opd.src (f.b false)).count c == .u) none fun i => fbits (e i)
    else w.writeResult (f.dst.toNat + 8) false c.eff c.full true none
      fun _ => fbits (if f.opsAt 89 88 = 0 then e 0 + e 16 * 256 else e 0) := by
  rw [FormV.quantWrites, writeRegs_append, ← writePlanes_eq]
  simp only [FormV.exponentWrite]
  split <;> rfl

theorem exec_quant (f : FormV) (s : State) : exec (.quant f) s =
    s.alu f.guard ((f.a false).regs ++ if f.opsAt 90 90 == 1 || f.opsAt 89 88 == 2 then (f.b false).regs else [])
      (f.marked [(0, f.a false), (1, f.b false)]) (planeRegs f.dst.toNat 9) fun c =>
        .ok (c.writeRegs c.w (FormV.quantWrites f c)) := by
  simp only [writeRegs_quantWrites]
  rfl

theorem exponentWrite_sound (f : FormV) (c : Ctx) : c.Sound (FormV.exponentWrite f c) := by
  by_cases hxe : (f.opsAt 90 90 == 1) = true
  · simp only [FormV.exponentWrite, if_pos hxe]
    refine ⟨fun hf hu j k hj hk ej ek => ?_, fun _ _ _ _ h => by cases h⟩
    have hval : (f.b false).val c j = (f.b false).val c k :=
      opd_uniform (o := .src (f.b false)) hf (beq_iff_eq.mp hu) hj hk ej ek
    simp only [FormV.quantExpAt, if_pos hxe, hval]
  · simp only [FormV.exponentWrite, if_neg hxe]
    exact uniform_sound c _

theorem exponentWrite_tag (f : FormV) (c : Ctx) :
    (FormV.exponentWrite f c).tag = if (f.opsAt 90 90 == 1) = true then c.tagU [.src (f.b false)] else 0 := by
  simp only [FormV.exponentWrite]
  split
  · simp only [RegWrite.tag, Ctx.tagU, List.all_cons, List.all_nil, Bool.and_true, Option.isSome_none,
      Bool.false_eq_true, if_false]
  · rfl

theorem lo32_ofNat (n : Nat) : lo32 (BitVec.ofNat 64 n) = BitVec.ofNat 32 n :=
  BitVec.eq_of_toNat_eq (by simp [toNat_lo32])

theorem exponentWrite_lanes (f : FormV) (c : Ctx) : (FormV.exponentWrite f c).lanes = fun j => BitVec.ofNat 32
    (if (f.opsAt 90 90 == 1) = true then FormV.quantExpAt f c j
      else if f.opsAt 89 88 = 0 then FormV.quantExpAt f c 0 + FormV.quantExpAt f c 16 * 256 else FormV.quantExpAt f c 0) := by
  funext j
  simp only [FormV.exponentWrite]
  split <;> exact lo32_ofNat _

theorem quant_completes {s : State} {c : Ctx} {f : FormV} (hissue : s.Issues f.guard c)
    (hin : f.dst.toNat + 9 ≤ c.w.regs.length)
    (hread : c.deadRead ((f.a false).regs ++ if f.opsAt 90 90 == 1 || f.opsAt 89 88 == 2 then (f.b false).regs else []) = none) :
    s.Completes c (.quant f) fun v => c.Wrote v
      (((List.range 8).map fun k => (f.dst.toNat + k, fun _ => planeWord c.eff (FormV.quantCode f c) k)) ++
        [(f.dst.toNat + 8, (FormV.exponentWrite f c).lanes)])
      (f.marked [(0, f.a false), (1, f.b false)])
      (fun n => if n = f.dst.toNat + 8 ∧ (f.opsAt 90 90 == 1) = true then c.tagU [.src (f.b false)] else 0) := by
  have hlanes : ((FormV.quantWrites f c).map fun p => (p.1, p.2.lanes)) =
      ((List.range 8).map fun k => (f.dst.toNat + k, fun _ => planeWord c.eff (FormV.quantCode f c) k)) ++
        [(f.dst.toNat + 8, (FormV.exponentWrite f c).lanes)] := by
    rw [FormV.quantWrites, List.map_append, planeWrites_lanes]
    rfl
  rw [← hlanes]
  have hregs := quantWrites_regs f c
  refine alu_completes_writes (exec_quant f s) hregs.symm rfl hissue hread (hregs ▸ planeRegs_nodup ..) (fun p hp => ?_)
    (fun p hp => ?_) (fun p hp => ?_)
  all_goals rcases mem_quantWrites hp with hp | rfl
  · have hlt := (mem_planeWrites hp).1
    omega
  · simp only
    omega
  · exact planeWrites_sound p hp
  · exact exponentWrite_sound f c
  · have hlt := (mem_planeWrites hp).1
    rw [planeWrites_tag p hp, if_neg (by omega)]
  · simp only [exponentWrite_tag, true_and]

/-! ### deq and pljoin (05 R145, R147) -/

/-- The planes of a group as source operands. -/
def planeOpds (n k : Nat) : List Opd := (planeRegs n k).map fun m => .src { n := m }

theorem planeOpds_regs (n k : Nat) : (planeOpds n k).flatMap (·.regs) = planeRegs n k := by
  simp only [planeOpds, List.flatMap_map, Opd.regs, Src.regs, Bool.false_eq_true, if_false, List.append_nil]
  exact List.flatMap_singleton' _

/-- The value that deq gives lane `i` of its code and its exponent (05 R145). -/
def FormV.dequantized (f : FormV) (c : Ctx) (i : Nat) : DWord :=
  let x := ((f.b false).val c i).toNat
  let e := (if !(f.opsAt 90 90 == 1) && f.opsAt 89 88 = 0 && 16 ≤ i then x / 256 else x) % 256
  let q := joinPlanes c f.sa.toNat (f.opsAt 93 91 + 1) i
  BitVec.ofNat 64 (if e = 0 then 0 else if e = 255 then f.type.nan
    else encodeF f.type (FormV.mode f) (.num (q < 0) q.natAbs ((e : Int) - 133)))

theorem deq_gives {s : State} {c : Ctx} (f : FormV) :
    Gives s c f.guard (.deq f) f.dst.toNat f.type.wide (planeOpds f.sa.toNat (f.opsAt 93 91 + 1) ++ [.src (f.b false)])
      ((if f.lu.getLsbD 0 then planeRegs f.sa.toNat (f.opsAt 93 91 + 1) else []) ++ f.marked [(1, f.b false)]) (fun _ => 2)
      (FormV.dequantized f c) := by
  have hexec : exec (.deq f) s = s.alu f.guard (planeRegs f.sa.toNat (f.opsAt 93 91 + 1) ++ (f.b false).regs)
      ((if f.lu.getLsbD 0 then planeRegs f.sa.toNat (f.opsAt 93 91 + 1) else []) ++ f.marked [(1, f.b false)])
      (dstRegs f.dst.toNat f.type.wide) fun c =>
        .ok (c.w.writeResult f.dst.toNat f.type.wide c.eff c.full false none (FormV.dequantized f c)) := rfl
  refine gives_general hexec ?_ rfl
  rw [List.flatMap_append, planeOpds_regs, List.flatMap_singleton]
  rfl

theorem pljoin_gives {s : State} {c : Ctx} (f : FormV) :
    Gives s c f.guard (.pljoin f) f.dst.toNat false (planeOpds f.sa.toNat (f.opsAt 93 91 + 1))
      (if f.lu.getLsbD 0 then planeRegs f.sa.toNat (f.opsAt 93 91 + 1) else []) (fun _ => 2)
      (fun i => Ty.i32.hold (joinPlanes c f.sa.toNat (f.opsAt 93 91 + 1) i)) := by
  have hexec : exec (.pljoin f) s = s.alu f.guard (planeRegs f.sa.toNat (f.opsAt 93 91 + 1))
      (if f.lu.getLsbD 0 then planeRegs f.sa.toNat (f.opsAt 93 91 + 1) else []) (dstRegs f.dst.toNat false) fun c =>
        .ok (c.w.writeResult f.dst.toNat false c.eff c.full false none
          fun i => Ty.i32.hold (joinPlanes c f.sa.toNat (f.opsAt 93 91 + 1) i)) := rfl
  exact gives_general hexec (planeOpds_regs ..).symm rfl

/-- The register of a joined code. -/
theorem resultOf_joined (d : Nat) (q : Nat → Int) :
    resultOf d false (fun i => Ty.i32.hold (q i)) = [(d, fun i => BitVec.ofInt 32 (q i))] := by
  have hhold (x : Int) : Ty.i32.hold x = (BitVec.ofInt 32 x).setWidth 64 := rfl
  simp only [resultOf, hhold, lo32_setWidth, Bool.false_eq_true, if_false]

/-! ### Join undoes split (03 R82; 05 R145) -/

/-- The number whose bits from bit 7 down are `bit 0` to `bit (p − 1)`. -/
def joinBits (bit : Nat → Bool) (p : Nat) : Nat := (List.range p).foldl (fun x k => if bit k then x + 2 ^ (7 - k) else x) 0

theorem joinBits_succ (bit : Nat → Bool) (p : Nat) :
    joinBits bit (p + 1) = if bit p then joinBits bit p + 2 ^ (7 - p) else joinBits bit p := by
  simp only [joinBits, List.range_succ, List.foldl_append, List.foldl_cons, List.foldl_nil]

theorem joinPlanes_eq (c : Ctx) (n p i : Nat) : joinPlanes c n p i =
    signedNat 8 (joinBits (fun k => (c.w.lane (n + k) i).getLsbD i) p) := rfl

/-- A number cut below bit j is cut below bit j + 1 and has its bit j. -/
theorem cut_succ (x j : Nat) :
    x / 2 ^ j * 2 ^ j = x / 2 ^ (j + 1) * 2 ^ (j + 1) + if x.testBit j then 2 ^ j else 0 := by
  have hhalf : x / 2 ^ (j + 1) = x / 2 ^ j / 2 := by rw [Nat.div_div_eq_div_mul, ← Nat.pow_succ]
  have hbit : (if x.testBit j then 2 ^ j else 0) = x / 2 ^ j % 2 * 2 ^ j := by
    rw [Nat.testBit_eq_decide_div_mod_eq]
    rcases Nat.mod_two_eq_zero_or_one (x / 2 ^ j) with h | h <;> simp [h]
  calc x / 2 ^ j * 2 ^ j = (x / 2 ^ j / 2 * 2 + x / 2 ^ j % 2) * 2 ^ j := by rw [Nat.mul_comm _ 2, Nat.div_add_mod]
    _ = x / 2 ^ (j + 1) * 2 ^ (j + 1) + if x.testBit j then 2 ^ j else 0 := by
      rw [hhalf, hbit, Nat.add_mul, Nat.mul_assoc, Nat.pow_succ, Nat.mul_comm 2]

/-- The first p planes of a byte are the byte cut below bit 8 − p. -/
theorem joinBits_eq_cut {bit : Nat → Bool} {x p : Nat} (hx : x < 2 ^ 8) (hbit : ∀ k, k < 8 → bit k = x.testBit (7 - k))
    (hp : p ≤ 8) : joinBits bit p = x / 2 ^ (8 - p) * 2 ^ (8 - p) := by
  induction p with
  | zero => rw [Nat.div_eq_of_lt hx, Nat.zero_mul]; rfl
  | succ p ih =>
    have hcut := cut_succ x (7 - p)
    rw [show 7 - p + 1 = 8 - p by omega, ← ih (by omega), ← hbit p (by omega)] at hcut
    rw [joinBits_succ, show 8 - (p + 1) = 7 - p by omega, hcut]
    split <;> rfl

/-- A code is its low byte read as a signed one. -/
theorem signedNat_emod {q : Int} (hlo : -128 ≤ q) (hhi : q ≤ 127) : signedNat 8 (q % 256).toNat = q := by
  simp only [signedNat]
  split <;> omega

theorem joinPlanes_of_planeWords {c : Ctx} {n i : Nat} {q : Nat → Int} (hi : i < 32) (he : c.eff.getLsbD i = true)
    (hlo : -128 ≤ q i) (hhi : q i ≤ 127) (hplanes : ∀ k, k < 8 → c.w.lane (n + k) i = planeWord c.eff q k) :
    joinPlanes c n 8 i = q i := by
  have hbyte : (q i % 256).toNat < 2 ^ 8 := by omega
  have hbit (k : Nat) (hk : k < 8) : (c.w.lane (n + k) i).getLsbD i = (q i % 256).toNat.testBit (7 - k) := by
    rw [hplanes k hk, planeWord, maskOf_bit hi, he, Bool.true_and]
  rw [joinPlanes_eq, joinBits_eq_cut hbyte hbit (Nat.le_refl 8), Nat.sub_self, Nat.pow_zero, Nat.div_one, Nat.mul_one]
  exact signedNat_emod hlo hhi

end Sys2Proof.Machine

namespace Sys2Proof.Proofs
open Sys2Proof.Machine

/-- Settles O17: the planes and the exponents are registers written one after another, what is read back is G, and a code's 8
planes are the bits of its low byte. -/
theorem bitPlanes : Obligations.BitPlanes := by
  intro s c f d n a b p xe l st bits exp planes
  refine ⟨fun hissue hin hread => ?_, plsplit_completes, fun hissue hin hread => ?_, fun hissue hin hread => ?_,
    fun q i => joinPlanes_of_planeWords⟩
  · have h := quant_completes hissue hin hread
    rw [exponentWrite_lanes] at h
    exact h
  · refine deq_gives f hissue hin ?_
    rw [List.flatMap_append, planeOpds_regs, List.flatMap_singleton]
    exact hread
  · rw [← resultOf_joined]
    exact pljoin_gives f hissue hin ((planeOpds_regs ..).symm ▸ hread)

end Sys2Proof.Proofs

/-! SUPPORT. The proofs of family 07, the matrix unit: mfmt's format block (07 R179, R181), the start of a slice and the steps of
an mloop (07 R177 to R194). The laws each part needs stand before it. -/

namespace Sys2Proof.Machine

/-! ### The format block (07 R181) -/

/-- The tag of a register that an instruction reads without a route: U where it counts as U, else G. -/
theorem tagU_reg (c : Ctx) (n : Nat) : c.tagU [.src { n := n }] = if (c.w.reg n).countsU then 0 else 2 := by
  have hcount : ((c.w.reg n).count == .u) = (c.w.reg n).countsU := by cases c.w.reg n <;> rfl
  rw [← hcount, Ctx.tagU, List.all_cons, List.all_nil, Bool.and_true]
  rfl

/-- The descriptor that mfmt writes for a format code, its stride taken from register `r` where the format is bit-plane. -/
def Ctx.descriptor (c : Ctx) (fmt planes blen axis r kv : Nat) : RegWrite :=
  ⟨fmt != 3 || (c.w.reg r).countsU, none, fun i => BitVec.ofNat 64 (mfmtDesc fmt planes blen axis (c.w.lane r i).toNat kv)⟩

/-- The scale address it writes: that of register `r`, or 0 for a format without scales. -/
def Ctx.scaleAddress (c : Ctx) (fmt r : Nat) : RegWrite :=
  ⟨(c.w.reg r).countsU, none, fun i => BitVec.ofNat 64 (if fmt = 3 then (c.w.lane r i).toNat else 0)⟩

/-- Only a bit-plane descriptor has a stride. -/
theorem mfmtDesc_stride {fmt : Nat} (h : fmt ≠ 3) (planes blen axis x y kv : Nat) :
    mfmtDesc fmt planes blen axis x kv = mfmtDesc fmt planes blen axis y kv := by
  simp only [mfmtDesc, if_neg h]

theorem descriptor_sound (c : Ctx) (fmt planes blen axis r kv : Nat) : c.Sound (c.descriptor fmt planes blen axis r kv) where
  uniform _ hu j k _ _ _ _ := by
    refine congrArg (BitVec.ofNat 64) ?_
    rcases Bool.or_eq_true _ _ ▸ hu with hfmt | hreg
    · exact mfmtDesc_stride (bne_iff_ne.mp hfmt) ..
    · rw [Warp.lane, Warp.lane, countsU_lane hreg j k]
  affine _ _ _ _ h := by cases h

theorem scaleAddress_sound (c : Ctx) (fmt r : Nat) : c.Sound (c.scaleAddress fmt r) where
  uniform _ hu j k _ _ _ _ := by simp only [Ctx.scaleAddress, Warp.lane, countsU_lane hu j k]
  affine _ _ _ _ h := by cases h

theorem descriptor_tag (c : Ctx) (fmt planes blen axis r kv : Nat) :
    (c.descriptor fmt planes blen axis r kv).tag = if fmt = 3 then c.tagU [.src { n := r }] else 0 := by
  by_cases h : fmt = 3 <;> simp [Ctx.descriptor, RegWrite.tag, tagU_reg, h]

theorem scaleAddress_tag (c : Ctx) (fmt r : Nat) : (c.scaleAddress fmt r).tag = c.tagU [.src { n := r }] :=
  (tagU_reg c r).symm

theorem descriptor_lanes (c : Ctx) (fmt planes blen axis r kv : Nat) : (c.descriptor fmt planes blen axis r kv).lanes =
    fun i => BitVec.ofNat 32 (mfmtDesc fmt planes blen axis (c.w.lane r i).toNat kv) :=
  funext fun _ => lo32_ofNat _

theorem scaleAddress_lanes (c : Ctx) (fmt r : Nat) :
    (c.scaleAddress fmt r).lanes = fun i => if fmt = 3 then c.w.lane r i else 0 := by
  funext i
  refine (lo32_ofNat _).trans ?_
  split
  · exact BitVec.ofNat_toNat _ _
  · rfl

/-- All that mfmt writes: descriptor and scale address of A, then of B. -/
def FormX.blockWrites (f : FormX) (c : Ctx) : List (Nat × RegWrite) :=
  let fa := f.opsAt 78 77; let fb := f.opsAt 76 75; let d := f.dst.toNat
  [(d, c.descriptor fa (f.opsAt 81 79) (f.opsAt 86 85) (f.opsAt 89 89) f.xc.toNat f.cnt.toNat),
   (d + 1, c.scaleAddress fa f.xa.toNat),
   (d + 2, c.descriptor fb (f.opsAt 84 82) (f.opsAt 88 87) (f.opsAt 90 90) f.xd.toNat 0),
   (d + 3, c.scaleAddress fb f.xb.toNat)]

/-- The tags of the four registers. -/
def FormX.blockTag (f : FormX) (c : Ctx) (n : Nat) : Nat :=
  if n = f.dst.toNat then (if f.opsAt 78 77 = 3 then c.tagU [.src { n := f.xc.toNat }] else 0)
  else if n = f.dst.toNat + 1 then c.tagU [.src { n := f.xa.toNat }]
  else if n = f.dst.toNat + 2 then (if f.opsAt 76 75 = 3 then c.tagU [.src { n := f.xd.toNat }] else 0)
  else c.tagU [.src { n := f.xb.toNat }]

theorem blockWrites_regs (f : FormX) (c : Ctx) : (FormX.blockWrites f c).map (·.1) = regRange f.dst.toNat 4 := rfl

theorem mem_regRange {r n k : Nat} (h : k ∈ regRange r n) : k < r + n := by
  obtain ⟨i, hi, rfl⟩ := List.mem_map.mp h
  have := List.mem_range.mp hi
  omega

theorem blockWrites_sound (f : FormX) (c : Ctx) : ∀ p ∈ FormX.blockWrites f c, c.Sound p.2 := by
  simp only [FormX.blockWrites, List.forall_mem_cons]
  exact ⟨descriptor_sound .., scaleAddress_sound .., descriptor_sound .., scaleAddress_sound .., nofun⟩

theorem blockWrites_tag (f : FormX) (c : Ctx) : ∀ p ∈ FormX.blockWrites f c, FormX.blockTag f c p.1 = p.2.tag := by
  simp only [FormX.blockWrites, List.forall_mem_cons, descriptor_tag, scaleAddress_tag]
  refine ⟨?_, ?_, ?_, ?_, nofun⟩ <;> simp [FormX.blockTag]

theorem exec_mfmt (f : FormX) (s : State) : exec (.mfmt f) s =
    s.alu f.guard [f.xa.toNat, f.xb.toNat, f.xc.toNat, f.xd.toNat]
      (FormX.marked f [(0, f.xa.toNat, 1), (1, f.xb.toNat, 1), (2, f.xc.toNat, 1), (3, f.xd.toNat, 1)])
      (regRange f.dst.toNat 4) fun c => .ok (c.writeRegs c.w (FormX.blockWrites f c)) := rfl

theorem mfmt_completes {s : State} {c : Ctx} {f : FormX} (hissue : s.Issues f.guard c)
    (hin : f.dst.toNat + 4 ≤ c.w.regs.length) (hread : c.deadRead [f.xa.toNat, f.xb.toNat, f.xc.toNat, f.xd.toNat] = none) :
    s.Completes c (.mfmt f) fun w => c.Wrote w ((FormX.blockWrites f c).map fun p => (p.1, p.2.lanes))
      (FormX.marked f [(0, f.xa.toNat, 1), (1, f.xb.toNat, 1), (2, f.xc.toNat, 1), (3, f.xd.toNat, 1)])
      (FormX.blockTag f c) :=
  alu_completes_writes (exec_mfmt f s) (blockWrites_regs f c).symm rfl hissue hread (planeRegs_nodup f.dst.toNat 4)
    (fun _ hp => Nat.lt_of_lt_of_le (mem_regRange (blockWrites_regs f c ▸ List.mem_map_of_mem hp)) hin)
    (blockWrites_sound f c) (blockWrites_tag f c)

end Sys2Proof.Machine

namespace Sys2Proof.Proofs
open Sys2Proof.Machine

/-- Settles O25: mfmt writes four registers one after another, and each lane's words and tags are those of the sources. -/
theorem formatBlock : Obligations.FormatBlock := by
  intro s c f d r v fa fb hissue hin hread
  have h := mfmt_completes hissue hin hread
  simp only [FormX.blockWrites, List.map_cons, List.map_nil, descriptor_lanes, scaleAddress_lanes] at h
  exact h

end Sys2Proof.Proofs

namespace Sys2Proof.Machine

/-! ### What a read of a bank changes (08 R210 to R212) -/

/-- `t` is `s` but for what later loads may miss, and the free values taken. -/
def State.readsOnly (s t : State) : Prop := t = { s with written := t.written, free := t.free }

theorem State.readsOnly_refl (s : State) : s.readsOnly s := rfl

theorem State.readsOnly_trans {s t u : State} (h1 : s.readsOnly t) (h2 : t.readsOnly u) : s.readsOnly u := by
  simp only [State.readsOnly] at *
  rw [h2, h1]

theorem saw_readsOnly (s : State) (ts : List Nat) (lo : Nat) (xs : List Written) : s.readsOnly (s.saw ts lo xs) := by
  simp only [State.saw]
  split
  · exact s.readsOnly_refl
  · rfl

theorem bankRead_readsOnly (s : State) (ps : List Reader) (issued lo n : Nat) : s.readsOnly (s.bankRead ps issued lo n).1 := by
  simp only [State.bankRead, State.loadFrom]
  split
  · exact saw_readsOnly ..
  · exact State.readsOnly_trans (saw_readsOnly ..) rfl

/-- Memory and warps are then as before. -/
theorem State.readsOnly_same {s t : State} (h : s.readsOnly t) : t.mem = s.mem ∧ t.warps = s.warps := by
  rw [h]; exact ⟨rfl, rfl⟩

/-! ### What a matrix instruction changes of its warp (07 R187, R191) -/

/-- `v` is `w` but for its registers, its stamp clock and its lanes' places in happens-before. -/
def Warp.dataOnly (w v : Warp) : Prop :=
  v = { w with regs := v.regs, badRegs := v.badRegs, clock := v.clock, sights := v.sights }

theorem Warp.dataOnly_refl (w : Warp) : w.dataOnly w := rfl

theorem Warp.dataOnly_trans {u v w : Warp} (h1 : u.dataOnly v) (h2 : v.dataOnly w) : u.dataOnly w := by
  simp only [Warp.dataOnly] at *
  rw [h2, h1]

theorem Warp.regsOnly.dataOnly {w v : Warp} (h : w.regsOnly v) : w.dataOnly v := by
  obtain ⟨h, -⟩ := h
  rw [h]; rfl

theorem foldl_dataOnly {α : Type} {f : Warp → α → Warp} (hf : ∀ (w : Warp) x, w.dataOnly (f w x)) (l : List α) (w : Warp) :
    w.dataOnly (l.foldl f w) :=
  List.foldlRecOn l f w.dataOnly_refl fun v h x _ => Warp.dataOnly_trans h (hf v x)

/-- The release sides that a lane hears. -/
theorem hearAll_dataOnly (w : Warp) (i : Nat) (acq : Bool) (p : Party) (ys : List Sync) : w.dataOnly (w.hearAll i acq p ys) := by
  have hlook (v : Warp) (q : Past) : v.dataOnly (v.look i q) := by
    simp only [Warp.look]
    split <;> rfl
  refine foldl_dataOnly (f := fun (w : Warp) y => if acq && y.reaches p then (w.hear i y).acquireFrom i y else w.hear i y)
    (fun v y => ?_) ys w
  split
  · exact Warp.dataOnly_trans (v := (v.hear i y).merge y.stamp) rfl (hlook ..)
  · rfl

/-- Words read one after another. -/
theorem readWords_only (s : State) (w : Warp) (n : Nat) (ks : List (Nat × Nat)) :
    s.readsOnly (s.readWords w n ks).1 ∧ w.dataOnly (s.readWords w n ks).2.1 :=
  List.foldlRecOn ks _ (motive := fun acc : State × Warp × List Nat => s.readsOnly acc.1 ∧ w.dataOnly acc.2.1)
    ⟨s.readsOnly_refl, w.dataOnly_refl⟩ fun acc ⟨hs, hw⟩ _ _ =>
      ⟨State.readsOnly_trans hs (bankRead_readsOnly ..),
        Warp.dataOnly_trans hw (Warp.dataOnly_trans (v := acc.2.1.merge _) rfl (hearAll_dataOnly ..))⟩

/-- A line load reads memory and writes registers. -/
theorem loadLine_only (s : State) (w : Warp) (g : Frag) (klim : Nat) (m : Mask) (plan : List LineWord) :
    s.readsOnly (s.loadLine w g klim m plan).1 ∧ w.dataOnly (s.loadLine w g klim m plan).2.1 := by
  obtain ⟨hs, hw⟩ := readWords_only s w 4 (plan.map fun x => (x.1, x.2.2.2))
  exact ⟨hs, Warp.dataOnly_trans hw (foldl_dataOnly (fun w _ => (setLanes_regsOnly w ..).dataOnly) _ _)⟩

/-- So does a multiplication. -/
theorem multiply_only (s : State) (w : Warp) (F : Format) (x : Operands) (d kvf : Nat) (m : Mask) (lost : List BadElem) :
    s.readsOnly (s.multiply w F x d kvf m lost).1 ∧ w.dataOnly (s.multiply w F x d kvf m lost).2.1 := by
  have h := readWords_only s w 1
  simp only [State.multiply, Warp.writeAcc]
  exact ⟨(h _).1, Warp.dataOnly_trans (h _).2 (foldl_dataOnly (fun w _ => (setLanes_regsOnly w ..).dataOnly) _ _)⟩

theorem killMatrix_dataOnly (w : Warp) (f : FormX) (m : Mask) (ranges : List (Nat × Nat × Nat)) (written : List Nat) :
    w.dataOnly (w.killMatrix f m ranges written) := (kill_regsOnly ..).dataOnly

/-- The record of an mloop has no part in it. -/
theorem killMatrix_mloop (w : Warp) (x : Option MloopState) (f : FormX) (m : Mask) (ranges : List (Nat × Nat × Nat))
    (written : List Nat) :
    ({ w with mloop := x } : Warp).killMatrix f m ranges written = { w.killMatrix f m ranges written with mloop := x } := by
  simp only [Warp.killMatrix, Warp.kill]
  split <;> rfl

/-- The split table, predicates, living lanes and tickets of `v` are those of `w`. -/
def Warp.sameControl (w v : Warp) : Prop :=
  v.preds = w.preds ∧ v.entries = w.entries ∧ v.living = w.living ∧ v.tickets = w.tickets

theorem Warp.dataOnly.sameControl {w v : Warp} (h : w.dataOnly v) : w.sameControl v := by
  rw [Warp.sameControl, h]; exact ⟨rfl, rfl, rfl, rfl⟩

theorem Warp.dataOnly.mloop {w v : Warp} (h : w.dataOnly v) : v.mloop = w.mloop := by rw [h]

/-! ### Writes to a bank while no split waits for a value (08 R227) -/

theorem noticeWrite_noReaders {s : State} (h : s.noReaders) (k n : Nat) : s.noticeWrite k n = s := by
  have hwait : ∀ w ∈ s.warps, ∀ e v, (w.entry e).wait ≠ .value v := by
    intro w hw e v
    by_cases he : e < w.entries.length
    · rw [Warp.entry, List.getD_eq_getElem?_getD, List.getElem?_eq_getElem he]
      exact h w hw _ (List.getElem_mem he) v
    · rw [Warp.entry, List.getD_eq_getElem?_getD, List.getElem?_eq_none (Nat.le_of_not_lt he)]
      exact nofun
  refine congrArg (List.foldl _ s) (List.flatMap_eq_nil_iff.mpr fun w hw => List.filterMap_eq_nil_iff.mpr fun e _ => ?_)
  split
  · rename_i v hv
    exact absurd hv (hwait w hw e v)
  · rfl

/-- Who waits is a matter of the warps alone. -/
theorem State.noReaders_congr {s t : State} (h : s.noReaders) (hw : t.warps = s.warps) : t.noReaders := by
  rw [State.noReaders, hw]; exact h

theorem not_mem_runKeys {a k n : Nat} : k ∉ (List.range n).map (a + ·) ↔ k < a ∨ a + n ≤ k := by
  simp only [List.mem_map, List.mem_range, not_exists, not_and]
  constructor
  · intro h
    exact Decidable.byContradiction fun hin => h (k - a) (by omega) (by omega)
  · intro h i hi
    omega

/-- A store to a run of keys is the one write, as far as memory and warps go. -/
theorem storeKeys_run {s : State} (h : s.noReaders) (p : Writer) (k n : Nat) (bs : List Byte) :
    (s.storeKeys p ((List.range (n + 1)).map (k + ·)) bs).mem = Memory.setAll s.mem k bs ∧
    (s.storeKeys p ((List.range (n + 1)).map (k + ·)) bs).warps = s.warps := by
  have hhead : ((List.range (n + 1)).map (k + ·)).headD 0 = k := by rw [List.range_succ_eq_map]; rfl
  have hwrite : s.writeKeys ((List.range (n + 1)).map (k + ·)) bs = s.write k bs := by
    rw [State.writeKeys, List.length_map, List.length_range, hhead, if_pos rfl]
  have hne : ((List.range (n + 1)).map (k + ·)).isEmpty = false := by rw [List.range_succ_eq_map]; rfl
  have hstill (old : List Byte) (holes : List Nat) : ((s.write k bs).bankWrote p k old holes).noReaders := h
  simp only [State.storeKeys, hne, Bool.false_eq_true, if_false, hhead, hwrite]
  split
  · rw [noticeWrite_noReaders (hstill _ _)]
    exact ⟨rfl, rfl⟩
  · exact ⟨rfl, rfl⟩

theorem leNat_leBytes (n v : Nat) : leNat (leBytes n v) = v % 256 ^ n := by
  induction n generalizing v with
  | zero => rw [Nat.pow_zero, Nat.mod_one]; rfl
  | succ n ih =>
    rw [leBytes, leNat, ih, Nat.pow_succ', Nat.mod_mul]
    rfl

theorem length_leBytes (n v : Nat) : (leBytes n v).length = n := by
  induction n generalizing v with
  | zero => rfl
  | succ n ih => rw [leBytes, List.length_cons, ih]

/-! ### The words that an mstf stores (07 R188, R189) -/

/-- The word that a store of `x` leaves: the fragment's where its bits are live, else what stood there. -/
def State.wordStored (s : State) (w : Warp) (g : Frag) (x : LineWord) : Word :=
  (BitVec.ofNat 32 (s.readNat x.2.2.2 4) &&& ~~~x.2.2.1) ||| (w.elem g x.2.1 x.1 &&& x.2.2.1)

/-- Two words of a line stand apart. -/
def LineWord.apart (x y : LineWord) : Prop := y.2.2.2 + 4 ≤ x.2.2.2 ∨ x.2.2.2 + 4 ≤ y.2.2.2

/-- The words of a plan stored one after another. -/
def State.storeWords (s : State) (w : Warp) (g : Frag) (plan : List LineWord) : State :=
  plan.foldl (fun t x => t.storeWord w g x) s

section
variable {s : State} (h : s.noReaders) (w : Warp) (g : Frag)
include h

/-- One store writes its word's four bytes. -/
theorem storeWord_effect (x : LineWord) :
    (s.storeWord w g x).mem = Memory.setAll s.mem x.2.2.2 (leBytes 4 (s.wordStored w g x).toNat) ∧
    (s.storeWord w g x).warps = s.warps := by
  have hraise (t : State) (k : Nat) (st : Stamp) : (t.raiseSpace k st).mem = t.mem ∧ (t.raiseSpace k st).warps = t.warps := by
    simp only [State.raiseSpace]
    split <;> exact ⟨rfl, rfl⟩
  simp only [State.storeWord]
  split
  · exact storeKeys_run h _ _ 3 _
  · rw [(hraise ..).1, (hraise ..).2]
    exact storeKeys_run h _ _ 3 _

theorem storeWords_warps (plan : List LineWord) : (s.storeWords w g plan).warps = s.warps := by
  induction plan generalizing s with
  | nil => rfl
  | cons x plan ih =>
    have hx := (storeWord_effect h w g x).2
    exact (ih (State.noReaders_congr h hx)).trans hx

theorem storeWords_wf (hwf : s.memWf) (plan : List LineWord) : (s.storeWords w g plan).memWf := by
  induction plan generalizing s with
  | nil => exact hwf
  | cons x plan ih =>
    obtain ⟨hmem, hwarps⟩ := storeWord_effect h w g x
    exact ih (State.noReaders_congr h hwarps) (by rw [State.memWf, hmem]; exact Memory.wf_setAll hwf ..)

/-- Bytes outside the words are as before. -/
theorem storeWords_get {plan : List LineWord} {k : Nat} (hk : ∀ x ∈ plan, k < x.2.2.2 ∨ x.2.2.2 + 4 ≤ k) :
    Memory.get (s.storeWords w g plan).mem k = Memory.get s.mem k := by
  induction plan generalizing s with
  | nil => rfl
  | cons x plan ih =>
    obtain ⟨hx, hplan⟩ := List.forall_mem_cons.mp hk
    obtain ⟨hmem, hwarps⟩ := storeWord_effect h w g x
    refine (ih (State.noReaders_congr h hwarps) hplan).trans ?_
    rw [hmem]
    exact Memory.get_setAll_out (by rwa [length_leBytes])

theorem storeWords_readNat {plan : List LineWord} {x : LineWord} (hx : ∀ y ∈ plan, x.apart y) :
    (s.storeWords w g plan).readNat x.2.2.2 4 = s.readNat x.2.2.2 4 := by
  refine congrArg leNat (List.map_congr_left fun i hi => storeWords_get h w g fun y hy => ?_)
  have := List.mem_range.mp hi
  rcases hx y hy with hbelow | habove <;> omega

theorem storeWord_readNat (hwf : s.memWf) (x : LineWord) :
    (s.storeWord w g x).readNat x.2.2.2 4 = (s.wordStored w g x).toNat := by
  have hread := Memory.bytes_setAll hwf x.2.2.2 (leBytes 4 (s.wordStored w g x).toNat)
  rw [length_leBytes] at hread
  rw [State.readNat, State.read, (storeWord_effect h w g x).1, hread, leNat_leBytes]
  exact Nat.mod_eq_of_lt (s.wordStored w g x).isLt

/-- A word that no later one meets reads as it was stored; where it is not whole none may have met it before either. -/
theorem storeWords_stored (hwf : s.memWf) {before after : List LineWord} {x : LineWord} (hafter : ∀ y ∈ after, x.apart y)
    (hbefore : x.2.2.1 = BitVec.allOnes 32 ∨ ∀ y ∈ before, x.apart y) :
    (s.storeWords w g (before ++ x :: after)).readNat x.2.2.2 4 = (s.wordStored w g x).toNat := by
  have hreaders : (s.storeWords w g before).noReaders := State.noReaders_congr h (storeWords_warps h w g before)
  have hreaders' := State.noReaders_congr hreaders (storeWord_effect hreaders w g x).2
  have hsplit : s.storeWords w g (before ++ x :: after) = ((s.storeWords w g before).storeWord w g x).storeWords w g after :=
    List.foldl_append
  have hword : (s.storeWords w g before).wordStored w g x = s.wordStored w g x := by
    rcases hbefore with hwhole | hapart
    · simp only [State.wordStored, hwhole, BitVec.not_allOnes, BitVec.and_zero]
    · simp only [State.wordStored, storeWords_readNat h w g hapart]
  rw [hsplit, storeWords_readNat hreaders' w g hafter, storeWord_readNat hreaders w g (storeWords_wf h w g hwf before), hword]

end

/-! ### The instructions that the slice runs (07 R180, R183, R188, R192) -/

theorem warpCtx_w {s : State} {w : Warp} {e : Nat} {pc : PC} {m : Mask} {c : Ctx} (h : s.warpCtx? w e pc m = some c) :
    c.w = w ∧ c.pc = pc := by
  simp only [State.warpCtx?] at h
  split at h
  · cases h; exact ⟨rfl, rfl⟩
  · cases h

section
variable {s : State} {c : Ctx} {f : FormX} {m : Mask} {lows : List Nat}

/-- The warp after an mma: D written, then the marks (07 R183, R187). -/
def State.mmaWarp (s : State) (c : Ctx) (f : FormX) (m : Mask) : Warp :=
  let F := c.w.format f.xd.toNat ((lowLane m).getD 0)
  (s.multiply c.w F (FormX.mmaOperands f) f.dst.toNat (descKv F.da) m []).2.1.killMatrix f m
    [(0, f.xa.toNat, fragRegs f.shape f.codeA), (1, f.xb.toNat, fragRegs f.shape f.codeB), (2, f.xc.toNat, 32),
     (3, f.xd.toNat, 4), (4, f.xe.toNat, 1)] (regRange f.dst.toNat 32)

theorem mmaWarp_dataOnly (s : State) (c : Ctx) (f : FormX) (m : Mask) : c.w.dataOnly (s.mmaWarp c f m) :=
  Warp.dataOnly_trans (multiply_only ..).2 (killMatrix_dataOnly ..)

theorem runMma_ok (hcontrol : c.w.badControl f true ((lowLane m).getD 0) lows = none)
    (hcheck : (c.w.format f.xd.toNat ((lowLane m).getD 0)).check f.shape f.codeA f.codeB = none)
    (hscale : (c.w.format f.xd.toNat ((lowLane m).getD 0)).scaleFault c.g.sharedBytes f.shape
      (countOrK f.shape (descKv (c.w.format f.xd.toNat ((lowLane m).getD 0)).da)) m = none) :
    ∃ t bad, s.readsOnly t ∧ s.runMma c f m lows = .ok (t, s.mmaWarp c f m, bad) :=
  ⟨_, _, (multiply_only ..).1, by
    simp only [State.runMma, hcontrol, hcheck, hscale]
    rfl⟩

/-- The warp after an mldf: the fragment loaded, then the marks (07 R187, R188). -/
def State.mldfWarp (s : State) (c : Ctx) (f : FormX) (m : Mask) (plan : List LineWord) : Warp :=
  (s.loadLine c.w (FormX.lineFrag f f.dst.toNat) (countOrK f.shape f.cnt.toNat) m plan).2.1.killMatrix f m
    [(0, f.xa.toNat, 1), (4, f.xe.toNat, 1)] (regRange f.dst.toNat (lineRegs f.shape f.kind f.codeA))

theorem mldfWarp_dataOnly (s : State) (c : Ctx) (f : FormX) (m : Mask) (plan : List LineWord) :
    c.w.dataOnly (s.mldfWarp c f m plan) :=
  Warp.dataOnly_trans (loadLine_only ..).2 (killMatrix_dataOnly ..)

theorem runMldf_ok {plan : List LineWord} (hcontrol : c.w.badControl f false 0 lows = none)
    (hplan : s.linePlan c f.shape f.kind f.codeA (countOrK f.shape f.cnt.toNat) f.mspace m (c.w.lane f.xa.toNat) = .ok plan) :
    ∃ t bad, s.readsOnly t ∧ s.runMldf c f m lows = .ok (t, s.mldfWarp c f m plan, bad) :=
  ⟨_, _, (loadLine_only ..).1, by
    simp only [State.runMldf, hcontrol, hplan]
    rfl⟩

/-- The warp after an mstf: the marks alone act on it (07 R187). -/
def Ctx.mstfWarp (c : Ctx) (f : FormX) (m : Mask) : Warp :=
  c.w.killMatrix f m [(0, f.xa.toNat, 1), (1, f.xb.toNat, lineRegs f.shape f.kind f.codeA), (4, f.xe.toNat, 1)] []

theorem mstfWarp_dataOnly (c : Ctx) (f : FormX) (m : Mask) : c.w.dataOnly (c.mstfWarp f m) := killMatrix_dataOnly ..

theorem runMstf_ok {plan : List LineWord} (h : s.noReaders) (hw : s.warp? c.w.uid = some c.w)
    (hcontrol : c.w.badControl f false 0 lows = none)
    (hplan : s.linePlan c f.shape f.kind f.codeA (countOrK f.shape f.cnt.toNat) f.mspace m (c.w.lane f.xa.toNat) = .ok plan) :
    ∃ t bad, t.mem = (s.storeWords c.w (FormX.lineFrag f f.xb.toNat) plan).mem ∧ t.warps = s.warps ∧
      s.runMstf c f m lows = .ok (t, c.mstfWarp f m, bad) := by
  have hwarps := storeWords_warps h c.w (FormX.lineFrag f f.xb.toNat) plan
  have hfound (ks : List Nat) : ((plan.foldl (fun t x => t.storeWord c.w (FormX.lineFrag f f.xb.toNat) x) s).coverSectors
      ks).warp? c.w.uid = some c.w := by
    rw [← hw]
    exact congrArg (List.find? _) hwarps
  exact ⟨State.coverSectors _ _, _, rfl, hwarps, by
    simp only [State.runMstf, hcontrol, hplan, hfound, Option.getD_some]
    rfl⟩

/-- Both loads of a step and its multiplication: the state, the warp and the elements replaced (07 R192, R196). -/
def State.loopData (s : State) (c : Ctx) (f : FormX) (l : MloopState) (pa pb : List LineWord) : State × Warp × List BadElem :=
  let x := FormX.loopOperands f
  let kvf := stepKv l.block l.next l.total
  let A := s.loadLine c.w x.a (countOrK f.shape kvf) l.lanes pa
  let B := A.1.loadLine A.2.1 x.b (countOrK f.shape kvf) l.lanes pb
  let M := B.1.multiply B.2.1 (l.block.step l.next) x f.dst.toNat kvf l.lanes (asOperand 0 A.2.2 ++ asOperand 1 B.2.2)
  (M.1, M.2.1, A.2.2 ++ B.2.2 ++ M.2.2)

/-- The marks that act after the last step, and what they spare (07 R187). -/
def Warp.loopMarks (w : Warp) (f : FormX) (l : MloopState) : Warp :=
  if l.next + 1 = l.total then
    w.killMatrix f l.lanes [(2, f.xc.toNat, 4), (3, f.xd.toNat, 4), (4, f.xe.toNat, 1)]
      (regRange f.dst.toNat 32 ++ regRange f.xa.toNat (fragRegs f.shape f.codeA) ++
        regRange f.xb.toNat (fragRegs f.shape f.codeB))
  else w

/-- The record of an mloop after a step: at the next one, or gone after the last (07 R192). -/
def MloopState.advanced (l : MloopState) : Option MloopState :=
  if l.next + 1 = l.total then none else some { l with next := l.next + 1, resumed := false }

theorem loopStep_eq (s : State) (c : Ctx) (f : FormX) (l : MloopState) (pa pb : List LineWord) :
    s.loopStep c f l pa pb = (s.loopData c f l pa pb).2.1.loopMarks f l := rfl

theorem loopData_only (s : State) (c : Ctx) (f : FormX) (l : MloopState) (pa pb : List LineWord) :
    s.readsOnly (s.loopData c f l pa pb).1 ∧ c.w.dataOnly (s.loopData c f l pa pb).2.1 :=
  ⟨State.readsOnly_trans (State.readsOnly_trans (loadLine_only ..).1 (loadLine_only ..).1)
      (multiply_only (d := f.dst.toNat) ..).1,
    Warp.dataOnly_trans (Warp.dataOnly_trans (loadLine_only ..).2 (loadLine_only ..).2) (multiply_only ..).2⟩

theorem loopStep_dataOnly (s : State) (c : Ctx) (f : FormX) (l : MloopState) (pa pb : List LineWord) :
    c.w.dataOnly (s.loopStep c f l pa pb) := by
  rw [loopStep_eq, Warp.loopMarks]
  split
  · exact Warp.dataOnly_trans (loopData_only ..).2 (killMatrix_dataOnly ..)
  · exact (loopData_only ..).2

theorem loopMarks_mloop (w : Warp) (x : Option MloopState) (f : FormX) (l : MloopState) :
    ({ w with mloop := x } : Warp).loopMarks f l = { w.loopMarks f l with mloop := x } := by
  simp only [Warp.loopMarks]
  split
  · exact killMatrix_mloop ..
  · rfl

theorem mloopStep_ok {l : MloopState} {pa pb : List LineWord} (hplans : s.stepPlans c f l.block l l.next = .ok (pa, pb)) :
    s.mloopStep c f l = .ok ((s.loopData c f l pa pb).1, { s.loopStep c f l pa pb with mloop := l.advanced },
      (s.loopData c f l pa pb).2.2) := by
  rw [loopStep_eq, ← loopMarks_mloop]
  rcases hA : s.loadLine c.w (FormX.loopOperands f).a (countOrK f.shape (stepKv l.block l.next l.total)) l.lanes pa
    with ⟨t1, w1, bad1⟩
  rcases hB : t1.loadLine w1 (FormX.loopOperands f).b (countOrK f.shape (stepKv l.block l.next l.total)) l.lanes pb
    with ⟨t2, w2, bad2⟩
  simp only [State.mloopStep, hplans, State.loopData, hA, hB]
  rfl

theorem runMloop_ok {pa pb : List LineWord} (hcheck : s.mloopCheck c f (c.loopRecord f m).block (c.loopRecord f m) lows = none)
    (hplans : s.stepPlans c f (c.loopRecord f m).block (c.loopRecord f m) 0 = .ok (pa, pb)) :
    s.runMloop c f m lows = .ok ((s.loopData c f (c.loopRecord f m) pa pb).1,
      { s.loopStep c f (c.loopRecord f m) pa pb with mloop := (c.loopRecord f m).advanced },
      (s.loopData c f (c.loopRecord f m) pa pb).2.2) := by
  simp only [State.runMloop, hcheck]
  exact mloopStep_ok hplans

end

/-! ### The start of a slice and the next step of an mloop (07 R177, R192) -/

theorem exec_evMatrixSliceStart (die core sched : Nat) (s : State) :
    exec (.evMatrixSliceStart die core sched) s = execEvMatrixSliceStart die core sched s := rfl
theorem exec_evMloopStep (wid : Nat) (s : State) : exec (.evMloopStep wid) s = execEvMloopStep wid s := rfl

/-- Replaced elements are recorded in their core: memory and warps are as before. -/
theorem matrixErrors_same (s : State) (w : Warp) (pc : PC) (bad : List BadElem) :
    (bad.foldl (fun t b => t.matrixError w pc b) s).mem = s.mem ∧
    (bad.foldl (fun t b => t.matrixError w pc b) s).warps = s.warps :=
  List.foldlRecOn bad _ (motive := fun t : State => t.mem = s.mem ∧ t.warps = s.warps) ⟨rfl, rfl⟩ fun _ h _ _ => h

/-- The groups of a covered instruction go on at the next slot. -/
def Warp.rejoined (w : Warp) (gs : List (Nat × Group × Collective)) : Warp :=
  w.release (fun g => gs.any fun h => h.2.1 == g) fun g => nextSlot g.key

/-- The lowest running lane of each split that arrived. -/
def lowestLanes (gs : List (Nat × Group × Collective)) : List Nat := gs.filterMap fun g => lowLane g.2.1.lanes

/-- The slice has started an instruction: what `P` says has come about in a state and a warp of the same split table, then the
replaced elements are recorded and the groups go on. -/
def Ctx.SliceStarts (c : Ctx) (s : State) (die core sched : Nat) (gs : List (Nat × Group × Collective))
    (P : State → Warp → Prop) : Prop :=
  ∃ (t : State) (v : Warp) (bad : List BadElem), exec (.evMatrixSliceStart die core sched) s = .next (State.stabilise
    (((onceEach bad).foldl (fun t b => t.matrixError c.w c.pc b) t).putWarp (v.rejoined gs))) ∧
    v.preds = c.w.preds ∧ v.entries = c.w.entries ∧ v.living = c.w.living ∧ v.tickets = c.w.tickets ∧ P t v

section
variable {s : State} {die core sched : Nat} {o e : Nat} {g : Group} {k : Collective} {c : Ctx} {f : FormX}
  {q : List (Warp × PC × Nat)} {gs r : List (Nat × Group × Collective)}
  (hq : s.sliceQueue die core sched = (c.w, c.pc, o) :: q) (hgs : c.w.collectivesAt c.pc = gs) (hfirst : gs = (e, g, k) :: r)
  (hc : s.warpCtx? c.w e c.pc (contributing gs) = some c)
include hq hgs hfirst hc

theorem slice_idle (hm : contributing gs = 0) :
    exec (.evMatrixSliceStart die core sched) s = .next (State.stabilise (s.putWarp (c.w.rejoined gs))) := by
  subst hfirst
  rw [contributing] at hc hm
  simp only [exec_evMatrixSliceStart, execEvMatrixSliceStart, hq, hgs, hc, if_pos hm]
  rfl

theorem slice_runs (hm : contributing gs ≠ 0) (hstall : s.matrixStalls c k.i (contributing gs) = false) {t : State} {v : Warp}
    {bad : List BadElem} (hrun : s.runMatrix c k.i (contributing gs) (lowestLanes gs) = .ok (t, v, bad)) :
    exec (.evMatrixSliceStart die core sched) s = .next (State.stabilise
      (((onceEach bad).foldl (fun t b => t.matrixError c.w c.pc b) t).putWarp (v.rejoined gs))) := by
  subst hfirst
  rw [contributing] at hc hm hstall hrun
  rw [lowestLanes] at hrun
  simp only [exec_evMatrixSliceStart, execEvMatrixSliceStart, hq, hgs, hc, if_neg hm, hstall, hrun, Bool.false_eq_true, if_false]
  rfl

variable (hm : contributing gs ≠ 0) (hstall : s.matrixStalls c k.i (contributing gs) = false)
include hm hstall

theorem slice_starts {P : State → Warp → Prop} {i : Instr} {t : State} {v : Warp} {bad : List BadElem} (hi : k.i = i)
    (hrun : s.runMatrix c i (contributing gs) (lowestLanes gs) = .ok (t, v, bad)) (hv : c.w.sameControl v) (hP : P t v) :
    c.SliceStarts s die core sched gs P := by
  obtain ⟨hpreds, hentries, hliving, htickets⟩ := hv
  exact ⟨t, v, bad, slice_runs hq hgs hfirst hc hm hstall (hi ▸ hrun), hpreds, hentries, hliving, htickets, hP⟩

theorem slice_starts_mma (hi : k.i = .mma f)
    (hcontrol : c.w.badControl f true ((lowLane (contributing gs)).getD 0) (lowestLanes gs) = none)
    (hcheck : (c.w.format f.xd.toNat ((lowLane (contributing gs)).getD 0)).check f.shape f.codeA f.codeB = none)
    (hscale : (c.w.format f.xd.toNat ((lowLane (contributing gs)).getD 0)).scaleFault c.g.sharedBytes f.shape
      (countOrK f.shape (descKv (c.w.format f.xd.toNat ((lowLane (contributing gs)).getD 0)).da)) (contributing gs) = none) :
    c.SliceStarts s die core sched gs fun t v => t.mem = s.mem ∧ t.warps = s.warps ∧ v.mloop = c.w.mloop ∧
      v.regs = (s.mmaWarp c f (contributing gs)).regs := by
  obtain ⟨t, bad, hreads, hrun⟩ := runMma_ok hcontrol hcheck hscale
  obtain ⟨hmem, hwarps⟩ := State.readsOnly_same hreads
  have hdata := mmaWarp_dataOnly s c f (contributing gs)
  exact slice_starts hq hgs hfirst hc hm hstall hi hrun hdata.sameControl ⟨hmem, hwarps, hdata.mloop, rfl⟩

theorem slice_starts_mldf {plan : List LineWord} (hi : k.i = .mldf f)
    (hcontrol : c.w.badControl f false 0 (lowestLanes gs) = none)
    (hplan : s.linePlan c f.shape f.kind f.codeA (countOrK f.shape f.cnt.toNat) f.mspace (contributing gs)
      (c.w.lane f.xa.toNat) = .ok plan) :
    c.SliceStarts s die core sched gs fun t v => t.mem = s.mem ∧ t.warps = s.warps ∧ v.mloop = c.w.mloop ∧
      v.regs = (s.mldfWarp c f (contributing gs) plan).regs := by
  obtain ⟨t, bad, hreads, hrun⟩ := runMldf_ok hcontrol hplan
  obtain ⟨hmem, hwarps⟩ := State.readsOnly_same hreads
  have hdata := mldfWarp_dataOnly s c f (contributing gs) plan
  exact slice_starts hq hgs hfirst hc hm hstall hi hrun hdata.sameControl ⟨hmem, hwarps, hdata.mloop, rfl⟩

theorem slice_starts_mstf {plan : List LineWord} (hi : k.i = .mstf f) (hreaders : s.noReaders) (hw : s.warp? c.w.uid = some c.w)
    (hcontrol : c.w.badControl f false 0 (lowestLanes gs) = none)
    (hplan : s.linePlan c f.shape f.kind f.codeA (countOrK f.shape f.cnt.toNat) f.mspace (contributing gs)
      (c.w.lane f.xa.toNat) = .ok plan) :
    c.SliceStarts s die core sched gs fun t v => t.warps = s.warps ∧
      t.mem = (s.storeWords c.w (FormX.lineFrag f f.xb.toNat) plan).mem ∧ v.mloop = c.w.mloop ∧
      v.regs = (c.mstfWarp f (contributing gs)).regs := by
  obtain ⟨t, bad, hmem, hwarps, hrun⟩ := runMstf_ok hreaders hw hcontrol hplan
  have hdata := mstfWarp_dataOnly c f (contributing gs)
  exact slice_starts hq hgs hfirst hc hm hstall hi hrun hdata.sameControl ⟨hwarps, hmem, hdata.mloop, rfl⟩

theorem slice_starts_mloop {pa pb : List LineWord} (hi : k.i = .mloop f)
    (hcheck : s.mloopCheck c f (c.loopRecord f (contributing gs)).block (c.loopRecord f (contributing gs)) (lowestLanes gs) = none)
    (hplans : s.stepPlans c f (c.loopRecord f (contributing gs)).block (c.loopRecord f (contributing gs)) 0 = .ok (pa, pb)) :
    c.SliceStarts s die core sched gs fun t v => t.mem = s.mem ∧ t.warps = s.warps ∧
      v.mloop = (c.loopRecord f (contributing gs)).advanced ∧
      v.regs = (s.loopStep c f (c.loopRecord f (contributing gs)) pa pb).regs := by
  obtain ⟨hmem, hwarps⟩ := State.readsOnly_same (loopData_only s c f (c.loopRecord f (contributing gs)) pa pb).1
  have hcontrol := (loopStep_dataOnly s c f (c.loopRecord f (contributing gs)) pa pb).sameControl
  exact slice_starts hq hgs hfirst hc hm hstall hi (runMloop_ok hcheck hplans) hcontrol ⟨hmem, hwarps, rfl, rfl⟩

end

/-- An mloop of one step has ended with its first. -/
theorem advanced_first {l : MloopState} (h : l.next = 0) (hr : l.resumed = false) :
    l.advanced = if l.total = 1 then none else some { l with next := 1 } := by
  by_cases ht : l.total = 1
  · rw [MloopState.advanced, if_pos ht, if_pos (by omega)]
  · rw [MloopState.advanced, if_neg ht, if_neg (by omega), h, ← hr]

theorem mloopStep_event {s : State} {w : Warp} {l : MloopState} {f : FormX} {c : Ctx} {t : State} {v : Warp} {bad : List BadElem}
    (hw : s.warp? w.uid = some w) (hl : w.mloop = some l) (hi : l.i = .mloop f) (hc : s.warpCtx? w 0 l.pc l.lanes = some c)
    (hhalt : c.l.halted = false) (hstep : s.mloopStep c f l = .ok (t, v, bad)) :
    exec (.evMloopStep w.uid) s = .next (((onceEach bad).foldl (fun t b => t.matrixError w l.pc b) t).putWarp v) := by
  simp only [exec_evMloopStep, execEvMloopStep, hw, hl, hi, hc, hhalt, hstep, Bool.false_eq_true, if_false]

end Sys2Proof.Machine

namespace Sys2Proof.Proofs
open Sys2Proof.Machine

/-- Settles O24: what the slice's event puts in place is what its instruction's run gives, and likewise for an mloop's next step;
every run changes data alone, and an mstf's memory is that of its words stored one after another. -/
theorem matrixSteps : Obligations.MatrixSteps := by
  refine ⟨?_, ?_⟩
  · intro s die core sched w pc o e g k c q r gs m lows low starts hwf hw hq hfirst hc
    obtain ⟨rfl, rfl⟩ := warpCtx_w hc
    refine ⟨slice_idle hq rfl hfirst hc, fun hm hstall => ⟨?_, ?_, ?_, ?_⟩⟩
    · exact fun f hi hcontrol hcheck hscale => slice_starts_mma hq rfl hfirst hc hm hstall hi hcontrol hcheck hscale
    · exact fun f plan hi hcontrol hplan => slice_starts_mldf hq rfl hfirst hc hm hstall hi hcontrol hplan
    · intro f plan hi hreaders hcontrol hplan
      obtain ⟨t, v, bad, hexec, hpreds, hentries, hliving, htickets, hwarps, hmem, hmloop, hregs⟩ :=
        slice_starts_mstf hq rfl hfirst hc hm hstall hi hreaders hw hcontrol hplan
      refine ⟨t, v, bad, hexec, hpreds, hentries, hliving, htickets, hwarps, fun k hk => ?_, hmloop, hregs, ?_⟩
      · rw [hmem]
        exact storeWords_get hreaders c.w _ fun x hx => not_mem_runKeys.mp (hk _ (List.mem_map_of_mem hx))
      · intro before after i r live a hsplit hafter hbefore
        rw [State.readNat, State.read, hmem, hsplit]
        exact storeWords_stored hreaders c.w _ hwf (x := (i, r, live, a)) hafter hbefore
    · intro f pa pb hi hcnt l hcheck hplans
      have h := slice_starts_mloop hq rfl hfirst hc hm hstall hi hcheck hplans
      rw [advanced_first rfl rfl] at h
      exact h
  · intro s w l f c pa pb hw hl hi hc hhalt hplans
    obtain ⟨rfl, -⟩ := warpCtx_w hc
    obtain ⟨hpreds, hentries, -, -⟩ := (loopStep_dataOnly s c f l pa pb).sameControl
    obtain ⟨hmem, hwarps⟩ := State.readsOnly_same (loopData_only s c f l pa pb).1
    obtain ⟨hmem', hwarps'⟩ := matrixErrors_same (s.loopData c f l pa pb).1 c.w l.pc (onceEach (s.loopData c f l pa pb).2.2)
    exact ⟨_, _, mloopStep_event hw hl hi hc hhalt (mloopStep_ok hplans), hmem'.trans hmem, hwarps'.trans hwarps, hpreds,
      hentries, rfl, rfl⟩

end Sys2Proof.Proofs
